-- ==== Sys2Proof/Word.lean ====
section
/-! DEFINITION. The word types of the Phoyn P6 and the table type the machine's register files use. -/

namespace Sys2Proof

/-- A byte of memory or of a register. -/
abbrev Byte := BitVec 8

/-- A scalar register, a virtual address, a device register (R167, R6, R79). -/
abbrev Word := BitVec 64

/-- A 32-bit lane, an FP32 pattern. -/
abbrev W32 := BitVec 32

/-- A vector register of 256 bytes, byte b in bits [8b+7:8b] (R45). -/
abbrev VReg := BitVec 2048

/-- One row of a tile register, 64 bytes (R46). -/
abbrev TRow := BitVec 512

/-- A tile register of 64 rows of 64 bytes, byte 64r+c in bits [8(64r+c)+7:8(64r+c)] (R46). -/
abbrev TReg := BitVec 32768

/-- An accumulator tile of 256 FP32 elements, element e in bits [32e+31:32e] (R49). -/
abbrev ATile := BitVec 8192

/-- A table from numbers to values: entries rise strictly, a key that is not listed has the default
that its reader names. -/
abbrev AMap (α : Type) := List (Nat × α)

end Sys2Proof
end

