-- ==== Sys2Proof/Syntax.lean ====
section
/-! DEFINITION. Every step of the Phoyn P6 as syntax: the operations of the eight bundle slots with their fields, and
the whole steps of the machine that are no instruction word (arrivals, engine points, device-register actions,
command packets), each with the numbers of the agent it belongs to.  One constructor per row of the opcode table. -/

namespace Sys2Proof

/-- Scalar register code (R160, Table 8-5). -/
abbrev SCode := BitVec 6
/-- Predicate code (R160). -/
abbrev PCode := BitVec 4
/-- Lane-mask code (R160). -/
abbrev MCode := BitVec 3
/-- Vector code: v0 to v383, b0 to b31 at 448 to 479, the rest reserved (R160). -/
abbrev VCode := BitVec 9
/-- Tile-register code (R160). -/
abbrev TCode := BitVec 3
/-- Accumulator-tile code, 3,072 and above reserved (R160). -/
abbrev ACode := BitVec 12
/-- Stash-tile code (R160). -/
abbrev QCode := BitVec 9

/-- The eight slots in slot order (R152). -/
inductive Slot where
  | s | v0 | v1 | m | l | st | x | y
deriving DecidableEq, Repr

/-- Element types in code order (R161, Table 8-6); codes 0xE and 0xF are reserved. -/
inductive Ty where
  | s8 | s16 | s32 | s64 | z8 | z16 | z32 | z64 | f32 | bf16 | f16 | e4m3 | e5m2 | i4
deriving DecidableEq, Repr

/-- Matrix operand classes in code order (R161, R209); codes 0xB to 0xF are reserved. -/
inductive Cls where
  | fp32 | bf16 | fp16 | e4m3 | e5m2 | int8 | int4 | sb3 | sb5 | sb8 | cb4
deriving DecidableEq, Repr

/-- Rounding codes (R161): to nearest even, toward zero, up, down. -/
inductive Rm where
  | rn | rz | ru | rd
deriving DecidableEq, Repr

/-- Integer conditions in code order (Table 9-3). -/
inductive ICond where
  | eq | ne | ltS | leS | gtS | geS | ltZ | leZ | gtZ | geZ
deriving DecidableEq, Repr

/-- Floating-point conditions in code order (Table 9-3). -/
inductive FCond where
  | eq | ne | lt | le | gt | ge | un | or
deriving DecidableEq, Repr

/-- Types of the atomics in code order (R269). -/
inductive ATy where
  | s32 | s64 | z32 | z64
deriving DecidableEq, Repr

/-- System registers (R162, Table 8-7). -/
inductive SysReg where
  | ctx | rank | skew | task | part
  | level (n : BitVec 3)
  | cause | epc | fault | feature | arith | cycle
  | ttb | asid | awin | swin | tlh | phase
deriving DecidableEq, Repr

/-- Targets of rdsp and wrsp (R184, Table 9-7). -/
inductive SpReg where
  | sys (r : SysReg)
  | sched (n : BitVec 4)
  /-- Word of the shadow of a shape register; the code's high half is the engine slot (Table 8-5). -/
  | shadow (code : BitVec 4) (word : BitVec 3)
  | mp (n : BitVec 3)
  | mask (n : BitVec 3)
deriving DecidableEq, Repr

/-- The guard of a slot operation: p[pred] XOR neg (R159). -/
structure Guard where
  neg : Bool
  pred : PCode
deriving DecidableEq, Repr

/-- The fields of mma, mmaz and mmam (R215). -/
structure MmaOp where
  acc : ACode
  ta : TCode
  tb : TCode
  /-- First of eight header registers. -/
  v : VCode
  ca : Cls
  cb : Cls
  taT : Bool
  tbT : Bool
  /-- A from the operand latch. -/
  al : Bool
  /-- B from the millrace, with the rank of its source. -/
  mr : Option (BitVec 4)
deriving DecidableEq, Repr

/-- What a walk is asked for (R12, R17): the table base (a multiple of 4 KiB), the address space, the address and
whether the access writes. -/
structure WalkReq where
  ttb : Nat
  asid : BitVec 16
  va : Word
  write : Bool
deriving DecidableEq, Repr

/-- One access of a memory-side unit or of a fabric request to physical memory. -/
inductive MemAct where
  | read (pa n : Nat)
  | write (pa : Nat) (bytes : List Byte)
  /-- Bytes of one line, each with its address. -/
  | writes (cells : List (Nat × Byte))
  /-- op counts Table 13-9's atomics from aadd. -/
  | atomic (op : Nat) (ty : ATy) (pa : Nat) (operand compare : Word)
deriving DecidableEq, Repr

/-- A Kwavik request as it is stored for sending (R103): source and destination module, lane, sequence number; its
addresses are offsets in the destination module's HBM. -/
structure FabReq where
  src : Nat
  dest : Nat
  lane : Nat
  seq : Nat
  act : MemAct
deriving DecidableEq, Repr

/-- An access that a memory-side unit performs for an agent outside the contexts (R67, R74). -/
structure MsuReq where
  stack : Nat
  act : MemAct
deriving DecidableEq, Repr

/-- Registers of a context beside its scalars, vectors, tile registers and accumulator tiles, which an uncorrectable error
can poison (R65). pred: 16 to 19 are p12 to p15 of the handler bank; shape: both copies of a shape register. -/
inductive SideReg where
  | pred (n : Nat)
  | mask (n : Nat)
  | stream (n : Nat)
  | shape (code : Nat)
  | matrixParam (n : Nat)
  | latch
  | codebook
  | zbitmap
  | microprogram
  | ruleTable
deriving DecidableEq, Repr

/-- What an uncorrectable soft error poisons (R65). -/
inductive PoisonTarget where
  /-- The 64-byte line of memory with this number, wherever it is held. -/
  | line (n : Nat)
  /-- Vector register n of context c. -/
  | vector (c n : Nat)
  /-- Tile register n of context c. -/
  | tile (c n : Nat)
  /-- Scalar register n of context c; 64 to 79 are s48 to s63 of the handler bank. -/
  | scalar (c n : Nat)
  /-- Accumulator tile n of the store of core k. -/
  | acc (k n : Nat)
  /-- Another register of context c. -/
  | side (c : Nat) (r : SideReg)
deriving DecidableEq, Repr

/-- Life-cycle states, in the order in which they follow one another (R337). -/
inductive LifeCycle where
  | manufacturing | provisioned | deployed | returned
deriving DecidableEq, Repr

/-- Kinds of sections (Table 16-2). -/
inductive SectKind where
  | text | data | stash | micro | ruletable
deriving DecidableEq, Repr

/-- A section of an object, or its native text, with the loader's choices (R362): kind, offset in the body, length, virtual
base, and the physical 64 KiB frames of its pages in order. The frames of text are those that its chunks come to (R332). -/
structure Section where
  kind : SectKind
  off : Nat
  len : Nat
  base : Nat
  frames : List Nat
deriving DecidableEq, Repr

/-- Kinds of relocations (R321). -/
inductive RelocKind where
  | absLo32 | absHi32 | abs64 | bundle25
deriving DecidableEq, Repr

/-- A relocation (R321): section and offset of its field (of its bundle for bundle25), and its symbol as object (none: its
own), section and offset. -/
structure Reloc where
  kind : RelocKind
  sect : Nat
  off : Nat
  obj : Option Nat
  tsect : Nat
  toff : Nat
deriving DecidableEq, Repr

/-- A Bolmon object as it is given to the loader (R329): its bytes; what its section, relocation, kernel and safe-point tables
hold, whose layout the manual does not give (log 106); and the loader's choices (R362): address space, page table, and the
place of the native text of canonical text. -/
structure BmoObject where
  bytes : List Byte
  sections : List Section
  relocs : List Reloc
  /-- Kernel entries: section and offset. -/
  kernels : List (Nat × Nat)
  /-- Safe points: native and canonical offset. -/
  points : List (Nat × Nat)
  asid : BitVec 16
  ttb : Nat
  native : Option Section
deriving DecidableEq, Repr

/-- A command packet (R346): the header's OPC and ARG, and the payload, whose length is NDW. -/
structure Packet where
  opc : BitVec 8
  arg : BitVec 8
  payload : List W32
deriving DecidableEq, Repr

/-- The steps of the machine: slot operations, then the module's own events, then what only the outside asks for. -/
inductive Instr where
  /-- EMPTY_BUNDLE (R155): a bundle whose slots are all empty. -/
  | emptyBundle
  /-- NOP (R156) in any slot. -/
  | nop (slot : Slot)
  /-- BLOCKED_BUNDLE_RETRY (R129): the core's rotation comes back to context c. -/
  | blockedBundleRetry (c : Nat)
  /-- ADD (R169). -/
  | add (g : Guard) (sd sa sb : SCode)
  /-- SUB (R169). -/
  | sub (g : Guard) (sd sa sb : SCode)
  /-- MUL (R169). -/
  | mul (g : Guard) (sd sa sb : SCode)
  /-- MULH (R169); sg: signed. -/
  | mulh (g : Guard) (sg : Bool) (sd sa sb : SCode)
  /-- DIV (R170). -/
  | div (g : Guard) (sg : Bool) (sd sa sb : SCode)
  /-- REM (R170). -/
  | rem (g : Guard) (sg : Bool) (sd sa sb : SCode)
  /-- AND (R169). -/
  | and (g : Guard) (sd sa sb : SCode)
  /-- OR (R169). -/
  | or (g : Guard) (sd sa sb : SCode)
  /-- XOR (R169). -/
  | xor (g : Guard) (sd sa sb : SCode)
  /-- ANDN (R169). -/
  | andn (g : Guard) (sd sa sb : SCode)
  /-- SHL (R169). -/
  | shl (g : Guard) (sd sa sb : SCode)
  /-- SHR (R169); sg: signed. -/
  | shr (g : Guard) (sg : Bool) (sd sa sb : SCode)
  /-- MIN (R169); sg: signed. -/
  | min (g : Guard) (sg : Bool) (sd sa sb : SCode)
  /-- MAX (R169); sg: signed. -/
  | max (g : Guard) (sg : Bool) (sd sa sb : SCode)
  /-- ADDI (R172). -/
  | addi (g : Guard) (sd sa : SCode) (imm : BitVec 32)
  /-- ANDI (R172). -/
  | andi (g : Guard) (sd sa : SCode) (imm : BitVec 32)
  /-- ORI (R172). -/
  | ori (g : Guard) (sd sa : SCode) (imm : BitVec 32)
  /-- XORI (R172). -/
  | xori (g : Guard) (sd sa : SCode) (imm : BitVec 32)
  /-- SHLI (R172). -/
  | shli (g : Guard) (sd sa : SCode) (imm : BitVec 32)
  /-- SHRI (R172). -/
  | shri (g : Guard) (sg : Bool) (sd sa : SCode) (imm : BitVec 32)
  /-- MOVI (R172). -/
  | movi (g : Guard) (sd : SCode) (imm : BitVec 32)
  /-- MOVHI (R172). -/
  | movhi (g : Guard) (sd sa : SCode) (imm : BitVec 32)
  /-- LEA (R172); the scale is 2^k. -/
  | lea (g : Guard) (k : BitVec 3) (sd sa : SCode) (imm : BitVec 32)
  /-- CMP (R174). -/
  | cmp (g : Guard) (cc : ICond) (pt pf : PCode) (sa sb : SCode)
  /-- CMPI (R174). -/
  | cmpi (g : Guard) (cc : ICond) (pt pf : PCode) (sa : SCode) (imm : BitVec 20)
  /-- FCMP (R174). -/
  | fcmp (g : Guard) (fc : FCond) (pt pf : PCode) (sa sb : SCode)
  /-- PLOG (R175). -/
  | plog (g : Guard) (pt pf pa pb : PCode) (tt : BitVec 4)
  /-- FADD (R177). -/
  | fadd (g : Guard) (sd sa sb : SCode)
  /-- FSUB (R177). -/
  | fsub (g : Guard) (sd sa sb : SCode)
  /-- FMUL (R177). -/
  | fmul (g : Guard) (sd sa sb : SCode)
  /-- FFMA (R177). -/
  | ffma (g : Guard) (sd sa sb sc : SCode)
  /-- FDIV (R177). -/
  | fdiv (g : Guard) (sd sa sb : SCode)
  /-- FSQRT (R177). -/
  | fsqrt (g : Guard) (sd sa : SCode)
  /-- FMIN (R177). -/
  | fmin (g : Guard) (sd sa sb : SCode)
  /-- FMAX (R177). -/
  | fmax (g : Guard) (sd sa sb : SCode)
  /-- FCVT (R178); toF32 is DIR. -/
  | fcvt (g : Guard) (ty : BitVec 4) (toF32 : Bool) (rm : Rm) (inf : Bool) (sd sa : SCode)
  /-- BR (R179). -/
  | br (g : Guard) (off : BitVec 25)
  /-- CALL (R179). -/
  | call (g : Guard) (sd : SCode) (off : BitVec 25)
  /-- JMP (R179). -/
  | jmp (g : Guard) (sa : SCode)
  /-- CALLI (R179). -/
  | calli (g : Guard) (sd sa : SCode)
  /-- RET (R179). -/
  | ret (g : Guard) (sa : SCode)
  /-- LOOP (R179). -/
  | loop (g : Guard) (sd : SCode) (off : BitVec 25)
  /-- TRET (R183). -/
  | tret (g : Guard)
  /-- RDSP (R184). -/
  | rdsp (g : Guard) (sd : SCode) (r : SpReg)
  /-- WRSP (R184). -/
  | wrsp (g : Guard) (ss : SCode) (r : SpReg)
  /-- VADD (R191). -/
  | vadd (g : Guard) (v1 : Bool) (ty : Ty) (sat : Bool) (vd va vb : VCode) (m : MCode)
  /-- VSUB (R191). -/
  | vsub (g : Guard) (v1 : Bool) (ty : Ty) (sat : Bool) (vd va vb : VCode) (m : MCode)
  /-- VMUL (R191). -/
  | vmul (g : Guard) (v1 : Bool) (ty : Ty) (sat : Bool) (vd va vb : VCode) (m : MCode)
  /-- VMULH (R191). -/
  | vmulh (g : Guard) (v1 : Bool) (ty : Ty) (vd va vb : VCode) (m : MCode)
  /-- VMIN (R191). -/
  | vmin (g : Guard) (v1 : Bool) (ty : Ty) (vd va vb : VCode) (m : MCode)
  /-- VMAX (R191). -/
  | vmax (g : Guard) (v1 : Bool) (ty : Ty) (vd va vb : VCode) (m : MCode)
  /-- VABS (R191). -/
  | vabs (g : Guard) (v1 : Bool) (ty : Ty) (sat : Bool) (vd va : VCode) (m : MCode)
  /-- VNEG (R191). -/
  | vneg (g : Guard) (v1 : Bool) (ty : Ty) (sat : Bool) (vd va : VCode) (m : MCode)
  /-- VAND (R191). -/
  | vand (g : Guard) (v1 : Bool) (ty : Ty) (vd va vb : VCode) (m : MCode)
  /-- VOR (R191). -/
  | vor (g : Guard) (v1 : Bool) (ty : Ty) (vd va vb : VCode) (m : MCode)
  /-- VXOR (R191). -/
  | vxor (g : Guard) (v1 : Bool) (ty : Ty) (vd va vb : VCode) (m : MCode)
  /-- VANDN (R191). -/
  | vandn (g : Guard) (v1 : Bool) (ty : Ty) (vd va vb : VCode) (m : MCode)
  /-- VSHL (R191). -/
  | vshl (g : Guard) (v1 : Bool) (ty : Ty) (vd va vb : VCode) (m : MCode)
  /-- VSHR (R191). -/
  | vshr (g : Guard) (v1 : Bool) (ty : Ty) (vd va vb : VCode) (m : MCode)
  /-- VSEL (R191). -/
  | vsel (g : Guard) (v1 : Bool) (ty : Ty) (vd va vb : VCode) (m : MCode)
  /-- VADDI (R191). -/
  | vaddi (g : Guard) (v1 : Bool) (ty : Ty) (sat : Bool) (vd va : VCode) (m : MCode) (imm : BitVec 16)
  /-- VANDI (R191). -/
  | vandi (g : Guard) (v1 : Bool) (ty : Ty) (vd va : VCode) (m : MCode) (imm : BitVec 16)
  /-- VSHLI (R191). -/
  | vshli (g : Guard) (v1 : Bool) (ty : Ty) (vd va : VCode) (m : MCode) (sa : SCode) (imm : BitVec 16)
  /-- VSHRI (R191). -/
  | vshri (g : Guard) (v1 : Bool) (ty : Ty) (vd va : VCode) (m : MCode) (sa : SCode) (imm : BitVec 16)
  /-- VMOVI (R191). -/
  | vmovi (g : Guard) (v1 : Bool) (ty : Ty) (vd : VCode) (m : MCode) (imm : BitVec 16)
  /-- VFADD (R193). -/
  | vfadd (g : Guard) (v1 : Bool) (ty : Ty) (vd va vb : VCode) (m : MCode)
  /-- VFSUB (R193). -/
  | vfsub (g : Guard) (v1 : Bool) (ty : Ty) (vd va vb : VCode) (m : MCode)
  /-- VFMUL (R193). -/
  | vfmul (g : Guard) (v1 : Bool) (ty : Ty) (vd va vb : VCode) (m : MCode)
  /-- VFFMA (R193). -/
  | vffma (g : Guard) (v1 : Bool) (ty : Ty) (vd va vb vc : VCode) (m : MCode)
  /-- VFNMA (R193). -/
  | vfnma (g : Guard) (v1 : Bool) (ty : Ty) (vd va vb vc : VCode) (m : MCode)
  /-- VFDIV (R193). -/
  | vfdiv (g : Guard) (v1 : Bool) (ty : Ty) (vd va vb : VCode) (m : MCode)
  /-- VFSQRT (R193). -/
  | vfsqrt (g : Guard) (v1 : Bool) (ty : Ty) (vd va : VCode) (m : MCode)
  /-- VFMIN (R193). -/
  | vfmin (g : Guard) (v1 : Bool) (ty : Ty) (vd va vb : VCode) (m : MCode)
  /-- VFMAX (R193). -/
  | vfmax (g : Guard) (v1 : Bool) (ty : Ty) (vd va vb : VCode) (m : MCode)
  /-- VFABS (R193). -/
  | vfabs (g : Guard) (v1 : Bool) (ty : Ty) (vd va : VCode) (m : MCode)
  /-- VFNEG (R193). -/
  | vfneg (g : Guard) (v1 : Bool) (ty : Ty) (vd va : VCode) (m : MCode)
  /-- VCVT (R194). -/
  | vcvt (g : Guard) (v1 : Bool) (dt st : Ty) (part : BitVec 3) (inf : Bool) (rm : Rm) (vd va : VCode) (m : MCode)
  /-- VCVTS (R195). -/
  | vcvts (g : Guard) (v1 : Bool) (dt : Ty) (part : BitVec 3) (inf : Bool) (rm : Rm) (vd va vb : VCode) (m : MCode)
  /-- VSBPK (R196). -/
  | vsbpk (g : Guard) (v1 : Bool) (f : BitVec 2) (part : BitVec 3) (inf : Bool) (rm : Rm) (vd va : VCode) (m : MCode)
  /-- VSBUN (R196). -/
  | vsbun (g : Guard) (v1 : Bool) (f : BitVec 2) (part : BitVec 3) (inf : Bool) (rm : Rm) (vd va : VCode) (m : MCode)
  /-- VPERM (R198). -/
  | vperm (g : Guard) (v1 : Bool) (ty : Ty) (zero : Bool) (vd va vb : VCode) (m : MCode)
  /-- VROT (R198). -/
  | vrot (g : Guard) (v1 : Bool) (ty : Ty) (vd va : VCode) (m : MCode) (sa : SCode) (imm : BitVec 16)
  /-- VBCL (R198). -/
  | vbcl (g : Guard) (v1 : Bool) (ty : Ty) (vd va : VCode) (m : MCode) (sa : SCode) (imm : BitVec 16)
  /-- VZIP (R198). -/
  | vzip (g : Guard) (v1 : Bool) (ty : Ty) (hi : Bool) (vd va vb : VCode) (m : MCode)
  /-- VUZP (R198). -/
  | vuzp (g : Guard) (v1 : Bool) (ty : Ty) (odd : Bool) (vd va vb : VCode) (m : MCode)
  /-- VCOMP (R198). -/
  | vcomp (g : Guard) (v1 : Bool) (ty : Ty) (vd va : VCode) (m : MCode)
  /-- VEXPD (R198). -/
  | vexpd (g : Guard) (v1 : Bool) (ty : Ty) (vd va : VCode) (m : MCode)
  /-- VSLIDE (R198). -/
  | vslide (g : Guard) (v1 : Bool) (ty : Ty) (down : Bool) (vd va : VCode) (m : MCode) (sa : SCode) (imm : BitVec 16)
  /-- VSUM (R199). -/
  | vsum (g : Guard) (v1 : Bool) (ty : Ty) (sat : Bool) (vd va : VCode) (m : MCode)
  /-- VRMAX (R199). -/
  | vrmax (g : Guard) (v1 : Bool) (ty : Ty) (vd va : VCode) (m : MCode)
  /-- VRMIN (R199). -/
  | vrmin (g : Guard) (v1 : Bool) (ty : Ty) (vd va : VCode) (m : MCode)
  /-- VFSUM (R199). -/
  | vfsum (g : Guard) (v1 : Bool) (ty : Ty) (vd va : VCode) (m : MCode)
  /-- VFRMAX (R199). -/
  | vfrmax (g : Guard) (v1 : Bool) (ty : Ty) (vd va : VCode) (m : MCode)
  /-- VFRMIN (R199). -/
  | vfrmin (g : Guard) (v1 : Bool) (ty : Ty) (vd va : VCode) (m : MCode)
  /-- VCMP (R200); with vec clear, vd names a lane mask. -/
  | vcmp (g : Guard) (v1 : Bool) (cc : ICond) (ty : Ty) (vec : Bool) (vd va vb : VCode) (m : MCode)
  /-- VFCMP (R200). -/
  | vfcmp (g : Guard) (v1 : Bool) (fc : FCond) (ty : Ty) (vec : Bool) (vd va vb : VCode) (m : MCode)
  /-- MLOG (R200). -/
  | mlog (g : Guard) (v1 : Bool) (md ma mb : MCode) (tt : BitVec 4)
  /-- VTMASK (R202). -/
  | vtmask (g : Guard) (v1 : Bool) (ty : Ty) (fill : Bool) (kb : BitVec 5) (vd va vb : VCode) (m : MCode)
  /-- PSQZ (R241). -/
  | psqz (g : Guard) (v1 : Bool) (ty : Ty) (k : BitVec 4) (pmin : BitVec 16) (vd va : VCode) (m : MCode)
  /-- PLUT (R242). -/
  | plut (g : Guard) (v1 : Bool) (vd va vb : VCode) (m : MCode)
  /-- PMIX (R243). -/
  | pmix (g : Guard) (v1 : Bool) (vd va vb vc : VCode) (m : MCode)
  /-- CDEC (R232, R235). -/
  | cdec (g : Guard) (cs : BitVec 2) (vd va : VCode) (m : MCode)
  /-- CENC (R233, R235). -/
  | cenc (g : Guard) (cs : BitVec 2) (va vb : VCode) (m : MCode)
  /-- CDECM (R232, R235). -/
  | cdecm (g : Guard) (cs : BitVec 2) (vd va : VCode) (m : MCode)
  /-- CENCM (R233, R235). -/
  | cencm (g : Guard) (cs : BitVec 2) (va vb : VCode) (m : MCode)
  /-- CINIT (R236). -/
  | cinit (g : Guard) (enc : Bool) (cs : BitVec 2) (va vb vc : VCode) (m : MCode)
  /-- CFLUSH (R234). -/
  | cflush (g : Guard) (cs : BitVec 2) (m : MCode)
  /-- CSAVE (R237). -/
  | csave (g : Guard) (cs : BitVec 2) (vd : VCode) (m : MCode)
  /-- CLOAD (R237). -/
  | cload (g : Guard) (cs : BitVec 2) (va : VCode) (m : MCode)
  /-- CSTAT (R238). -/
  | cstat (g : Guard) (sel : BitVec 3) (cs : BitVec 2) (md m : MCode)
  /-- MMA (R215, R216). -/
  | mma (g : Guard) (o : MmaOp)
  /-- MMAZ (R215, R216). -/
  | mmaz (g : Guard) (o : MmaOp)
  /-- MMAM (R215, R216). -/
  | mmam (g : Guard) (o : MmaOp) (rmk cmk : MCode)
  /-- MCALL (R222). -/
  | mcall (g : Guard) (entry : BitVec 7)
  /-- MRET (R222, R224): legal only as a microprogram entry. -/
  | mret (g : Guard)
  /-- MCB (R219). -/
  | mcb (g : Guard) (t : TCode)
  /-- MZB (R219). -/
  | mzb (g : Guard) (t : TCode)
  /-- MRGAT (R219). -/
  | mrgat (g : Guard) (vx : VCode) (mk : MCode)
  /-- MRULE (R247). -/
  | mrule (g : Guard) (qt : QCode) (mode : BitVec 2) (chk : Bool) (bnd : BitVec 2) (fix : BitVec 4) (gens : BitVec 8)
  /-- MRTAB (R246). -/
  | mrtab (g : Guard) (t : TCode) (row : BitVec 6)
  /-- ACLR (R220). -/
  | aclr (g : Guard) (acc : ACode) (cntm1 : BitVec 12)
  /-- MPLD (R221). -/
  | mpld (g : Guard) (t : TCode) (entry : BitVec 7) (row : BitVec 6) (nrm1 : BitVec 4)
  /-- LDS (R203, R205). -/
  | lds (g : Guard) (ty : Ty) (sd sa : SCode) (imm : BitVec 10) (land : BitVec 6)
  /-- LDV (R205). -/
  | ldv (g : Guard) (ty : Ty) (vd : VCode) (sa : SCode) (imm : BitVec 10) (land : BitVec 6) (m : MCode)
  /-- LDVS (R205). -/
  | ldvs (g : Guard) (ty : Ty) (vd : VCode) (sa sx : SCode) (imm : BitVec 10) (land : BitVec 6) (m : MCode)
  /-- LDG (R205). -/
  | ldg (g : Guard) (ty : Ty) (scaled : Bool) (vd : VCode) (sa : SCode) (vx : VCode) (imm : BitVec 10) (land : BitVec 6) (m : MCode)
  /-- LDB (R205). -/
  | ldb (g : Guard) (ty : Ty) (vd : VCode) (sa : SCode) (imm : BitVec 10) (land : BitVec 6) (m : MCode)
  /-- LDT (R205). -/
  | ldt (g : Guard) (t : TCode) (grp : BitVec 4) (sa : SCode) (imm : BitVec 10) (land : BitVec 6)
  /-- LDP (R265). -/
  | ldp (g : Guard) (f : BitVec 2) (k : BitVec 4) (mid : Bool) (vd : VCode) (sa sx : SCode) (land : BitVec 6) (m : MCode)
  /-- LDC (R240). -/
  | ldc (g : Guard) (cs : BitVec 2) (land : BitVec 6) (m : MCode)
  /-- STS (R206). -/
  | sts (g : Guard) (ty : Ty) (ss sa : SCode) (imm : BitVec 10)
  /-- STV (R206). -/
  | stv (g : Guard) (ty : Ty) (vs : VCode) (sa : SCode) (imm : BitVec 10) (m : MCode)
  /-- STVS (R206). -/
  | stvs (g : Guard) (ty : Ty) (vs : VCode) (sa sx : SCode) (imm : BitVec 10) (m : MCode)
  /-- STSC (R206). -/
  | stsc (g : Guard) (ty : Ty) (scaled : Bool) (vs : VCode) (sa : SCode) (vx : VCode) (imm : BitVec 10) (m : MCode)
  /-- STT (R206). -/
  | stt (g : Guard) (t : TCode) (grp : BitVec 4) (sa : SCode) (imm : BitVec 10)
  /-- STQ (R207). -/
  | stq (g : Guard) (t : TCode) (q : QCode)
  /-- STZ (R206). -/
  | stz (g : Guard) (sa : SCode) (imm : BitVec 10)
  /-- TABLE_WALK (R12, R17): a walker performs one walk. -/
  | tableWalk (w : WalkReq)
  /-- LOAD_DATA_ARRIVAL (R134): the data of landing entry id of context c arrives. -/
  | loadDataArrival (c id : Nat)
  /-- XSV (R251). -/
  | xsv (g : Guard) (ty : Ty) (lane : BitVec 8) (vd : VCode) (sa : SCode)
  /-- XSVB (R251). -/
  | xsvb (g : Guard) (ty : Ty) (vd : VCode) (sa : SCode)
  /-- XVS (R251). -/
  | xvs (g : Guard) (ty : Ty) (lane : BitVec 8) (sd : SCode) (va : VCode)
  /-- XVT (R251). -/
  | xvt (g : Guard) (va : VCode) (t : TCode) (col : Bool) (idx : BitVec 6) (w : BitVec 2)
  /-- XTV (R251). -/
  | xtv (g : Guard) (vd : VCode) (t : TCode) (col : Bool) (idx : BitVec 6) (w : BitVec 2)
  /-- XAV (R251). -/
  | xav (g : Guard) (vd : VCode) (acc : ACode)
  /-- XVA (R251). -/
  | xva (g : Guard) (va : VCode) (acc : ACode)
  /-- XCOPY (R256). -/
  | xcopy (g : Guard) (lenm1 : BitVec 12) (sa sb : SCode)
  /-- XPACK (R257). -/
  | xpack (g : Guard) (f : BitVec 3) (rm : Rm) (inf : Bool) (sa sb : SCode)
  /-- XUNPK (R257). -/
  | xunpk (g : Guard) (f : BitVec 3) (sa sb : SCode)
  /-- XDEC (R258). -/
  | xdec (g : Guard) (sa sb : SCode)
  /-- XZS (R259). -/
  | xzs (g : Guard) (exp : Bool) (sa sb : SCode)
  /-- XCRC (R260). -/
  | xcrc (g : Guard) (lenm1 : BitVec 12) (sa sb : SCode)
  /-- XNEST (R225). -/
  | xnest (g : Guard) (entry : BitVec 7) (sa sb : SCode)
  /-- XBCAST (R262). -/
  | xbcast (g : Guard) (sa : SCode)
  /-- XGATH (R262). -/
  | xgath (g : Guard) (sa : SCode)
  /-- XSEND (R262). -/
  | xsend (g : Guard) (sa : SCode)
  /-- XRECV (R262). -/
  | xrecv (g : Guard) (sa : SCode)
  /-- XRSCAT (R262). -/
  | xrscat (g : Guard) (sa : SCode)
  /-- XALLRED (R262). -/
  | xallred (g : Guard) (sa : SCode)
  /-- XCANCEL (R266). -/
  | xcancel (g : Guard) (sa sb : SCode)
  /-- TWAIT (R88, R268). -/
  | twait (g : Guard) (sa sb : SCode)
  /-- TSIG (R89). -/
  | tsig (g : Guard) (sb : SCode)
  /-- TREAD (R90). -/
  | tread (g : Guard) (sd sa : SCode) (land : BitVec 6)
  /-- FENCE (R82). -/
  | fence (g : Guard) (sc : BitVec 3)
  /-- AADD (R269). -/
  | aadd (g : Guard) (ty : ATy) (ret : Bool) (sd sa sb : SCode) (land : BitVec 6)
  /-- AAND (R269). -/
  | aand (g : Guard) (ty : ATy) (ret : Bool) (sd sa sb : SCode) (land : BitVec 6)
  /-- AOR (R269). -/
  | aor (g : Guard) (ty : ATy) (ret : Bool) (sd sa sb : SCode) (land : BitVec 6)
  /-- AXOR (R269). -/
  | axor (g : Guard) (ty : ATy) (ret : Bool) (sd sa sb : SCode) (land : BitVec 6)
  /-- AMIN (R269). -/
  | amin (g : Guard) (ty : ATy) (ret : Bool) (sd sa sb : SCode) (land : BitVec 6)
  /-- AMAX (R269). -/
  | amax (g : Guard) (ty : ATy) (ret : Bool) (sd sa sb : SCode) (land : BitVec 6)
  /-- ASWP (R269). -/
  | aswp (g : Guard) (ty : ATy) (ret : Bool) (sd sa sb : SCode) (land : BitVec 6)
  /-- ACAS (R269); ret is set in every legal form. -/
  | acas (g : Guard) (ty : ATy) (ret : Bool) (sd sa sb : SCode) (land : BitVec 6)
  /-- AFADD (R269). -/
  | afadd (g : Guard) (ret : Bool) (sd sa sb : SCode) (land : BitVec 6)
  /-- MRED (R270). -/
  | mred (g : Guard) (sa : SCode)
  /-- ARRIVE (R271). -/
  | arrive (g : Guard) (bar : BitVec 5)
  /-- BWAIT (R271). -/
  | bwait (g : Guard) (bar : BitVec 5)
  /-- DROP (R271). -/
  | drop (g : Guard) (bar : BitVec 5)
  /-- QPUSH (R272). -/
  | qpush (g : Guard) (sa sb : SCode)
  /-- QPOP (R272). -/
  | qpop (g : Guard) (sd sa : SCode) (land : BitVec 6)
  /-- LAUNCH (R273). -/
  | launch (g : Guard) (sa sb : SCode)
  /-- CVCLAIM (R274, R292). -/
  | cvclaim (g : Guard) (sd sa : SCode) (land : BitVec 6)
  /-- CVDONE (R274). -/
  | cvdone (g : Guard) (sa sb : SCode)
  /-- PWAIT (R267). -/
  | pwait (g : Guard) (sa sb : SCode)
  /-- TRAP (R275). -/
  | trap (g : Guard) (sa : SCode) (code : BitVec 8)
  /-- HALT (R276). -/
  | halt (g : Guard)
  /-- FFENCE (R277). -/
  | ffence (g : Guard)
  /-- TINV_PAGE (R23). -/
  | tinvPage (g : Guard) (sa sb : SCode) (sc : BitVec 3)
  /-- TINV_ASID (R23). -/
  | tinvAsid (g : Guard) (sb : SCode) (sc : BitVec 3)
  /-- TINV_ALL (R23). -/
  | tinvAll (g : Guard) (sc : BitVec 3)
  /-- TINV_COMPLETE (R24): the wait of context c's tinv ends. -/
  | tinvComplete (c : Nat)
  /-- SMAP (R57). -/
  | smap (g : Guard) (op : BitVec 2) (q : QCode) (sa : SCode)
  /-- SDRAIN (R57). -/
  | sdrain (g : Guard) (op : BitVec 2) (q : QCode)
  /-- PHASE (R117). -/
  | phase (g : Guard)
  /-- STASH_LINE_FILL (R53). -/
  | stashLineFill (c tile line : Nat)
  /-- STASH_DRAIN_COMPLETE (R57). -/
  | stashDrainComplete (c tile : Nat)
  /-- ACCUMULATOR_WRITE_FINISH (R59). -/
  | accumulatorWriteFinish (c tile : Nat)
  /-- RULE_GENERATION (R247). -/
  | ruleGeneration (c tile : Nat)
  /-- ENGINE_COMMAND_ACCEPT (R135). -/
  | engineCommandAccept (c eng num : Nat)
  /-- FENCE_COMPLETE (R82). -/
  | fenceComplete (c : Nat)
  /-- COPY_POINT (R254): one point of copy command num of context c. -/
  | copyPoint (c num : Nat)
  /-- SPILL_REPLAY (R255). -/
  | spillReplay (c num : Nat)
  /-- NEST_POINT (R225). -/
  | nestPoint (c num : Nat)
  /-- PLANE_LANDING (R264): the next plane of a destination tile of a collective lands at a member. -/
  | planeLanding (coll rank tile : Nat)
  /-- CANCEL_PROPAGATION (R266). -/
  | cancelPropagation (coll rank tile : Nat)
  /-- MRED_ARRIVAL (R92, R270). -/
  | mredArrival (cmd : Nat)
  /-- MSU_REDUCTION_LINE (R93). -/
  | msuReductionLine (stack : Nat)
  /-- PHASE_MERGE (R114). -/
  | phaseMerge (launch : Nat)
  /-- TASK_HALT_COMPLETE (R276). -/
  | taskHaltComplete (c : Nat)
  /-- PARTITION_SELECTION (R284). -/
  | partitionSelection (part : Nat)
  /-- QUEUE_AGED (R284). -/
  | queueAged (q : Nat)
  /-- CONTEXT_SAVE (R312). -/
  | contextSave (c : Nat)
  /-- CONTEXT_RESTORE (R314): the image goes to context c; none: the device operating system releases it instead (R87). -/
  | contextRestore (image : Nat) (c : Option Nat)
  /-- WATCHDOG_EXPIRY (R290). -/
  | watchdogExpiry (c : Nat)
  /-- FABRIC_REQUEST_ARRIVAL (R103). -/
  | fabricRequestArrival (r : FabReq)
  /-- COLD_RESET (R4, R70, R335). -/
  | coldReset
  /-- HBM_ZERO_COMPLETE (R70). -/
  | hbmZeroComplete
  /-- CONTROL_EVENT_DISPATCH (R345): the oldest event that can go goes to control core core. -/
  | controlEventDispatch (core : Nat)
  /-- NOP_PACKET (R346): command queue q performs packet p at its current position. -/
  | nopPacket (q : Nat) (p : Packet)
  /-- LAUNCH_PACKET (R347): command queue q performs packet p at its current position. -/
  | launchPacket (q : Nat) (p : Packet)
  /-- IBCALL_PACKET (R347): command queue q performs packet p at its current position. -/
  | ibcallPacket (q : Nat) (p : Packet)
  /-- IBRET_PACKET (R347): command queue q performs packet p at its current position. -/
  | ibretPacket (q : Nat) (p : Packet)
  /-- PRED_PACKET (R347): command queue q performs packet p at its current position. -/
  | predPacket (q : Nat) (p : Packet)
  /-- LOOP_PACKET (R347): command queue q performs packet p at its current position. -/
  | loopPacket (q : Nat) (p : Packet)
  /-- WRITE_PACKET (R347): command queue q performs packet p at its current position. -/
  | writePacket (q : Nat) (p : Packet)
  /-- TWAIT_PACKET (R347): command queue q performs packet p at its current position. -/
  | twaitPacket (q : Nat) (p : Packet)
  /-- TSIG_PACKET (R347): command queue q performs packet p at its current position. -/
  | tsigPacket (q : Nat) (p : Packet)
  /-- FFENCE_PACKET (R349): command queue q performs packet p at its current position. -/
  | ffencePacket (q : Nat) (p : Packet)
  /-- WAKEARM_PACKET (R350): command queue q performs packet p at its current position. -/
  | wakearmPacket (q : Nat) (p : Packet)
  /-- CONTROL_CORE_GATE (R350). -/
  | controlCoreGate (core : Nat)
  /-- FABRIC_ACKNOWLEDGEMENT (R105). -/
  | fabricAcknowledgement (dest lane seq : Nat)
  /-- MILLRACE_DELIVERY (R149). -/
  | millraceDelivery (ridge : Nat)
  /-- COLLECTIVE_DELIVERY (R262). -/
  | collectiveDelivery (coll rank tile : Nat)
  /-- RING_HEAD_ADVANCE (R307). -/
  | ringHeadAdvance (k : Nat) (head : Word)
  /-- WAKE_FRAME (R350). -/
  | wakeFrame (frame : List Byte)
  /-- HOST_MEMORY_WRITE (R352). -/
  | hostMemoryWrite (pa : Nat) (bytes : List Byte)
  /-- REGISTER_WRITE (R79): a store of n bytes to a device register by an outside agent. -/
  | registerWrite (pa n : Nat) (value : Word)
  /-- QTAIL_DOORBELL (R344). -/
  | qtailDoorbell (q : Nat) (tail : BitVec 32)
  /-- COMMAND_QUEUE_ENABLE (R344). -/
  | commandQueueEnable (q : Nat)
  /-- ERR_CLEAR (R351). -/
  | errClear (q : Nat)
  /-- ATTESTATION_REQUEST (R336). -/
  | attestationRequest (nonce : BitVec 256)
  /-- OBJECT_LOAD (R331). -/
  | objectLoad (o : BmoObject)
  /-- TEXT_PAGE_IN (R332): chunk number chunk of loaded object obj, read as bytes, goes to physical address pa. -/
  | textPageIn (obj chunk pa : Nat) (bytes : List Byte)
  /-- LIFECYCLE_TRANSITION (R337). -/
  | lifecycleTransition (goal : LifeCycle)
  /-- FUSECTR_ADVANCE (R334). -/
  | fusectrAdvance (value : BitVec 8)
  /-- RING_ENABLE (R306): a store sets EN of ring k. -/
  | ringEnable (k : Nat)
  /-- TOKEN_QUEUE_ENABLE (R101). -/
  | tokenQueueEnable (q : Nat) (depth parts : Nat)
  /-- TOKEN_QUEUE_DISABLE (R101). -/
  | tokenQueueDisable (q : Nat)
  /-- SOFT_ERROR_CORRECTED (R65). -/
  | softErrorCorrected (line : Nat)
  /-- SOFT_ERROR_UNCORRECTABLE (R65). -/
  | softErrorUncorrectable (t : PoisonTarget)
  /-- LINK_FAILURE (R104). -/
  | linkFailure (link : Nat)
  /-- DESTINATION_UNREACHABLE (R105). -/
  | destinationUnreachable (dest : Nat)
  /-- LINK_LEVEL_RETRY (R103). -/
  | linkLevelRetry (link : Nat) (r : FabReq)
  /-- ERESUME (R303, R309). -/
  | eresume (c : Nat)
  /-- SAVE (R303, R311). -/
  | save (c : Nat)
  /-- RESUME (R303). -/
  | resume (c : Nat)
  /-- CONTAIN (R303): context c in handler mode stores CONTAIN to its own CTLc. -/
  | contain (c : Nat)
  /-- FWD (R303): context c in handler mode stores FWD alone. -/
  | fwd (c : Nat)
  /-- PARK (R303): context c in handler mode stores PARK alone. -/
  | park (c : Nat)
  /-- MSU_ACCESS (R74): a unit performs one access to a line of its stack for an agent outside the contexts. -/
  | msuAccess (a : MsuReq)
deriving DecidableEq, Repr

end Sys2Proof
end

