-- ==== Sys2Proof/Machine/Legal.lean ====
section
/-! DEFINITION. Codes of the enumerated fields, sizes of the element types, and which operand values each operation
admits: the conditions of Table 8-16 that depend on the operation alone (REASON 0x08 between fields, 0x09, 0x0E). -/

namespace Sys2Proof

/-- Element-type code (Table 8-6). -/
def Ty.code : Ty → Nat
  | .s8 => 0 | .s16 => 1 | .s32 => 2 | .s64 => 3 | .z8 => 4 | .z16 => 5 | .z32 => 6 | .z64 => 7
  | .f32 => 8 | .bf16 => 9 | .f16 => 10 | .e4m3 => 11 | .e5m2 => 12 | .i4 => 13

/-- The element type of a code; 0xE and 0xF are reserved (Table 8-6). -/
def Ty.ofCode : Nat → Option Ty
  | 0 => some .s8 | 1 => some .s16 | 2 => some .s32 | 3 => some .s64 | 4 => some .z8 | 5 => some .z16
  | 6 => some .z32 | 7 => some .z64 | 8 => some .f32 | 9 => some .bf16 | 10 => some .f16 | 11 => some .e4m3
  | 12 => some .e5m2 | 13 => some .i4 | _ => none

/-- Width of one element in bits. -/
def Ty.bits : Ty → Nat
  | .s8 | .z8 | .e4m3 | .e5m2 => 8
  | .s16 | .z16 | .bf16 | .f16 => 16
  | .s32 | .z32 | .f32 => 32
  | .s64 | .z64 => 64
  | .i4 => 4

/-- Unit of an address offset and of alignment: the byte size, 1 for .i4 (R203). -/
def Ty.unit : Ty → Nat
  | .i4 => 1
  | t => t.bits / 8

/-- Lanes of a 256-byte register (Table 8-18). -/
def Ty.lanes (t : Ty) : Nat := 2048 / t.bits

/-- The eight integer types of the vector forms: .s8 to .z64. -/
def Ty.isInt : Ty → Bool
  | .s8 | .s16 | .s32 | .s64 | .z8 | .z16 | .z32 | .z64 => true
  | _ => false

/-- Types whose values are signed two's-complement integers. -/
def Ty.isSigned : Ty → Bool
  | .s8 | .s16 | .s32 | .s64 | .i4 => true
  | _ => false

/-- The five floating-point types. -/
def Ty.isFloat : Ty → Bool
  | .f32 | .bf16 | .f16 | .e4m3 | .e5m2 => true
  | _ => false

/-- The three types of the lanewise floating-point forms (R193). -/
def Ty.isVecFloat : Ty → Bool
  | .f32 | .bf16 | .f16 => true
  | _ => false

/-- Class code (Table 8-6). -/
def Cls.code : Cls → Nat
  | .fp32 => 0 | .bf16 => 1 | .fp16 => 2 | .e4m3 => 3 | .e5m2 => 4 | .int8 => 5 | .int4 => 6
  | .sb3 => 7 | .sb5 => 8 | .sb8 => 9 | .cb4 => 10

/-- The class of a code; 0xB to 0xF are reserved. -/
def Cls.ofCode : Nat → Option Cls
  | 0 => some .fp32 | 1 => some .bf16 | 2 => some .fp16 | 3 => some .e4m3 | 4 => some .e5m2 | 5 => some .int8
  | 6 => some .int4 | 7 => some .sb3 | 8 => some .sb5 | 9 => some .sb8 | 10 => some .cb4 | _ => none

/-- Codes of SB3, SB5 and SB8. -/
def isSbCode (n : Nat) : Bool := n == 7 || n == 8 || n == 9

/-- The three shared-block classes (R31). -/
def Cls.isSb (c : Cls) : Bool := isSbCode c.code

/-- Classes with a 1-byte container (Table 11-1). -/
def Cls.isByte : Cls → Bool
  | .e4m3 | .e5m2 | .int8 | .sb5 | .sb8 => true
  | _ => false

/-- The class pairs that R215 admits. -/
def Cls.pairOk : Cls → Cls → Bool
  | .e4m3, .e5m2 | .e5m2, .e4m3 => true
  | a, .cb4 => a == .e4m3 || a == .e5m2 || a == .int8 || a == .sb5 || a == .sb8
  | a, b => a == b

/-- Rounding code. -/
def Rm.code : Rm → Nat
  | .rn => 0 | .rz => 1 | .ru => 2 | .rd => 3

/-- The rounding of a 2-bit code. -/
def Rm.ofCode : Nat → Rm
  | 1 => .rz | 2 => .ru | 3 => .rd | _ => .rn

/-- Condition code (Table 9-3). -/
def ICond.code : ICond → Nat
  | .eq => 0 | .ne => 1 | .ltS => 2 | .leS => 3 | .gtS => 4 | .geS => 5 | .ltZ => 6 | .leZ => 7 | .gtZ => 8 | .geZ => 9

/-- The integer condition of a code; 10 to 15 are reserved. -/
def ICond.ofCode : Nat → Option ICond
  | 0 => some .eq | 1 => some .ne | 2 => some .ltS | 3 => some .leS | 4 => some .gtS | 5 => some .geS
  | 6 => some .ltZ | 7 => some .leZ | 8 => some .gtZ | 9 => some .geZ | _ => none

/-- Floating-point condition code (Table 9-3). -/
def FCond.code : FCond → Nat
  | .eq => 0 | .ne => 1 | .lt => 2 | .le => 3 | .gt => 4 | .ge => 5 | .un => 6 | .or => 7

/-- The floating-point condition of a code; 8 to 15 are reserved. -/
def FCond.ofCode : Nat → Option FCond
  | 0 => some .eq | 1 => some .ne | 2 => some .lt | 3 => some .le | 4 => some .gt | 5 => some .ge
  | 6 => some .un | 7 => some .or | _ => none

/-- Code of an atomic's type (R269). -/
def ATy.code : ATy → Nat
  | .s32 => 0 | .s64 => 1 | .z32 => 2 | .z64 => 3

/-- The type of an atomic's 2-bit code. -/
def ATy.ofCode : Nat → ATy
  | 1 => .s64 | 2 => .z32 | 3 => .z64 | _ => .s32

/-- Bytes of an atomic's operand. -/
def ATy.bytes : ATy → Nat
  | .s32 => 4 | .z32 => 4 | .s64 => 8 | .z64 => 8

/-- Its type is signed. -/
def ATy.signed : ATy → Bool
  | .s32 => true | .s64 => true | _ => false

/-- Number of a system register (Table 8-7). -/
def SysReg.num : SysReg → Nat
  | .ctx => 0x000 | .rank => 0x001 | .skew => 0x002 | .task => 0x003 | .part => 0x004
  | .level n => 0x008 + n.toNat
  | .cause => 0x010 | .epc => 0x011 | .fault => 0x012 | .feature => 0x018 | .arith => 0x019 | .cycle => 0x01A
  | .ttb => 0x020 | .asid => 0x021 | .awin => 0x022 | .swin => 0x023 | .tlh => 0x024 | .phase => 0x025

/-- The system register of a number; every number Table 8-7 does not list is reserved (R162). -/
def SysReg.ofNum (n : Nat) : Option SysReg :=
  match n with
  | 0x000 => some .ctx | 0x001 => some .rank | 0x002 => some .skew | 0x003 => some .task | 0x004 => some .part
  | 0x008 => some (.level 0) | 0x009 => some (.level 1) | 0x00A => some (.level 2) | 0x00B => some (.level 3)
  | 0x00C => some (.level 4) | 0x00D => some (.level 5) | 0x00E => some (.level 6) | 0x00F => some (.level 7)
  | 0x010 => some .cause | 0x011 => some .epc | 0x012 => some .fault | 0x018 => some .feature | 0x019 => some .arith
  | 0x01A => some .cycle | 0x020 => some .ttb | 0x021 => some .asid | 0x022 => some .awin | 0x023 => some .swin
  | 0x024 => some .tlh | 0x025 => some .phase
  | _ => none

/-- The rc and num fields of a target of rdsp or wrsp, rc in bits [15:12] (R184, Table 9-7). -/
def SpReg.code : SpReg → Nat
  | .sys r => r.num
  | .sched n => 1 * 4096 + n.toNat
  | .shadow c k => 2 * 4096 + k.toNat * 16 + c.toNat
  | .mp n => 3 * 4096 + n.toNat
  | .mask n => 4 * 4096 + n.toNat

/-- The target that rc and num select; a reserved rc or a num outside its range has none (R184). -/
def SpReg.ofCode (rc num : Nat) : Option SpReg :=
  match rc with
  | 0 => (SysReg.ofNum num).map .sys
  | 1 => if num < 16 then some (.sched (BitVec.ofNat 4 num)) else none
  | 2 => if num < 128 then some (.shadow (BitVec.ofNat 4 num) (BitVec.ofNat 3 (num / 16))) else none
  | 3 => if num < 8 then some (.mp (BitVec.ofNat 3 num)) else none
  | 4 => if num < 8 then some (.mask (BitVec.ofNat 3 num)) else none
  | _ => none

/-- Bits [50:8] of a matrix operation, bit 8 first (R215). -/
def MmaOp.code (o : MmaOp) : Nat :=
  o.acc.toNat * 2^31 + o.ta.toNat * 2^28 + o.tb.toNat * 2^25 + o.v.toNat * 2^16 + o.ca.code * 2^12 + o.cb.code * 2^8
    + o.taT.toNat * 2^7 + o.tbT.toNat * 2^6 + o.al.toNat * 2^5
    + (match o.mr with | none => 0 | some k => 2^4 + k.toNat)

/-- The slot of a V0 or V1 operation. -/
def vSlot (v1 : Bool) : Slot := if v1 then .v1 else .v0

/-- A vector field that may carry a bypass name: v0 to v383 or b0 to b31 (R136, R160). -/
def vecOk (c : VCode) : Bool := c.toNat < 384 || (448 ≤ c.toNat && c.toNat < 480)

/-- A vector field that admits file registers only (R134, R160, R235). -/
def fileOk (c : VCode) : Bool := c.toNat < 384

/-- An accumulator-tile code (R160). -/
def accOk (c : ACode) : Bool := c.toNat < 3072

/-- A group of n vector registers stays within the file (R239, R252). -/
def groupOk (c : VCode) (n : Nat) : Bool := c.toNat + n ≤ 384

/-- Land fields of a landing form: 0 in canonical code, 5 to 63 in native code (R134, R157). -/
def landOk (k : BitVec 6) : Bool := k.toNat = 0 || 5 ≤ k.toNat

/-- Magnitude bits of the block format with a 2-bit FMT code: SB3, SB5, SB8 (Table 2-2). -/
def sbMag (f : BitVec 2) : Nat :=
  match f.toNat with | 0 => 2 | 1 => 4 | 2 => 7 | _ => 0

/-- PART values of vsbpk and vsbun (R196); FMT = 11 has none. -/
def sbPartOk (f : BitVec 2) (part : BitVec 3) : Bool :=
  match f.toNat with | 0 => true | 1 => part.toNat ≤ 4 | 2 => part.toNat ≤ 2 | _ => false

/-- PART of vcvt and vcvts lies below the ratio of the lane counts (R194). -/
def cvtPartOk (a b : Ty) (part : BitVec 3) : Bool :=
  part.toNat < max (a.lanes / b.lanes) (b.lanes / a.lanes)

/-- Types that vcvts converts to (R195). -/
def cvtsTypeOk : Ty → Bool
  | .s64 | .z64 => false
  | _ => true

/-- Types of fcvt (R178). -/
def fcvtTypeOk : Ty → Bool
  | .s32 | .s64 | .z32 | .z64 | .bf16 | .f16 | .e4m3 | .e5m2 => true
  | _ => false

/-- Operand limits of fcvt (R178). -/
def fcvtOk (ty : BitVec 4) (toF32 : Bool) (rm : Rm) (inf : Bool) : Bool :=
  match Ty.ofCode ty.toNat with
  | none => false
  | some t => fcvtTypeOk t && !(inf && !t.isFloat) && !(inf && toF32) && !(rm != .rn && toF32 && t.isFloat)

/-- Magnitude limits of ldp: K ≤ m + 1 and a format (R265). -/
def ldpOk (f : BitVec 2) (k : BitVec 4) : Bool := f.toNat < 3 && k.toNat ≤ sbMag f + 1

/-- Field limits of mma, mmaz and mmam that no window sets (R218, REASON 0x0E). -/
def MmaOp.rangeOk (o : MmaOp) : Bool :=
  !(o.taT && !o.ca.isByte) && !(o.tbT && !o.cb.isByte) && !(o.tbT && o.cb == .cb4) && !(o.taT && o.al)
    && (!(o.ca.isSb || o.cb.isSb) || groupOk o.v 8)

/-- Codes of mma, mmaz and mmam (R218, REASON 0x09). -/
def MmaOp.codeOk (o : MmaOp) : Bool := accOk o.acc && fileOk o.v && Cls.pairOk o.ca o.cb

/-- Fields of mma, mmaz and mmam that others make unused (R218, REASON 0x08). -/
def MmaOp.fieldsOk (o : MmaOp) : Bool :=
  (!o.al || o.ta.toNat = 0) && (o.ca.isSb || o.cb.isSb || o.v.toNat = 0)

/-- Width of a rule-mode cell (Table 12-6); MODE = 11 has none. -/
def ruleWidth (mode : BitVec 2) : Nat :=
  match mode.toNat with | 0 => 2 | 1 => 1 | 2 => 4 | _ => 0

/-- Operand limits of mrule that depend on the operation alone (R250, REASON 0x0E). -/
def mruleOk (mode bnd : BitVec 2) (fix : BitVec 4) (gens : BitVec 8) : Bool :=
  mode.toNat < 3 && bnd.toNat < 3 && gens.toNat ≠ 0 && fix.toNat < 2 ^ ruleWidth mode
    && (bnd.toNat = 0 || fix.toNat = 0)

/-- Row or column of a tile access (R46, R252): W = 11 is out of range, a row takes W = 00, IDX < 64/w. -/
def tileIdxOk (col : Bool) (idx : BitVec 6) (w : BitVec 2) : Bool :=
  w.toNat < 3 && (if col then idx.toNat < 64 / 2 ^ w.toNat else w.toNat = 0)

/-- Between the fields of one operation: a field that another makes unused is zero (REASON 0x08). -/
def Instr.fieldsOk : Instr → Bool
  | .vcmp _ _ _ _ vec vd _ _ _ => vec || vd.toNat < 8
  | .vfcmp _ _ _ _ vec vd _ _ _ => vec || vd.toNat < 8
  | .mma _ o | .mmaz _ o | .mmam _ o _ _ => o.fieldsOk
  | .aadd _ _ rt sd _ _ land | .aand _ _ rt sd _ _ land | .aor _ _ rt sd _ _ land | .axor _ _ rt sd _ _ land
  | .amin _ _ rt sd _ _ land | .amax _ _ rt sd _ _ land | .aswp _ _ rt sd _ _ land | .acas _ _ rt sd _ _ land
  | .afadd _ rt sd _ _ land => rt || (sd.toNat = 0 && land.toNat = 0)
  | .emptyBundle .. | .nop .. | .blockedBundleRetry .. | .add .. | .sub .. | .mul ..
  | .mulh .. | .div .. | .rem .. | .and .. | .or .. | .xor ..
  | .andn .. | .shl .. | .shr .. | .min .. | .max .. | .addi ..
  | .andi .. | .ori .. | .xori .. | .shli .. | .shri .. | .movi ..
  | .movhi .. | .lea .. | .cmp .. | .cmpi .. | .fcmp .. | .plog ..
  | .fadd .. | .fsub .. | .fmul .. | .ffma .. | .fdiv .. | .fsqrt ..
  | .fmin .. | .fmax .. | .fcvt .. | .br .. | .call .. | .jmp ..
  | .calli .. | .ret .. | .loop .. | .tret .. | .rdsp .. | .wrsp ..
  | .vadd .. | .vsub .. | .vmul .. | .vmulh .. | .vmin .. | .vmax ..
  | .vabs .. | .vneg .. | .vand .. | .vor .. | .vxor .. | .vandn ..
  | .vshl .. | .vshr .. | .vsel .. | .vaddi .. | .vandi .. | .vshli ..
  | .vshri .. | .vmovi .. | .vfadd .. | .vfsub .. | .vfmul .. | .vffma ..
  | .vfnma .. | .vfdiv .. | .vfsqrt .. | .vfmin .. | .vfmax .. | .vfabs ..
  | .vfneg .. | .vcvt .. | .vcvts .. | .vsbpk .. | .vsbun .. | .vperm ..
  | .vrot .. | .vbcl .. | .vzip .. | .vuzp .. | .vcomp .. | .vexpd ..
  | .vslide .. | .vsum .. | .vrmax .. | .vrmin .. | .vfsum .. | .vfrmax ..
  | .vfrmin .. | .mlog .. | .vtmask .. | .psqz .. | .plut .. | .pmix ..
  | .cdec .. | .cenc .. | .cdecm .. | .cencm .. | .cinit .. | .cflush ..
  | .csave .. | .cload .. | .cstat .. | .mcall .. | .mret .. | .mcb ..
  | .mzb .. | .mrgat .. | .mrule .. | .mrtab .. | .aclr .. | .mpld ..
  | .lds .. | .ldv .. | .ldvs .. | .ldg .. | .ldb .. | .ldt ..
  | .ldp .. | .ldc .. | .sts .. | .stv .. | .stvs .. | .stsc ..
  | .stt .. | .stq .. | .stz .. | .tableWalk .. | .loadDataArrival .. | .xsv ..
  | .xsvb .. | .xvs .. | .xvt .. | .xtv .. | .xav .. | .xva ..
  | .xcopy .. | .xpack .. | .xunpk .. | .xdec .. | .xzs .. | .xcrc ..
  | .xnest .. | .xbcast .. | .xgath .. | .xsend .. | .xrecv .. | .xrscat ..
  | .xallred .. | .xcancel .. | .twait .. | .tsig .. | .tread .. | .fence ..
  | .mred .. | .arrive .. | .bwait .. | .drop .. | .qpush .. | .qpop ..
  | .launch .. | .cvclaim .. | .cvdone .. | .pwait .. | .trap .. | .halt ..
  | .ffence .. | .tinvPage .. | .tinvAsid .. | .tinvAll .. | .tinvComplete .. | .smap ..
  | .sdrain .. | .phase .. | .stashLineFill .. | .stashDrainComplete .. | .accumulatorWriteFinish .. | .ruleGeneration ..
  | .engineCommandAccept .. | .fenceComplete .. | .copyPoint .. | .spillReplay .. | .nestPoint .. | .planeLanding ..
  | .cancelPropagation .. | .mredArrival .. | .msuReductionLine .. | .msuAccess .. | .phaseMerge .. | .taskHaltComplete ..
  | .partitionSelection .. | .queueAged .. | .contextSave .. | .contextRestore .. | .watchdogExpiry .. | .eresume ..
  | .save .. | .resume .. | .contain .. | .fwd .. | .park .. | .ringEnable ..
  | .tokenQueueEnable .. | .tokenQueueDisable .. | .registerWrite .. | .fabricRequestArrival .. | .linkFailure .. | .destinationUnreachable ..
  | .softErrorCorrected .. | .softErrorUncorrectable .. | .coldReset .. | .hbmZeroComplete .. | .lifecycleTransition .. | .fusectrAdvance ..
  | .attestationRequest .. | .objectLoad .. | .textPageIn .. | .qtailDoorbell .. | .commandQueueEnable .. | .errClear ..
  | .controlEventDispatch .. | .nopPacket .. | .launchPacket .. | .ibcallPacket .. | .ibretPacket .. | .predPacket ..
  | .loopPacket .. | .writePacket .. | .twaitPacket .. | .tsigPacket .. | .ffencePacket .. | .wakearmPacket ..
  | .controlCoreGate .. | .wakeFrame .. | .hostMemoryWrite .. | .linkLevelRetry .. | .fabricAcknowledgement .. | .millraceDelivery ..
  | .collectiveDelivery .. | .ringHeadAdvance .. => true

/-- Register codes and element types that the operation admits (REASON 0x09). -/
def Instr.codeOk : Instr → Bool
  | .vadd _ _ ty _ vd va vb _ | .vsub _ _ ty _ vd va vb _ | .vmul _ _ ty _ vd va vb _
  | .vmulh _ _ ty vd va vb _ | .vmin _ _ ty vd va vb _ | .vmax _ _ ty vd va vb _ | .vand _ _ ty vd va vb _
  | .vor _ _ ty vd va vb _ | .vxor _ _ ty vd va vb _ | .vandn _ _ ty vd va vb _ | .vshl _ _ ty vd va vb _
  | .vshr _ _ ty vd va vb _ | .vsel _ _ ty vd va vb _ => ty.isInt && vecOk vd && vecOk va && vecOk vb
  | .vabs _ _ ty _ vd va _ | .vneg _ _ ty _ vd va _ | .vaddi _ _ ty _ vd va _ _ | .vandi _ _ ty vd va _ _
  | .vshli _ _ ty vd va _ _ _ | .vshri _ _ ty vd va _ _ _ => ty.isInt && vecOk vd && vecOk va
  | .vmovi _ _ ty vd _ _ => ty.isInt && vecOk vd
  | .vfadd _ _ ty vd va vb _ | .vfsub _ _ ty vd va vb _ | .vfmul _ _ ty vd va vb _ | .vfdiv _ _ ty vd va vb _
  | .vfmin _ _ ty vd va vb _ | .vfmax _ _ ty vd va vb _ => ty.isVecFloat && vecOk vd && vecOk va && vecOk vb
  | .vffma _ _ ty vd va vb vc _ | .vfnma _ _ ty vd va vb vc _ =>
    ty.isVecFloat && vecOk vd && vecOk va && vecOk vb && vecOk vc
  | .vfsqrt _ _ ty vd va _ | .vfabs _ _ ty vd va _ | .vfneg _ _ ty vd va _ => ty.isVecFloat && vecOk vd && vecOk va
  | .vcvt _ _ _ _ _ _ _ vd va _ => vecOk vd && vecOk va
  | .vcvts _ _ dt _ _ _ vd va vb _ => cvtsTypeOk dt && vecOk vd && vecOk va && vecOk vb
  | .vsbpk _ _ _ _ _ _ vd va _ | .vsbun _ _ _ _ _ _ vd va _ => vecOk vd && vecOk va
  | .vperm _ _ ty _ vd va vb _ | .vzip _ _ ty _ vd va vb _ | .vuzp _ _ ty _ vd va vb _ =>
    ty != .i4 && vecOk vd && vecOk va && vecOk vb
  | .vrot _ _ ty vd va _ _ _ | .vbcl _ _ ty vd va _ _ _ | .vslide _ _ ty _ vd va _ _ _ | .vcomp _ _ ty vd va _
  | .vexpd _ _ ty vd va _ => ty != .i4 && vecOk vd && vecOk va
  | .vsum _ _ ty _ vd va _ | .vrmax _ _ ty vd va _ | .vrmin _ _ ty vd va _ => ty.isInt && vecOk vd && vecOk va
  | .vfsum _ _ ty vd va _ | .vfrmax _ _ ty vd va _ | .vfrmin _ _ ty vd va _ => ty.isVecFloat && vecOk vd && vecOk va
  | .vcmp _ _ _ ty vec vd va vb _ =>
    (if vec then ty.isInt && vecOk vd else ty == .s32 || ty == .z32) && vecOk va && vecOk vb
  | .vfcmp _ _ _ ty vec vd va vb _ =>
    (if vec then ty.isVecFloat && vecOk vd else ty == .f32) && vecOk va && vecOk vb
  | .vtmask _ _ ty _ _ vd va vb _ => ty.isVecFloat && vecOk vd && vecOk va && vecOk vb
  | .psqz _ _ ty _ _ vd va _ => (ty == .s32 || ty == .z32) && vecOk vd && vecOk va
  | .plut _ _ vd va vb _ => vecOk vd && vecOk va && vecOk vb
  | .pmix _ _ vd va vb vc _ => vecOk vd && vecOk va && vecOk vb && vecOk vc
  | .cdec _ _ vd va _ => vecOk vd && vecOk va
  | .cenc _ _ va vb _ => vecOk va && vecOk vb
  | .cdecm _ _ vd va _ => vecOk vd && fileOk va
  | .cencm _ _ va vb _ => vecOk va && fileOk vb
  | .cinit _ _ _ va vb vc _ => vecOk va && vecOk vb && vecOk vc
  | .csave _ _ vd _ => fileOk vd
  | .cload _ _ va _ => fileOk va
  | .mma _ o | .mmaz _ o | .mmam _ o _ _ => o.codeOk
  | .mrgat _ vx _ => fileOk vx
  | .aclr _ acc _ => accOk acc
  | .lds _ ty _ _ _ _ => ty.isInt
  | .ldv _ _ vd _ _ _ _ => fileOk vd
  | .ldvs _ ty vd _ _ _ _ _ | .ldb _ ty vd _ _ _ _ => ty != .i4 && fileOk vd
  | .ldg _ ty _ vd _ vx _ _ _ => ty != .i4 && fileOk vd && fileOk vx
  | .ldp _ _ _ _ vd _ _ _ _ => fileOk vd
  | .sts _ ty _ _ _ => ty.isInt
  | .stv _ _ vs _ _ _ => vecOk vs
  | .stvs _ ty vs _ _ _ _ => ty != .i4 && vecOk vs
  | .stsc _ ty _ vs _ vx _ _ => ty != .i4 && vecOk vs && vecOk vx
  | .xsv _ ty _ vd _ | .xsvb _ ty vd _ => ty != .i4 && vecOk vd
  | .xvs _ ty _ _ va => ty != .i4 && vecOk va
  | .xvt _ va _ _ _ _ => vecOk va
  | .xtv _ vd _ _ _ _ => vecOk vd
  | .xav _ vd acc => fileOk vd && accOk acc
  | .xva _ va acc => fileOk va && accOk acc
  | .emptyBundle .. | .nop .. | .blockedBundleRetry .. | .add .. | .sub .. | .mul ..
  | .mulh .. | .div .. | .rem .. | .and .. | .or .. | .xor ..
  | .andn .. | .shl .. | .shr .. | .min .. | .max .. | .addi ..
  | .andi .. | .ori .. | .xori .. | .shli .. | .shri .. | .movi ..
  | .movhi .. | .lea .. | .cmp .. | .cmpi .. | .fcmp .. | .plog ..
  | .fadd .. | .fsub .. | .fmul .. | .ffma .. | .fdiv .. | .fsqrt ..
  | .fmin .. | .fmax .. | .fcvt .. | .br .. | .call .. | .jmp ..
  | .calli .. | .ret .. | .loop .. | .tret .. | .rdsp .. | .wrsp ..
  | .mlog .. | .cflush .. | .cstat .. | .mcall .. | .mret .. | .mcb ..
  | .mzb .. | .mrule .. | .mrtab .. | .mpld .. | .ldt .. | .ldc ..
  | .stt .. | .stq .. | .stz .. | .tableWalk .. | .loadDataArrival .. | .xcopy ..
  | .xpack .. | .xunpk .. | .xdec .. | .xzs .. | .xcrc .. | .xnest ..
  | .xbcast .. | .xgath .. | .xsend .. | .xrecv .. | .xrscat .. | .xallred ..
  | .xcancel .. | .twait .. | .tsig .. | .tread .. | .fence .. | .aadd ..
  | .aand .. | .aor .. | .axor .. | .amin .. | .amax .. | .aswp ..
  | .acas .. | .afadd .. | .mred .. | .arrive .. | .bwait .. | .drop ..
  | .qpush .. | .qpop .. | .launch .. | .cvclaim .. | .cvdone .. | .pwait ..
  | .trap .. | .halt .. | .ffence .. | .tinvPage .. | .tinvAsid .. | .tinvAll ..
  | .tinvComplete .. | .smap .. | .sdrain .. | .phase .. | .stashLineFill .. | .stashDrainComplete ..
  | .accumulatorWriteFinish .. | .ruleGeneration .. | .engineCommandAccept .. | .fenceComplete .. | .copyPoint .. | .spillReplay ..
  | .nestPoint .. | .planeLanding .. | .cancelPropagation .. | .mredArrival .. | .msuReductionLine .. | .msuAccess ..
  | .phaseMerge .. | .taskHaltComplete .. | .partitionSelection .. | .queueAged .. | .contextSave .. | .contextRestore ..
  | .watchdogExpiry .. | .eresume .. | .save .. | .resume .. | .contain .. | .fwd ..
  | .park .. | .ringEnable .. | .tokenQueueEnable .. | .tokenQueueDisable .. | .registerWrite .. | .fabricRequestArrival ..
  | .linkFailure .. | .destinationUnreachable .. | .softErrorCorrected .. | .softErrorUncorrectable .. | .coldReset .. | .hbmZeroComplete ..
  | .lifecycleTransition .. | .fusectrAdvance .. | .attestationRequest .. | .objectLoad .. | .textPageIn .. | .qtailDoorbell ..
  | .commandQueueEnable .. | .errClear .. | .controlEventDispatch .. | .nopPacket .. | .launchPacket .. | .ibcallPacket ..
  | .ibretPacket .. | .predPacket .. | .loopPacket .. | .writePacket .. | .twaitPacket .. | .tsigPacket ..
  | .ffencePacket .. | .wakearmPacket .. | .controlCoreGate .. | .wakeFrame .. | .hostMemoryWrite .. | .linkLevelRetry ..
  | .fabricAcknowledgement .. | .millraceDelivery .. | .collectiveDelivery .. | .ringHeadAdvance .. => true

/-- Operands and modifiers in the range that the operation's entry states, window and gang limits apart
(REASON 0x0E). -/
def Instr.rangeOk : Instr → Bool
  | .shli _ _ _ imm | .shri _ _ _ _ imm => imm.toNat < 64
  | .cmp _ _ pt pf _ _ | .cmpi _ _ pt pf _ _ | .fcmp _ _ pt pf _ _ | .plog _ pt pf _ _ _ => pt != pf || pt.toNat = 0
  | .fcvt _ ty toF32 rm inf _ _ => fcvtOk ty toF32 rm inf
  | .vcvt _ _ dt st part inf rm _ _ _ =>
    cvtPartOk dt st part && !(inf && !dt.isFloat) && !(rm != .rn && !dt.isFloat && !st.isFloat)
  | .vcvts _ _ dt part inf _ _ _ _ _ => cvtPartOk dt .f32 part && !(inf && !dt.isFloat)
  | .vsbpk _ _ f part _ _ _ _ m => sbPartOk f part && m.toNat = 0
  | .vsbun _ _ f part inf rm _ _ _ => sbPartOk f part && !inf && rm == .rn
  | .vtmask _ _ ty _ kb _ _ _ _ => ty == .f32 || kb.toNat < 16
  | .psqz _ _ _ _ pmin _ _ _ => 1 ≤ pmin.toNat && pmin.toNat ≤ 16384
  | .cdecm _ _ _ va _ => groupOk va 8
  | .cencm _ _ _ vb _ => groupOk vb 8
  | .csave _ _ vd _ => groupOk vd 12
  | .cload _ _ va _ => groupOk va 12
  | .cstat _ sel _ _ _ => sel.toNat < 5
  | .mma _ o | .mmaz _ o | .mmam _ o _ _ => o.rangeOk
  | .mret _ => false
  | .mrule _ _ mode _ bnd fix gens => mruleOk mode bnd fix gens
  | .mrtab _ _ row => row.toNat ≤ 48
  | .mpld _ _ entry row nrm1 => entry.toNat + 8 * (nrm1.toNat + 1) ≤ 128 && row.toNat + nrm1.toNat ≤ 63
  | .ldp _ f k _ _ _ _ land _ => ldpOk f k && landOk land
  | .lds _ _ _ _ _ land | .ldv _ _ _ _ _ land _ | .ldvs _ _ _ _ _ _ land _ | .ldg _ _ _ _ _ _ _ land _
  | .ldb _ _ _ _ _ land _ | .ldt _ _ _ _ _ land | .ldc _ _ land _ => landOk land
  | .xsv _ ty lane _ _ | .xvs _ ty lane _ _ => lane.toNat < ty.lanes
  | .xvt _ _ _ col idx w | .xtv _ _ _ col idx w => tileIdxOk col idx w
  | .xav _ v _ | .xva _ v _ => groupOk v 4
  | .xpack _ f _ _ _ _ | .xunpk _ f _ _ => f.toNat ≠ 3
  | .tread _ _ _ land | .qpop _ _ _ land | .cvclaim _ _ _ land => landOk land
  | .fence _ sc => sc.toNat ≤ 5
  | .aadd _ _ _ _ _ _ land | .aand _ _ _ _ _ _ land | .aor _ _ _ _ _ _ land | .axor _ _ _ _ _ _ land
  | .amin _ _ _ _ _ _ land | .amax _ _ _ _ _ _ land | .aswp _ _ _ _ _ _ land | .afadd _ _ _ _ _ land => landOk land
  | .acas _ _ rt _ _ _ land => rt && landOk land
  | .arrive _ bar | .bwait _ bar | .drop _ bar => bar.toNat ≤ 16
  | .tinvPage _ _ _ sc | .tinvAsid _ _ sc | .tinvAll _ sc => 1 ≤ sc.toNat && sc.toNat ≤ 4
  | .smap _ op _ _ | .sdrain _ op _ => op.toNat < 2
  | .emptyBundle .. | .nop .. | .blockedBundleRetry .. | .add .. | .sub .. | .mul ..
  | .mulh .. | .div .. | .rem .. | .and .. | .or .. | .xor ..
  | .andn .. | .shl .. | .shr .. | .min .. | .max .. | .addi ..
  | .andi .. | .ori .. | .xori .. | .movi .. | .movhi .. | .lea ..
  | .fadd .. | .fsub .. | .fmul .. | .ffma .. | .fdiv .. | .fsqrt ..
  | .fmin .. | .fmax .. | .br .. | .call .. | .jmp .. | .calli ..
  | .ret .. | .loop .. | .tret .. | .rdsp .. | .wrsp .. | .vadd ..
  | .vsub .. | .vmul .. | .vmulh .. | .vmin .. | .vmax .. | .vabs ..
  | .vneg .. | .vand .. | .vor .. | .vxor .. | .vandn .. | .vshl ..
  | .vshr .. | .vsel .. | .vaddi .. | .vandi .. | .vshli .. | .vshri ..
  | .vmovi .. | .vfadd .. | .vfsub .. | .vfmul .. | .vffma .. | .vfnma ..
  | .vfdiv .. | .vfsqrt .. | .vfmin .. | .vfmax .. | .vfabs .. | .vfneg ..
  | .vperm .. | .vrot .. | .vbcl .. | .vzip .. | .vuzp .. | .vcomp ..
  | .vexpd .. | .vslide .. | .vsum .. | .vrmax .. | .vrmin .. | .vfsum ..
  | .vfrmax .. | .vfrmin .. | .vcmp .. | .vfcmp .. | .mlog .. | .plut ..
  | .pmix .. | .cdec .. | .cenc .. | .cinit .. | .cflush .. | .mcall ..
  | .mcb .. | .mzb .. | .mrgat .. | .aclr .. | .sts .. | .stv ..
  | .stvs .. | .stsc .. | .stt .. | .stq .. | .stz .. | .tableWalk ..
  | .loadDataArrival .. | .xsvb .. | .xcopy .. | .xdec .. | .xzs .. | .xcrc ..
  | .xnest .. | .xbcast .. | .xgath .. | .xsend .. | .xrecv .. | .xrscat ..
  | .xallred .. | .xcancel .. | .twait .. | .tsig .. | .mred .. | .qpush ..
  | .launch .. | .cvdone .. | .pwait .. | .trap .. | .halt .. | .ffence ..
  | .tinvComplete .. | .phase .. | .stashLineFill .. | .stashDrainComplete .. | .accumulatorWriteFinish .. | .ruleGeneration ..
  | .engineCommandAccept .. | .fenceComplete .. | .copyPoint .. | .spillReplay .. | .nestPoint .. | .planeLanding ..
  | .cancelPropagation .. | .mredArrival .. | .msuReductionLine .. | .msuAccess .. | .phaseMerge .. | .taskHaltComplete ..
  | .partitionSelection .. | .queueAged .. | .contextSave .. | .contextRestore .. | .watchdogExpiry .. | .eresume ..
  | .save .. | .resume .. | .contain .. | .fwd .. | .park .. | .ringEnable ..
  | .tokenQueueEnable .. | .tokenQueueDisable .. | .registerWrite .. | .fabricRequestArrival .. | .linkFailure .. | .destinationUnreachable ..
  | .softErrorCorrected .. | .softErrorUncorrectable .. | .coldReset .. | .hbmZeroComplete .. | .lifecycleTransition .. | .fusectrAdvance ..
  | .attestationRequest .. | .objectLoad .. | .textPageIn .. | .qtailDoorbell .. | .commandQueueEnable .. | .errClear ..
  | .controlEventDispatch .. | .nopPacket .. | .launchPacket .. | .ibcallPacket .. | .ibretPacket .. | .predPacket ..
  | .loopPacket .. | .writePacket .. | .twaitPacket .. | .tsigPacket .. | .ffencePacket .. | .wakearmPacket ..
  | .controlCoreGate .. | .wakeFrame .. | .hostMemoryWrite .. | .linkLevelRetry .. | .fabricAcknowledgement .. | .millraceDelivery ..
  | .collectiveDelivery .. | .ringHeadAdvance .. => true

end Sys2Proof
end

