-- ==== Sys2Proof/Config.lean ====
section
/-! DEFINITION. What an implementation fixes and the free values: constants with no body, so that every theorem
holds for every value of them (notes/assumptions says which open point each stands for). -/

namespace Sys2Proof

/-- Bits that a read inside an undefined window returns (R130, R134, R137, R230), and the data the manual calls
undefined elsewhere (R105, R262): a fresh number for each step, reader and item. -/
opaque Config.undefinedBits : (tick : Nat) → (reader : Nat) → (item : Nat) → Nat

/-- Bits that a rule writes and does not fix, alike in every run (R3): csave's window places past WCNT (R236, R237),
xpack's ignored bits (R257). -/
opaque Config.openBits : (item : Nat) → Nat

/-- Whether an append comes before a removal of the same cycle (R230 does not say). -/
opaque Config.appendFirst : Bool

/-- Steps until the agents that wait are served in turn. -/
opaque Config.patience : (tick : Nat) → Nat

/-- Whether the B data of a gang's matrix bundle come after its cycle (R149). -/
opaque Config.millraceLate : (tick : Nat) → Bool

/-- Which of the agents that can move is the next to move (R5, R73, R85, R92: the manual gives no order). -/
opaque Config.nextAgent : (tick : Nat) → Nat

/-- Wall cycles that pass beside the one a step needs (R5). -/
opaque Config.wallAdvance : (tick : Nat) → Nat

/-- The set of the ridge translation cache that holds a page: ASID, page size level, page number (R16 gives the ways and
not the index). -/
opaque Config.tlbSet : (asid : Nat) → (level : Nat) → (page : Nat) → Nat

/-- Which entry of a full translation structure or set gives way (R16: replacement is not given). -/
opaque Config.tlbVictim : (tick : Nat) → (entry : Nat) → Nat

/-- How many of the latest stored bytes a fetch does not see, since it was made ahead of them (R81, R277). -/
opaque Config.fetchedAhead : (tick : Nat) → Nat

/-- Bytes of the merge log that one write-set entry takes (R113: the manual gives no size). -/
opaque Config.mergeLogEntry : Nat

/-- The number of this module in the fabric window's bits [49:40] (R8, Table 7-2). -/
opaque Config.moduleNumber : BitVec 10

/-- The firmware images that the boot ROM measures (R335): 0 second-stage loader, 1 control-pool firmware, 2
service-core operating system, 3 translator, 4 engine and memory-side microcode. -/
opaque Config.firmwareImage : Nat → List Byte

/-- The images that measured firmware goes on to measure as it boots at step tick, each with its register's number, in order
(R335; log 73). -/
opaque Config.laterImages : (tick : Nat) → List (Nat × List Byte)

/-- The three secret parts of the device key with the given number (R336): secret seed, message key, public seed. -/
opaque Config.deviceSecret : (deviceKey : Nat) → (part : Nat) → BitVec 128

/-- What a signer adds at random to a signature. -/
opaque Config.signRandom : (tick : Nat) → BitVec 128

/-- Whether the device operating system trusts a signer key (R330). -/
opaque Config.signerTrusted : List Byte → Bool

/-- The native text that jarsol-x makes of canonical text at a latency level (R333). -/
opaque Config.translateText : (latency : Nat) → List Byte → List Byte

/-- The canonical bundle, by its number in the text, at which the same point of the program resumes as at a native offset
(R333). -/
opaque Config.canonicalBundle : (latency : Nat) → List Byte → (native : Nat) → Nat

/-- The relocations of that native text, their fields as its offsets (R321, R333). -/
opaque Config.nativeRelocs : (latency : Nat) → List Byte → List Reloc

/-- The sections, relocations, kernels and safe points that the tables of an object hold, read from the bytes of the body at
SECT, RELOC, KERN and SPMAP (R329: the manual gives no layout of their entries). -/
opaque Config.sectTable : List Byte → List (SectKind × Nat × Nat)
opaque Config.relocTable : List Byte → List Reloc
opaque Config.kernTable : List Byte → List (Nat × Nat)
opaque Config.pointTable : List Byte → List (Nat × Nat)

/-- The version of the translator (R333). -/
opaque Config.translatorVersion : Nat

end Sys2Proof
end

