-- ==== Sys2Proof/Machine/State.lean ====
section
/-! DEFINITION. The state of one Phoyn P6 module as plain data, its faults and refusals, and the state after reset.
Numbers of things are natural numbers: a context is 4·core + CTX, a core is 208·die + 16·ridge + core-in-ridge
(Table 15-4), a stash tile of the module is 512·core + tile, a named barrier is 17·ridge + n with ridge = core / 16,
the module barrier is 16. -/

namespace Sys2Proof.Machine

/-- Faults of the model. No instruction of a program ends in one. -/
inductive Fault where
  /-- A whole step of an outside agent (registerWrite, hostMemoryWrite, msuAccess, fabricRequestArrival) names a
  physical address that Table 1-3 leaves out of the access's range (R8). Safe: the model stops. -/
  | addressGap (pa : Nat)
deriving DecidableEq, Repr

/-- Refusals of the model. -/
inductive Refusal where
  /-- An instruction without a meaning yet, raised by the dispatcher. Safe: the model stops. -/
  | notModelled (mnemonic : String)
deriving DecidableEq, Repr

/-- Memory as its listed bytes (address, byte), addresses rising, no listed byte zero. -/
abbrev Memory := List Host.Cell

/-! ### Register files -/

/-- A write on its way, issued at a schedule cycle: bits mask of register idx take data's bits at schedule cycle due
(R130, R134). -/
structure PendW (w : Nat) where
  idx : Nat
  mask : BitVec w
  data : BitVec w
  due : Nat
  issued : Nat
  /-- The landing entry whose data it still waits for (R84, R134). -/
  late : Option Nat := none
deriving DecidableEq, Repr

/-- A register file: the settled values (unlisted registers hold 0) and the writes on their way, oldest first. -/
structure RegFile (w : Nat) where
  vals : AMap (BitVec w)
  pend : List (PendW w)
deriving DecidableEq, Repr

/-- A file whose registers all hold 0. -/
def RegFile.zero {w : Nat} : RegFile w := { vals := [], pend := [] }

/-- The window and the sticky status of one stream lane (Table 12-1): the WCNT bytes at the head first, each with its
TAG; rest: the 16 bytes of Window in bits [127:0] and TAG in bits [143:128], of which the places from WCNT on count. -/
structure LaneQueue where
  win : List (Byte × Bool)
  rest : BitVec 144
  ended : Bool
  overrun : Bool
  error : Bool
deriving DecidableEq, Repr

/-- A change of a lane's window and status at schedule cycle due (R230): removal from the head, status bits set, a
fetch appended, or the whole replaced. -/
structure QueueOp where
  /-- 64·stream + lane. -/
  key : Nat
  due : Nat
  remove : Nat
  ended : Bool
  overrun : Bool
  error : Bool
  append : List (Byte × Bool)
  replace : Option LaneQueue
deriving DecidableEq, Repr

/-- The four stream registers: lane l of stream n is entry 64·n + l (R228). A lane's word fields are seven 32-bit
words: LOW, RANGE, CODE, CUR, LIM, BUDGET, and PEND in [31:16] with FL, PRIME, MODE, FIRST, C in [12:8] and CACHE in
[7:0], as Table 12-5 places them. -/
structure StreamFile where
  words : RegFile 224
  queues : AMap LaneQueue
  ops : List QueueOp
deriving DecidableEq, Repr

/-! ### One context -/

/-- The control transfer on its way (R180, R181). -/
structure Transfer where
  /-- Delay bundles still to issue; 0 when no control operation is on its way, 3 in the bundle of the operation
  itself. -/
  delay : Nat
  /-- The address it goes to; none when it is not taken. -/
  target : Option Word
deriving DecidableEq, Repr

/-- What a checkpoint holds and a rollback restores: the duplicate set of R140 and the journalled registers. -/
structure Arch where
  /-- Address of the next bundle. -/
  pc : Word
  /-- Schedule clock (R128). -/
  sched : Nat
  /-- Latest schedule cycle at which an operation that has issued reaches its L or its landing (R145). -/
  reached : Nat
  xfer : Transfer
  s : RegFile 64
  p : RegFile 1
  m : RegFile 64
  v : RegFile 2048
  t : RegFile 32768
  /-- Accumulator tiles under their names in the window (R49); a result enters with the bundle after its writer, and
  the tile interlock keeps readers away until the write finishes (R60). -/
  acc : RegFile 8192
  str : StreamFile
  /-- Active words of the shape registers: 8·code + word (R187, Table 8-5). -/
  shape : AMap Word
  /-- Shadow words of the shape registers. -/
  shadow : AMap Word
  /-- Matrix parameters mp0 to mp7. -/
  mp : AMap Word
  /-- Matrix-side registers (R214). -/
  latch : TReg
  codebook : BitVec 256
  zbitmap : BitVec 4096
  uprog : AMap Word
  /-- Rule table (R245). -/
  ruleTab : BitVec 8192
  /-- Writable system registers: bits of sr.epc, sr.ttb, sr.asid (R140). -/
  epc : Word
  ttb : Word
  asid : BitVec 16
  /-- System-register writes that the span's commit makes (R185). -/
  srw : List (SysReg × Word)
  /-- Writes to shape shadows and matrix parameters that hold from the next bundle on (R187). -/
  side : List (SpReg × Word)
  /-- Registers that hold poisoned data: vectors, tiles at 384 + n, scalars at 392 + n, accumulators at 456 + n,
  scalars of the handler bank at 4096 + n; from 5000 on predicates, from 5016 those of the handler bank, from 5032 lane
  masks, from 5040 stream registers, from 5044 shape registers, from 5060 matrix parameters, 5068 the operand latch,
  5069 the codebook, 5070 the zero bitmap, 5071 the microprogram memory, 5072 the rule table (R65). -/
  poison : List Nat
  /-- Registers whose zero flag is off: vectors, rows of tile registers at 384 + 64·n + row, accumulator tiles at
  896 + n (R62). -/
  zeroOff : List Nat
deriving DecidableEq, Repr

/-- A value written to a bypass name (R136): readable at schedule cycles start to start + 3. -/
structure Bypass where
  name : Nat
  data : VReg
  start : Nat
  /-- Schedule cycle of the writing bundle. -/
  issued : Nat
deriving DecidableEq, Repr

/-- How a load forms its destination from the numbers of its elements (R205, R269): a scalar; lanes below n of type t
under mask m, lane l taking element l, or every lane element e (same = some e), and zeros from lane n on; a row group of
a tile register; the prefix of k planes of blocks of magnitude width mag (R265), whose element first holds the block of a
lane. -/
inductive LoadForm where
  | scalar (bits : Nat) (signed : Bool)
  | lanes (t : Ty) (m : Word) (n : Nat) (same : Option Nat) (kept : VReg)
  | rows (g : Nat)
  | planes (mag k : Nat) (mid : Bool) (m : Word) (first : List Nat) (kept : VReg)
deriving DecidableEq, Repr

/-- What a landing waits for of a fabric request: n bytes of its result from byte skip on are byte off onward of element
elem. The request's destination module, lane and sequence number (R103), and the physical address of its result's first
byte. -/
structure Ask where
  elem : Nat
  off : Nat
  skip : Nat
  n : Nat
  pa : Nat
  dest : Nat
  lane : Nat
  seq : Nat
deriving DecidableEq, Repr

/-- A withheld operation (R77), with the physical addresses its translation gave. -/
inductive WithheldOp where
  | store (cells : List (Nat × Byte))
  /-- A zero-line store (R206); cached: its page is not a memory-side page, whose lines no ridge cache holds (R15). -/
  | zeroLine (pa : Nat) (cached : Bool)
  /-- A non-returning atomic; op counts from aadd (R269). -/
  | atomic (op : Nat) (ty : ATy) (pa : Nat) (operand : Word)
  /-- A merge-add of a phased task (R112); fp: .f32. -/
  | mergeAdd (fp : Bool) (pa : Nat) (operand : W32)
  | arrive (bar : Nat)
  | drop (bar : Nat)
deriving DecidableEq, Repr

/-- An occupied landing-buffer entry (R68): freed at schedule cycle due. -/
structure Landing where
  id : Nat
  due : Nat
  arrived : Bool
  /-- Requests through the fabric window whose results are to come (R84). -/
  asks : List Ask
  /-- The elements' numbers so far, and the destination's form. -/
  known : List (Nat × Nat)
  form : LoadForm
  /-- A returning atomic, whose bundle has committed (R105). -/
  atomic : Bool
  /-- The context's operations on the requested bytes that are withheld at the load (R77). -/
  own : List WithheldOp := []
  /-- The trap that the landing raises: a result that is poisoned (R65), or too few planes (R265). -/
  bad : Option (Nat × Word) := none
deriving DecidableEq, Repr

/-- Kind of a write-set entry (R111). -/
inductive WKind where
  | plain | addS32 | addF32
deriving DecidableEq, Repr

/-- One entry of a write set (R111): a line, the bytes written, and the claim tag of R120. -/
structure WLine where
  line : Nat
  mask : BitVec 64
  data : BitVec 512
  kind : WKind
  /-- Physical address of the coverage map and the tag. -/
  tag : Option (Nat × Nat)
deriving DecidableEq, Repr

/-- A claim that a context holds (R274); dropped: released at a save (R296). -/
structure Claim where
  mapPa : Nat
  tag : Nat
  dropped : Bool
  /-- Virtual address of the map and the physical addresses of its pages, by page number. -/
  va : Nat
  pages : List (Nat × Nat)
deriving DecidableEq, Repr

/-- Copy and transform commands (Table 13-3). -/
inductive CopyOp where
  | copy (len : Nat)
  | pack (f : BitVec 3) (rm : Rm) (inf : Bool)
  | unpack (f : BitVec 3)
  | decode
  | zeroSup (expand : Bool)
  | crc (len : Nat)
deriving DecidableEq, Repr

/-- A multiply-accumulate, codebook or bitmap entry of a nest's body as formed at the commit (R225). -/
inductive NestOp where
  | nop
  /-- zero: mmaz; rows and cols: the masks of mmam. -/
  | mac (zero : Bool) (o : MmaOp) (rows cols : Word)
  | cb
  | zb
deriving DecidableEq, Repr

/-- The work of one engine command (R85). -/
inductive CmdWork where
  | copy (op : CopyOp)
  | nest (body : List NestOp)
  /-- Collective of record number coll. -/
  | collective (coll : Nat)
  | reduce (block : List Byte)
deriving DecidableEq, Repr

/-- An engine command that has not completed (R85, R225, R254). -/
structure Cmd where
  eng : Nat
  num : Nat
  work : CmdWork
  /-- The engine holds the command (R135). -/
  accepted : Bool
  /-- Translation context and rights of the issuing bundle, and its address (R7, R20). -/
  asid : BitVec 16
  ttb : Word
  handler : Bool
  bva : Word
  /-- Active shape registers 0 to 3 of its engine slot, 32 words (R225, R254). -/
  words : List Word
  sa : Word
  sb : Word
  /-- Next point in visit order (R254). -/
  point : Nat
  /-- Writes of the point that are still to be made: virtual address and bytes (R91, R254, R313). -/
  staged : List (Word × List Byte)
  /-- What remains after the points: 0 points remain, 1 the result, 2 the status word, 3 nothing but completion. -/
  ending : Nat
  /-- STATUS of Table 13-2. -/
  status : Nat
  /-- Copy: the CRC so far (R260). -/
  crc : Nat
  /-- Paused on a page that does not translate (R255). -/
  paused : Bool
  /-- Destination, lane and sequence number of the requests of the context itself that its accesses follow (R83). -/
  after : List (Nat × Nat × Nat)
  /-- Nest: its own codebook and zero-bitmap registers (R225). -/
  codebook : BitVec 256
  zbitmap : BitVec 4096
  /-- Nest: accumulator tiles from here on are poisoned (R66). -/
  poisoned : Bool
  /-- Nest: the tiles that it has still to write, each with the point that writes it last (R226). -/
  tiles : List (Nat × Nat)
deriving DecidableEq, Repr

/-- What keeps a context's next bundle from issuing beside its registers. -/
inductive Wait where
  | none
  /-- A fence's wait (R82): whether its scope is the fabric, and its bundle's address. -/
  | fence (fab : Bool) (bva : Word)
  /-- A tinv's wait (R24): its scope and the physical ranges, base and size, of the leaves that it has dropped. -/
  | tinv (scope : Nat) (dropped : List (Nat × Nat))
  /-- Gang Hold (R305). -/
  | gangHold
deriving DecidableEq, Repr

/-- Stages of a context's life. -/
inductive Life where
  /-- Holds no task (R286). -/
  | idle
  | running
  /-- A halt has committed; its waits have not ended (R276). -/
  | halting
  /-- The task has ended by containment and its engine commands run on (R310). -/
  | ending
deriving DecidableEq, Repr

/-- Page kinds (Table 1-5). -/
inductive PageKind where
  | coherent | memorySide | device | zero
deriving DecidableEq, Repr

/-- A failing page: page number, reason, level and lane (R20). -/
structure PageFault where
  page : Nat
  reason : Nat
  level : Nat
  lane : Nat
deriving DecidableEq, Repr

/-- A trap as it is raised: its cause (Table 15-1), the slot, sr.fault, the address of the bundle or fetch, the
translation failure if it is one (class and pages), the words of Table 15-3a. Cause 0: a rollback under R78. -/
structure Trap where
  cause : Nat
  slot : Nat
  fault : Word
  bva : Word
  pages : Option (Nat × List PageFault)
  extra : List Nat
deriving DecidableEq, Repr

/-- Where an irrevocable operation of the bundle in issue found a page: slot, page number, physical address. -/
structure Resolved where
  slot : Nat
  page : Nat
  pa : Nat
  kind : PageKind
deriving DecidableEq, Repr

/-- States of a stash tile (Table 3-5). -/
inductive TileState where
  | empty | filling | ready | draining
deriving DecidableEq, Repr

/-- A rule step on its way (R247); order: its place among the commits. -/
structure RuleStep where
  order : Nat
  mode : BitVec 2
  chk : Bool
  bnd : BitVec 2
  fix : BitVec 4
  table : BitVec 8192
deriving DecidableEq, Repr

/-- A stash tile-table entry (R51, Table 3-5). A mapped line's data is the module's memory, since the tile is a
coherent copy of it. -/
structure StashTile where
  state : TileState
  /-- PA: bits [51:12]. -/
  pa : Nat
  /-- VA: bits [63:12]. -/
  va : Nat
  present : BitVec 64
  dirty : BitVec 64
  zero : BitVec 64
  keep : Bool
  gen : Nat
  /-- Mapped from a zero page: its fills are answered by zero flags (R62). -/
  zeroPage : Bool
  rule : Option RuleStep
deriving DecidableEq, Repr

/-- A hardware context (R122, Table 7-1). -/
structure Ctx where
  arch : Arch
  /-- The last checkpoint (R139). -/
  ckpt : Arch
  bypass : List Bypass
  landings : List Landing
  withheld : List WithheldOp
  /-- Pages that irrevocable operations of the bundle in issue access at its commit (R139). -/
  resolved : List Resolved
  /-- Bytes that a check of the bundle in issue has read, by slot: a descriptor, a launch record, a parameter block, a
  coverage map (R139). -/
  checked : AMap (List Byte)
  /-- Bytes that loads of the span read: physical address, length, and whether the load is program-later than a
  withheld store of the span (R78). -/
  spanReads : List (Nat × Nat × Bool)
  /-- Another agent has stored to bytes of such a later load. -/
  spanStale : Bool
  /-- Rollbacks under R78 in succession. -/
  rollbacks : Nat
  /-- Journal entries of the span (R140): vector registers as their number, row group g of tile register n as
  384 + 16·n + g. -/
  journalV : List Nat
  /-- Accumulator tiles journalled in the span. -/
  journalA : List Nat
  /-- Handler mode (R300), its own program counter, transfer and bank. -/
  handler : Bool
  hpc : Word
  hxfer : Transfer
  /-- A tret has committed; the task resumes after its delay bundles (R183). -/
  tretting : Bool
  hs : RegFile 64
  hp : RegFile 1
  parked : Bool
  /-- sr.fault of a y.trap that the bundle in issue has committed (R275). -/
  softTrap : Option Word
  /-- Bits [2:0] that the handler has stored to its own CTLc in the bundle in issue (R303). -/
  ctl : Nat
  /-- sr.cause and sr.fault as a handler reads them (R299). -/
  cause : Word
  fault : Word
  /-- The record of the trap being handled (R301). -/
  record : List Byte
  life : Life
  wait : Wait
  /-- The launch and the task identifier (sr.task) of the task. -/
  launch : Nat
  task : Nat
  /-- Coordinates, level 0 first: COUNT and INDEX (R127). -/
  levels : List (Nat × Nat)
  /-- sr.part: PART and PRIO. -/
  part : Nat
  prio : Nat
  /-- Windows: BASE and COUNT (R48, R50). -/
  awinBase : Nat
  awinCount : Nat
  swinBase : Nat
  swinCount : Nat
  /-- Timeline slot (R86). -/
  slot : Nat
  /-- sr.rank, sr.skew and membership of a gang (R147). -/
  gang : Bool
  rank : Nat
  skew : Nat
  /-- sr.phase (R108): phased, WSTILES, PHASE. -/
  phased : Bool
  wstiles : Nat
  phase : Nat
  /-- The stash tiles of the core set aside for the write set (R113). -/
  wsPlaces : List Nat
  writeSet : List WLine
  /-- The task has ended its part in the phase and waits for the merge (R117). -/
  phaseDone : Bool
  /-- Address of the y.phase bundle that waits (R115). -/
  phaseAt : Word
  /-- Coverage-map claims it holds (R295). -/
  claims : List Claim
  /-- Phase of the latest arrive at each barrier (R99). -/
  barPhase : AMap Nat
  /-- Phase a blocked wait waits for. -/
  waitPhase : Option Nat
  cmds : List Cmd
  /-- The spill buffer, oldest first: the number of the copy command, the virtual address and the bytes of each write
  (R255). -/
  spill : List (Nat × Word × List Byte)
  /-- Writes in flight to accumulator tiles, each with the schedule cycle of its issue: matrix-slot writes and moves
  (R59, R60). -/
  accFill : List (Nat × Nat)
  accMove : List (Nat × Nat)
  /-- Nests that have still to write a tile, counted (R226). -/
  accNest : AMap Nat
  /-- Schedule cycle before which a matrix-parameter call is in progress (R223). -/
  callEnd : Nat
  /-- Wall cycle of an unanswered pre-emption request (R146, R290). -/
  preempt : Option Nat
  /-- The last commit was of a safe bundle, and no bundle has issued since. -/
  atSafe : Bool
  /-- The bundle last tried blocked (R129). -/
  blocked : Bool
  /-- The blocked bundle carries the safe flag (R146). -/
  blockedSafe : Bool
  /-- Number of the next landing entry. -/
  nextLanding : Nat
  /-- Entry reserved in a token queue by the bundle in issue (R102). -/
  reserved : Option (Nat × Bool)
  /-- Token queue that the push or pop last tried waits at, and whether it faults when next tried (R101). -/
  tokenWait : Option (Nat × Bool)
  /-- Step at which the task was placed (R285). -/
  placed : Nat
  /-- Tiles of the window, by number, that a restore could not map: they are mapped at RESUME (R314). -/
  unmapped : List (Nat × StashTile)
  /-- Length of the store history when the context's fetches last became current (R81, R277). -/
  fetchFrom : Nat
deriving DecidableEq, Repr

/-! ### Units of cores, ridges and the module -/

/-- Per-core registers and the rotation of contexts (R289, Table 15-4). -/
structure Core where
  last : Nat
  /-- First wall cycle in which the core may issue again: one bundle for each wall cycle (R129). -/
  free : Nat
  /-- The brake line: 0 not asserted, 1 by the tile interlock of R60, 2 for another cause of Table 7-7, 3 for a store that a
  held span of the same core keeps back, which lets the other contexts issue (R78, R135). -/
  brake : Nat
  trapent : Word
  recbase : Word
deriving DecidableEq, Repr

/-- A timeline of one engine context: numbers issued, the counter, and completed numbers above it (R85). -/
structure Timeline where
  issued : Nat
  count : Nat
  done : List Nat
deriving DecidableEq, Repr

/-- A timeline slot (R86, R87). -/
structure TSlot where
  held : Bool
  gen : BitVec 8
  eng : AMap Timeline
deriving DecidableEq, Repr

/-- A barrier (R97, R280): E, C, P, drops of the phase, and the launch that owns it. -/
structure Barrier where
  expect : Nat
  count : Nat
  phase : Nat
  drops : Nat
  owner : Option Nat
deriving DecidableEq, Repr

/-- A token queue (R100 to R102): PARTS, EN, DEPTH, the entries oldest first, and the contexts blocked on it. -/
structure TokenQueue where
  parts : BitVec 16
  en : Bool
  depth : BitVec 11
  entries : List Word
  /-- The wall cycle in which each blocked, and the context, in order (R102). -/
  pushers : List (Nat × Nat)
  poppers : List (Nat × Nat)
deriving DecidableEq, Repr

/-- A cached translation (R16, Table 1-7). level 0 to 2: a non-leaf entry of a die; level 2 or 3 with leaf: a leaf of
a core or ridge. -/
structure TlbEntry where
  /-- Holder: 0 core, 1 ridge, 2 die; and its number. -/
  kind : Nat
  holder : Nat
  asid : BitVec 16
  leaf : Bool
  level : Nat
  /-- Virtual address bits that the entry covers, as the address divided by the covered size. -/
  vpn : Nat
  entry : Word
  /-- Where the entry lies in memory. -/
  pa : Nat
deriving DecidableEq, Repr

/-- State of one task of a launch. -/
inductive TaskState where
  | unplaced
  | placed (ctx : Nat)
  | saved (image : Nat)
  | halted
  | failed
deriving DecidableEq, Repr

/-- A task: its identifier, coordinates (level 0 first), retries (R126) and state. -/
structure TaskRec where
  id : Nat
  coords : List Nat
  retries : Nat
  /-- The core that held it last: a retried member of a hardware domain goes back there (R147, R280, R286). -/
  core : Nat
  state : TaskState
deriving DecidableEq, Repr

/-- Where a launch came from. -/
inductive Launcher where
  /-- Engine context 5 of a timeline slot, with the number of the launch; by a task of a launch or by the front
  end. -/
  | task (launch id slot num : Nat)
  | front (queue slot num : Nat)
deriving DecidableEq, Repr

/-- A launch (R273, R278, R282). -/
structure Launch where
  /-- The 256-byte record as read, and its virtual address. -/
  record : List Byte
  va : Nat
  launcher : Launcher
  depth : Nat
  queue : Nat
  part : Nat
  prio : Nat
  asid : BitVec 16
  ttb : Word
  tasks : List TaskRec
  started : Bool
  failed : Bool
  complete : Bool
  /-- Schedule registers g0 to g15 (R186). -/
  sched : AMap Word
  /-- Memory at the snapshot point of the running phase (R109), and the lines that ridge caches held zero-flagged (R62). -/
  snap : Memory
  snapZero : List (Nat × Nat)
  phase : Nat
  /-- The launcher's timeline slot has been released since: its counters are another's (R85, R86). -/
  orphan : Bool
deriving DecidableEq, Repr

/-- An item of a launch queue (R283, R285). -/
inductive QItem where
  | launch (id : Nat)
  | image (id : Nat)
deriving DecidableEq, Repr

/-- A hardware launch queue (Table 14-3) with the wall cycle its time without service counts from (R284). -/
structure LaunchQueue where
  cfg : Word
  items : List QItem
  since : Nat
  /-- It has been served since reset. -/
  served : Bool
deriving DecidableEq, Repr

/-- A partition (Table 14-4) with the queue last served at each PRIO (R284). -/
structure Partition where
  cfg : Word
  ridges : List Nat
  lastServed : AMap Nat
deriving DecidableEq, Repr

/-- What comes with an image from another module (R315): its task's GEN and timeline counters, the ridge there that held the
task, the ridge here that the tasks of its launch from that ridge have been given, that ridge's named barriers, and the
map from the native bundles of that module to canonical ones. -/
structure Foreign where
  gen : BitVec 8
  timelines : AMap Timeline
  ridge : Nat
  chosen : Option Nat
  bars : List Barrier
  points : List (Word × Word)
deriving DecidableEq, Repr

/-- A saved context (R312, Table 15-8): what its image holds beside the context itself, which stands in the table of
contexts under 2^20 + its number. -/
structure Image where
  /-- Entries of its stash window, the first for q0. -/
  tiles : List StashTile
  /-- Ridge that held the task, which the dispatcher keeps (R314). -/
  ridge : Nat
  feature : Nat
  arith : Nat
  latency : Nat
  /-- Saved at the checkpoint of a rollback, and parked (AT_CKPT, PARKED). -/
  atCkpt : Bool
  parked : Bool
  /-- It came from another module (R315). -/
  foreign : Option Foreign
deriving DecidableEq, Repr

/-- A record that a ring holds: the entry, and the launch and task of a context that resumes when it has been delivered
(R303, R307). -/
structure HeldEntry where
  bytes : List Byte
  resume : Option (Nat × Nat)
deriving DecidableEq, Repr

/-- A ring of the interrupt controllers (R306, R307): its register, TAIL and held entries. HEAD is the word that the
consumer writes in memory. -/
structure Ring where
  cfg : Word
  tail : Nat
  held : List HeldEntry
  /-- A ring in another module's memory: 0 nothing is on its way, 1 the oldest entry, 2 the advance of TAIL (R308). -/
  stage : Nat
  /-- The requests of that stage: destination, lane and sequence number. -/
  sent : List (Nat × Nat × Nat)
deriving DecidableEq, Repr

/-- One level of a command queue (R347, R349): its buffer, the position in dwords, and the fetch window. -/
structure CqLevel where
  base : Word
  len : Nat
  pos : Nat
  /-- Bytes fetched ahead: dword number from the level's start and value, rising (R349). -/
  window : List (Nat × W32)
deriving DecidableEq, Repr

/-- A LOOP in progress (R347, R349): passes left, packets per pass, packets left in this pass, first and last dword,
and the body as read. -/
structure CqLoop where
  level : Nat
  left : Nat
  packets : Nat
  todo : Nat
  start : Nat
  body : List (Nat × W32)
deriving DecidableEq, Repr

/-- Packets to skip (R347): their level and how many remain, in the order in which the queue comes to them. -/
structure CqRun where
  level : Nat
  left : Nat
deriving DecidableEq, Repr

/-- A command queue (R344 to R351, Table 20-1). -/
structure CmdQueue where
  base : Word
  size : BitVec 24
  head : BitVec 32
  tail : BitVec 32
  asid : BitVec 16
  ttb : Word
  slot : Nat
  err : BitVec 8
  irq : Bool
  en : Bool
  /-- Levels, innermost first. -/
  levels : List CqLevel
  loops : List CqLoop
  /-- PREDs and LOOPs that skip packets which have not all passed. -/
  runs : List CqRun
  /-- The address of the failing packet (R351). -/
  failAt : Word
  /-- Control core that holds the ordering lock (R345). -/
  locked : Option Nat
  /-- The timeline wait that it is blocked on: handle and value (R345, R347). -/
  waiting : Option (Word × Nat)
  /-- MSI-X vectors raised. -/
  raised : Nat
deriving DecidableEq, Repr

/-- Entries of the front end's event queue (R345). -/
inductive FeEvent where
  | doorbell (q : Nat)
  | progress (q : Nat)
  | errClear (q : Nat)
  | wake
deriving DecidableEq, Repr

/-- A wake filter (Table 20-4). -/
structure WakeFilter where
  off : BitVec 11
  mask : Word
  value : Word
  armed : Bool
deriving DecidableEq, Repr

/-- The control pool and Ethernet port 0 (R345, R350). -/
structure FrontEnd where
  /-- The hardware event queue of 1,024 entries, and the events held at their sources while it is full, oldest first. -/
  events : List FeEvent
  heldEvents : List FeEvent
  gate : BitVec 32
  /-- Control cores that are gated, and the wall cycle each last had an event. -/
  gated : List Nat
  lastEvent : AMap Nat
  filters : AMap WakeFilter
  /-- Frames held while the pool is gated, oldest first. -/
  frames : List (List Byte)
  /-- Frames given to the device operating system. -/
  delivered : List (List Byte)
  dropped : Nat
deriving DecidableEq, Repr

/-- A member's command in a collective (R262): its rank, the context that holds the command, the command's number and
kind (opcode 0x20 + kind), its 64-byte descriptor, and how many destination tiles it has. -/
structure CollMember where
  rank : Nat
  ctx : Nat
  num : Nat
  kind : Nat
  desc : List Byte
  tiles : Nat
  /-- Planes landed in each destination tile (R264). -/
  prec : AMap Nat
  /-- Encoded blocks of destination tiles whose planes are landing. -/
  data : AMap (List Byte)
  /-- Destination tiles that have ended. -/
  done : List Nat
  /-- Tiles this member has cancelled, and those whose cancellation has reached the senders (R266). -/
  cancelled : List Nat
  told : List Nat
  complete : Bool
deriving DecidableEq, Repr

/-- A collective (R262): the launch, TAG, kind, LEVEL, the coordinates of its first member, the number of its members,
sender and receiver of a pair, the members' commands, how many members' commands have joined another collective, and
whether a member's LEVEL differs. -/
structure Collective where
  launch : Nat
  tag : Nat
  kind : Nat
  level : Nat
  coords : List Nat
  size : Nat
  pair : Nat × Nat
  members : List CollMember
  away : Nat
  differs : Bool
deriving DecidableEq, Repr

/-- A reduction command at its unit (R92, R93, R270), named by the timeline slot of its task and its number. Buffers are
the physical addresses of their 64 KiB pages, in order; empty where the command failed its checks. -/
structure Reduction where
  slot : Nat
  num : Nat
  block : List Byte
  stack : Nat
  operands : List (List Nat)
  result : List Nat
  flag : Nat
  /-- Next result line. -/
  line : Nat
  /-- STATUS so far: 1 while no step has failed. -/
  status : Nat
  /-- At the unit (R92). -/
  arrived : Bool
deriving DecidableEq, Repr

/-- A request sent and not yet acknowledged: the context that it serves, and the engine context and number of the
command it belongs to, or engine 6 for an access of the context itself and 7 for its store to a device page (R79,
R105). -/
structure FabOut where
  ctx : Nat
  eng : Nat
  num : Nat
  /-- The access that sent it: its requests to one module are performed at one point of that module's order (R76). -/
  access : Nat
  req : FabReq
deriving DecidableEq, Repr

/-- The Kwavik fabric as this module sees it (R84, R103 to R105). -/
structure Fabric where
  /-- Requests sent and not yet acknowledged, oldest first. -/
  out : List FabOut
  /-- Sequence numbers used per 16·destination + lane. -/
  sent : AMap Nat
  /-- Next sequence number performed per 16·source + lane of arriving requests, and of own requests at their
  destination per 16·destination + lane. -/
  seen : AMap Nat
  performedAt : AMap Nat
  /-- Results of reads and atomics: source, lane, sequence number, the bytes read or the old value; none: the line is
  poisoned. -/
  results : List (Nat × Nat × Nat × Option Nat)
  /-- Number of the next access that sends requests. -/
  nextAccess : Nat
  failedLinks : List Nat
  unreachable : List Nat
deriving DecidableEq, Repr

/-- A device store that its target has not acknowledged (R79): the context, the byte address, the length and the value. -/
structure DevStore where
  ctx : Nat
  pa : Nat
  n : Nat
  x : Nat
deriving DecidableEq, Repr

/-- A loaded object (R331, R332). -/
structure LoadedObject where
  obj : BmoObject
  svn : Nat
  /-- Chunks resident: chunk and physical address. -/
  resident : List (Nat × Nat)
  /-- Its native text has been placed and mapped (R333). -/
  native : Bool
deriving DecidableEq, Repr

/-- A cached translation of canonical text (R333): ROOT, latency level, translator version, native text, the safe-point map
as native and canonical offsets, SVN, the number of the device key that has signed it, and the signature. -/
structure CachedText where
  root : BitVec 256
  latency : Nat
  version : Nat
  text : List Byte
  points : List (Nat × Nat)
  svn : Nat
  key : Nat
  signature : List Byte
deriving DecidableEq, Repr

/-- Loader, boot ROM, fuses and attestation (R329 to R337). -/
structure Trust where
  lc : LifeCycle
  fusectr : BitVec 8
  meas : AMap (BitVec 256)
  /-- Number of the device key; none before provisioning and after return. -/
  deviceKey : Option Nat
  objects : AMap LoadedObject
  cache : List CachedText
  /-- Code of the last load: 0 accepted, else Table 17-2. -/
  loadCode : Nat
  /-- Leaf failures at page-in, counted by the operating system (R332). -/
  leafFailures : Nat
  /-- Attestation reports given out. -/
  reports : List (List Byte)
deriving DecidableEq, Repr

/-- An agent that can move (R340): a core, one of the module's own agents with its event, the outside world. -/
inductive Agent where
  | core (k : Nat)
  | event (i : Instr)
  /-- The device ports with stores that their targets have not acknowledged (R79). -/
  | ports
  | outside
deriving DecidableEq, Repr

/-- Which agent moves next. -/
inductive Turn where
  /-- Core k tries its contexts (R289). -/
  | core (k : Nat)
  /-- Outstanding event n of work. -/
  | work (n : Nat)
  /-- Device store n takes its place at its target (R79). -/
  | port (n : Nat)
  /-- The oldest outside event. -/
  | input
  | idle
deriving DecidableEq, Repr

/-- How far the bundle in issue has come. -/
inductive Issue where
  | ok
  /-- The bundle blocks (R129). -/
  | blocked
  /-- The brake line is asserted (R135). -/
  | braked
  /-- The brake line is asserted by the interlock of a tile (R60). -/
  | interlocked
  /-- A trap with this cause and sr.fault value has been taken (R297), or the span was rolled back (R78, cause 0). -/
  | trapped (cause : Nat) (fault : Word)
deriving DecidableEq, Repr

/-- What an operation of the bundle in issue does now: its checks, reads and delayed writes, or, for an irrevocable
operation, its effect at the commit (R139). -/
inductive Stage where
  | issue
  | commit
deriving DecidableEq, Repr

/-- The bundle in issue: its address and class. -/
structure BundleInfo where
  addr : Word
  ckpt : Bool
  safe : Bool
  canonical : Bool
deriving DecidableEq, Repr

/-- The whole module. -/
structure State where
  /-- Contexts by number, an unlisted one being idle; saved contexts from 2^20 on, by image number. -/
  ctxs : AMap Ctx
  cores : AMap Core
  stash : AMap StashTile
  mem : Memory
  /-- Bytes as they stood before each store, the latest store first: what a fetch made earlier may have read (R81). -/
  history : List Host.Cell
  tlb : List TlbEntry
  slots : AMap TSlot
  barriers : AMap Barrier
  tokens : AMap TokenQueue
  launches : AMap Launch
  nextLaunch : Nat
  queues : AMap LaunchQueue
  parts : AMap Partition
  age : Word
  images : AMap Image
  nextImage : Nat
  steer : AMap Word
  rings : AMap Ring
  cqs : AMap CmdQueue
  front : FrontEnd
  colls : AMap Collective
  nextColl : Nat
  reductions : List Reduction
  fabric : Fabric
  /-- Device stores in commit order that have not reached their registers (R79). -/
  devOut : List DevStore
  trust : Trust
  /-- Poisoned lines of memory (R65). -/
  poison : List Nat
  /-- Lines that are zero-flagged in a ridge cache: ridge and physical line (R62). -/
  zeroLines : List (Nat × Nat)
  /-- Events counted for management (R65, R104, R306): 0 corrected errors, 1 link failures, 2 held records. -/
  counted : AMap Nat
  /-- The sixteen units have reported the end of their zeroing (R70). -/
  hbmReady : Bool
  /-- Ridges that are fused off, as 13·die + ridge (00 R1). -/
  fused : List Nat
  /-- Wall cycles since the end of the last cold reset (Table 9-10). -/
  wall : Nat
  /-- Steps taken: numbers the free values. The model's own. -/
  tick : Nat
  turn : Turn
  /-- Events of the module's own agents that have begun and not ended. -/
  work : List Instr
  /-- Events that the outside world has asked for, oldest first. -/
  inputs : List Instr
  /-- The context whose bundle is in issue. -/
  cur : Nat
  bundle : BundleInfo
  issue : Issue
  stage : Stage
  /-- The trap that the bundle in issue has raised last. -/
  raised : Option Trap
  /-- Wall cycle and core of the latest bundle issued: the cores of one wall cycle follow R98. -/
  lastIssue : Nat × Nat
  /-- Steps in which the next agent is a free choice; then the agents that have waited are served in turn. -/
  patience : Nat
  /-- Agents that can move, in the order in which they began to wait. -/
  waiting : List Agent
  /-- Ridges whose millrace has delivered the B data of the gang's next bundle (R148, R149). -/
  millrace : List Nat
deriving DecidableEq, Repr

/-! ### After reset -/

/-- Every register of a task that it has not written (R122, R69, R214). A lane of a stream register that is not
listed is inert in decode mode with ERROR set. -/
def Arch.zero : Arch :=
  { pc := 0, sched := 0, reached := 0, xfer := { delay := 0, target := none }, s := .zero, p := .zero, m := .zero, v := .zero,
    t := .zero, acc := .zero, str := { words := .zero, queues := [], ops := [] }, shape := [], shadow := [], mp := [],
    latch := 0, codebook := 0, zbitmap := 0, uprog := [], ruleTab := 0, epc := 0, ttb := 0, asid := 0, srw := [], side := [],
    poison := [], zeroOff := [] }

/-- A context that holds no task. -/
def Ctx.idle : Ctx :=
  { arch := Arch.zero, ckpt := Arch.zero, bypass := [], landings := [], withheld := [], resolved := [], checked := [], spanReads := [],
    spanStale := false, rollbacks := 0, journalV := [], journalA := [], handler := false, hpc := 0, softTrap := none, ctl := 0,
    hxfer := { delay := 0, target := none }, tretting := false, hs := .zero, hp := .zero, parked := false, cause := 0,
    fault := 0, record := [], life := .idle, wait := .none, launch := 0, task := 0, levels := [], part := 0, prio := 0,
    awinBase := 0, awinCount := 0, swinBase := 0, swinCount := 0, slot := 0, gang := false, rank := 0, skew := 0,
    phased := false, wstiles := 0, phase := 0, wsPlaces := [], writeSet := [], phaseDone := false, phaseAt := 0, claims := [],
    barPhase := [], waitPhase := none, cmds := [], spill := [], accFill := [], accMove := [], accNest := [], callEnd := 0, preempt := none,
    atSafe := false, blocked := false, blockedSafe := false, nextLanding := 0, reserved := none, tokenWait := none,
    placed := 0, unmapped := [], fetchFrom := 0 }

/-- A core after reset: TRAPENT and RECBASE zero (Table 15-4), context 0 first (DESIGN CHOICE, log 2). -/
def Core.reset : Core := { last := 0, free := 0, brake := 0, trapent := 0, recbase := 0 }

/-- An empty stash tile (R70). -/
def StashTile.empty : StashTile :=
  { state := .empty, pa := 0, va := 0, present := 0, dirty := 0, zero := 0, keep := false, gen := 0, zeroPage := false, rule := none }

/-- A timeline that has numbered nothing (R85). -/
def Timeline.zero : Timeline := { issued := 0, count := 0, done := [] }

/-- A free timeline slot. -/
def TSlot.free : TSlot := { held := false, gen := 0, eng := [] }

/-- A barrier that no launch owns (R281). -/
def Barrier.unowned : Barrier := { expect := 0, count := 0, phase := 0, drops := 0, owner := none }

/-- A token queue after reset (Table 5-3). -/
def TokenQueue.reset : TokenQueue :=
  { parts := 0, en := false, depth := 0, entries := [], pushers := [], poppers := [] }

/-- A launch queue after reset (Table 14-3). -/
def LaunchQueue.reset : LaunchQueue := { cfg := 0, items := [], since := 0, served := false }

/-- A partition after reset (Table 14-4). -/
def Partition.reset : Partition := { cfg := 0, ridges := [], lastServed := [] }

/-- Ridge 12 of every die is the fused one (00 R1; DESIGN CHOICE, log 3). -/
def defaultFused : List Nat := [12, 25, 38, 51, 64, 77, 90, 103]

/-- The enabled ridges, ascending (00 R1). -/
def enabledRidges : List Nat := (List.range 104).filter fun r => !(r ∈ defaultFused)

/-- At reset every enabled ridge belongs to partition 0 (DESIGN CHOICE, log 4). -/
def defaultParts : AMap Partition := [(0, { cfg := 0, ridges := enabledRidges, lastServed := [] })]

/-- A ring after reset (Table 15-6; DESIGN CHOICE, log 2). -/
def Ring.reset : Ring := { cfg := 0, tail := 0, held := [], stage := 0, sent := [] }

/-- A command queue after reset (Table 20-1). -/
def CmdQueue.reset : CmdQueue :=
  { base := 0, size := 0, head := 0, tail := 0, asid := 0, ttb := 0, slot := 0, err := 0, irq := false, en := false,
    levels := [], loops := [], runs := [], failAt := 0, locked := none, waiting := none, raised := 0 }

/-- A wake filter after reset (Table 20-4). -/
def WakeFilter.reset : WakeFilter := { off := 0, mask := 0, value := 0, armed := false }

/-- The front end after reset. -/
def FrontEnd.reset : FrontEnd :=
  { events := [], heldEvents := [], gate := 0, gated := [], lastEvent := [], filters := [], frames := [], delivered := [], dropped := 0 }

/-- The fabric after reset. -/
def Fabric.reset : Fabric :=
  { out := [], sent := [], seen := [], performedAt := [], results := [], nextAccess := 0, failedLinks := [], unreachable := [] }

/-- Loader and fuses at first power-on: manufacturing state, FUSECTR 0 (DESIGN CHOICE, log 2: fused values). -/
def Trust.reset : Trust :=
  { lc := .manufacturing, fusectr := 0, meas := [], deviceKey := none, objects := [], cache := [], loadCode := 0,
    leafFailures := 0, reports := [] }

/-- A bundle record before the first bundle (DESIGN CHOICE, log 2). -/
def BundleInfo.none : BundleInfo := { addr := 0, ckpt := false, safe := false, canonical := false }

/-- The module right after a cold reset: everything cleared (R4, R70, R335), AGE 2^20 (R282), and the memory-side
units still writing zeros, which hbmZeroComplete ends. -/
def State.reset : State :=
  { ctxs := [], cores := [], stash := [], mem := [], history := [], tlb := [], slots := [], barriers := [], tokens := [],
    launches := [], nextLaunch := 0, queues := [], parts := defaultParts, age := 1048576, images := [], nextImage := 0,
    steer := [], rings := [], cqs := [], front := FrontEnd.reset, colls := [], nextColl := 0, reductions := [],
    fabric := Fabric.reset, devOut := [], trust := Trust.reset, poison := [], zeroLines := [], counted := [], hbmReady := false,
    fused := defaultFused, wall := 0, tick := 0, turn := .work 0, work := [.hbmZeroComplete], inputs := [], cur := 0,
    bundle := BundleInfo.none, issue := .ok, stage := .issue,
    raised := none, lastIssue := (0, 0), patience := 0, waiting := [], millrace := [] }

end Sys2Proof.Machine
end

