-- ==== Sys2Proof/Machine/Store.lean ====
section
/-! DEFINITION. Tables, memory bytes and register files: reading, writing, and the passage of a delayed write. -/

namespace Sys2Proof.Machine

/-! ### Tables -/

/-- The value under key i, or d. -/
def amGet {α : Type} (d : α) : AMap α → Nat → α
  | [], _ => d
  | (k, x) :: m, i => if k = i then x else amGet d m i

/-- The table with x under key i. -/
def amSet {α : Type} : AMap α → Nat → α → AMap α
  | [], i, x => [(i, x)]
  | (k, y) :: m, i, x =>
    if k = i then (i, x) :: m
    else if i < k then (i, x) :: (k, y) :: m
    else (k, y) :: amSet m i x

/-- The table with the value under key i changed by f. -/
def amMod {α : Type} (d : α) (m : AMap α) (i : Nat) (f : α → α) : AMap α := amSet m i (f (amGet d m i))

/-- The table without key i. -/
def amDel {α : Type} (m : AMap α) (i : Nat) : AMap α := m.filter fun p => p.1 ≠ i

/-- The value under key i, if the table lists it. -/
def amFind {α : Type} : AMap α → Nat → Option α
  | [], _ => none
  | (k, x) :: m, i => if k = i then some x else amFind m i

/-! ### Bytes and little-endian words (R26) -/

/-- The number whose bytes these are, the first the lowest. -/
def leNat : List Byte → Nat
  | [] => 0
  | b :: bs => b.toNat + 256 * leNat bs

/-- The lowest n bytes of x, the lowest first. -/
def leBytes : Nat → Nat → List Byte
  | 0, _ => []
  | n + 1, x => BitVec.ofNat 8 x :: leBytes n (x / 256)

/-! ### Memory -/

/-- An unlisted byte reads as zero: HBM is zeroed at reset (R4, R70); host and fabric memory start as zero
(DESIGN CHOICE, log 1). -/
def memGet : Memory → Nat → Byte
  | [], _ => 0
  | (k, b) :: m, a => if k = a then b else memGet m a

/-- Memory with byte b at address a, in canonical form. -/
def memSet : Memory → Nat → Byte → Memory
  | [], a, b => if b = 0 then [] else [(a, b)]
  | (k, y) :: m, a, b =>
    if k = a then (if b = 0 then m else (a, b) :: m)
    else if a < k then (if b = 0 then (k, y) :: m else (a, b) :: (k, y) :: m)
    else (k, y) :: memSet m a b

/-- Every listed address lies above lo, addresses rise, and no listed byte is zero. -/
def Memory.wfFrom : Nat → Memory → Bool
  | _, [] => true
  | lo, (k, b) :: m => lo ≤ k && b ≠ 0 && Memory.wfFrom (k + 1) m

/-- The canonical form of memory: equal memories are equal lists. -/
def Memory.wf (m : Memory) : Bool := Memory.wfFrom 0 m

/-- The n bytes from address a upward. -/
def memRead (m : Memory) (a : Nat) : Nat → List Byte
  | 0 => []
  | n + 1 => memGet m a :: memRead m (a + 1) n

/-- The bytes bs stored from address a upward. -/
def memWrite (m : Memory) (a : Nat) : List Byte → Memory
  | [] => m
  | b :: bs => memWrite (memSet m a b) (a + 1) bs

/-- Cells stored one after the other; a later cell of one address wins (R76). -/
def memWriteCells (m : Memory) : List (Nat × Byte) → Memory
  | [] => m
  | (a, b) :: cs => memWriteCells (memSet m a b) cs

/-- The n-byte little-endian number at address a. -/
def memNat (m : Memory) (a n : Nat) : Nat := leNat (memRead m a n)

/-- Cells for the bytes bs from address a upward. -/
def cellsAt (a : Nat) : List Byte → List (Nat × Byte)
  | [] => []
  | b :: bs => (a, b) :: cellsAt (a + 1) bs

/-! ### Register files -/

/-- The settled value of register i. -/
def RegFile.settled {w : Nat} (f : RegFile w) (i : Nat) : BitVec w := amGet 0 f.vals i

/-- Bits of register i that a write issued before this bundle leaves undefined until it is due (R130); now is the
schedule cycle of the bundle. -/
def pendMask {w : Nat} (i now : Nat) : List (PendW w) → BitVec w
  | [] => 0
  | q :: qs => if q.idx = i ∧ q.issued ≠ now then q.mask ||| pendMask i now qs else pendMask i now qs

/-- Register i as an operation of the bundle at cycle now reads it, as it stood before the bundle's writes: inside an
undefined window its bits are those of u (R130). -/
def RegFile.read {w : Nat} (f : RegFile w) (i now : Nat) (u : BitVec w) : BitVec w :=
  let k := pendMask i now f.pend
  if k = 0 then f.settled i else (f.settled i &&& ~~~k) ||| (u &&& k)

/-- The bits mask of register i take data's bits at schedule cycle due (R130). -/
def RegFile.write {w : Nat} (f : RegFile w) (i : Nat) (mask data : BitVec w) (due now : Nat) : RegFile w :=
  { f with pend := f.pend ++ [{ idx := i, mask := mask, data := data, due := due, issued := now }] }

/-- Writes on their way without the bits mask of register i, which a later write takes over (R132). -/
def dropPend {w : Nat} (i : Nat) (mask : BitVec w) : List (PendW w) → List (PendW w)
  | [] => []
  | q :: qs =>
    if q.idx = i then
      let k := q.mask &&& ~~~mask
      if k = 0 then dropPend i mask qs else { q with mask := k } :: dropPend i mask qs
    else q :: dropPend i mask qs

/-- Writes on their way, oldest first, each without the bits that a later one takes over (R47, R132). -/
def takeOver {w : Nat} (qs : List (PendW w)) : List (PendW w) :=
  qs.foldl (fun acc q => dropPend q.idx q.mask acc ++ [q]) []

/-- One write takes effect. -/
def PendW.apply {w : Nat} (q : PendW w) (m : AMap (BitVec w)) : AMap (BitVec w) :=
  amSet m q.idx ((amGet 0 m q.idx &&& ~~~q.mask) ||| (q.data &&& q.mask))

/-- The file with the writes that p names having taken effect, but for those whose data are still to arrive. -/
def RegFile.land {w : Nat} (f : RegFile w) (p : PendW w → Bool) : RegFile w :=
  let go := fun (q : PendW w) => p q && q.late.isNone
  { vals := ((takeOver f.pend).filter go).foldl (fun m q => q.apply m) f.vals,
    pend := (takeOver f.pend).filter fun q => !go q }

/-- The file at schedule cycle c: every write due by then has taken effect. -/
def RegFile.advance {w : Nat} (f : RegFile w) (c : Nat) : RegFile w := f.land fun q => q.due ≤ c

/-- The file with every write on its way having taken effect (R141). -/
def RegFile.flush {w : Nat} (f : RegFile w) : RegFile w :=
  let g := f.land fun _ => true
  { g with pend := g.pend.map fun q => { q with due := 0 } }

/-- The writes that have joined the file since g wait for landing entry id. -/
def RegFile.await {w : Nat} (f g : RegFile w) (id : Nat) : RegFile w :=
  { f with pend := f.pend.zipIdx.map fun q => if g.pend.length ≤ q.2 then { q.1 with late := some id } else q.1 }

/-- The data of landing entry id. -/
def RegFile.fill {w : Nat} (f : RegFile w) (id : Nat) (x : BitVec w) : RegFile w :=
  { f with pend := f.pend.map fun q => if q.late = some id then { q with data := x, late := none } else q }

/-- The writes that wait for landing entry id are dropped. -/
def RegFile.forget {w : Nat} (f : RegFile w) (id : Nat) : RegFile w :=
  { f with pend := f.pend.filter fun q => q.late ≠ some id }

/-- A write waits for landing entry id. -/
def RegFile.awaits {w : Nat} (f : RegFile w) (id : Nat) : Bool := f.pend.any fun q => q.late == some id

/-- The file without the writes on their way (R304). -/
def RegFile.settle {w : Nat} (f : RegFile w) : RegFile w := { f with pend := [] }

/-- The register takes data at once. -/
def RegFile.poke {w : Nat} (f : RegFile w) (i : Nat) (data : BitVec w) : RegFile w :=
  { f with vals := amSet f.vals i data }

/-- No write is on its way. -/
def RegFile.quiet {w : Nat} (f : RegFile w) : Bool := f.pend.isEmpty

/-- Every write on its way is due by schedule cycle c. -/
def RegFile.dueBy {w : Nat} (f : RegFile w) (c : Nat) : Bool := f.pend.all fun q => q.due ≤ c

/-! ### Stream registers -/

/-- A lane that no operation has written since launch: inert, in decode mode, ERROR set (R122, R228). -/
def LaneQueue.launch : LaneQueue := { win := [], rest := 0, ended := false, overrun := false, error := true }

/-- One change of a lane's window and status (R230). What a removal leaves in the places past WCNT is not given (DESIGN
CHOICE, log 17). -/
def QueueOp.apply (o : QueueOp) (q : LaneQueue) : LaneQueue :=
  match o.replace with
  | some r => r
  | none =>
    let kept := q.win.drop o.remove
    let full := !o.append.isEmpty && decide (kept.length > 8)
    { win := if full then kept else kept ++ o.append,
      rest := if o.remove = 0 then q.rest else BitVec.ofNat 144 (Config.openBits 144),
      ended := q.ended || o.ended, overrun := q.overrun || o.overrun, error := q.error || o.error || full }

/-- The windows and status with every change due by schedule cycle c made, in cycle order (R230). -/
def applyQueueOps (qs : AMap LaneQueue) : List QueueOp → AMap LaneQueue
  | [] => qs
  | o :: os => applyQueueOps (amMod LaneQueue.launch qs o.key o.apply) os

/-- Insertion of a change in cycle order. Of an append and a removal of one cycle R230 does not say which comes first: a
free choice (DESIGN CHOICE, log 14). Otherwise the changes keep their issue order. -/
def insertQueueOp (o : QueueOp) : List QueueOp → List QueueOp
  | [] => [o]
  | x :: xs =>
    if o.due < x.due || (o.due = x.due && o.append.isEmpty != x.append.isEmpty && o.append.isEmpty != Config.appendFirst)
    then o :: x :: xs
    else x :: insertQueueOp o xs

/-- The stream registers at schedule cycle c. -/
def StreamFile.advance (f : StreamFile) (c : Nat) : StreamFile :=
  { words := f.words.advance c,
    queues := applyQueueOps f.queues (f.ops.filter fun o => o.due ≤ c),
    ops := f.ops.filter fun o => !(o.due ≤ c) }

/-- The stream registers with every change made. -/
def StreamFile.flush (f : StreamFile) : StreamFile :=
  { words := f.words.flush, queues := applyQueueOps f.queues f.ops, ops := [] }

/-! ### The duplicate set as a whole -/

/-- The registers at schedule cycle c. -/
def Arch.advance (a : Arch) (c : Nat) : Arch :=
  { a with s := a.s.advance c, p := a.p.advance c, m := a.m.advance c, v := a.v.advance c, t := a.t.advance c,
           acc := a.acc.advance c, str := a.str.advance c }

/-- The registers with every operation having reached its L or landing (R141). -/
def Arch.flush (a : Arch) : Arch :=
  { a with reached := 0, s := a.s.flush, p := a.p.flush, m := a.m.flush, v := a.v.flush, t := a.t.flush, acc := a.acc.flush,
           str := a.str.flush }

/-- A write waits for landing entry id. -/
def Arch.awaits (a : Arch) (id : Nat) : Bool := a.s.awaits id || a.v.awaits id || a.t.awaits id

/-- The writes that wait for landing entry id are dropped. -/
def Arch.forget (a : Arch) (id : Nat) : Arch :=
  { a with s := a.s.forget id, v := a.v.forget id, t := a.t.forget id }

/-- An operation that has issued reaches its L or landing at schedule cycle c, whatever it writes (R145). -/
def Arch.reach (a : Arch) (c : Nat) : Arch := { a with reached := Nat.max a.reached c }

/-- Every operation issued has reached its L or landing by schedule cycle c (R145, R158). -/
def Arch.settledBy (a : Arch) (c : Nat) : Bool :=
  a.reached ≤ c && a.s.dueBy c && a.p.dueBy c && a.m.dueBy c && a.v.dueBy c && a.t.dueBy c && a.str.words.dueBy c
    && a.str.ops.all fun o => o.due ≤ c

end Sys2Proof.Machine
end

