-- ==== Sys2Proof/Machine/Bits.lean ====
section
/-! DEFINITION. Bit fields, extension, lanes of a register, rows and columns of a tile register (R45, R46, R166). -/

namespace Sys2Proof.Machine

/-- The n-bit field of x from bit k upward. -/
def bitsOf (x k n : Nat) : Nat := x / 2 ^ k % 2 ^ n

/-- The w-bit pattern x as a signed integer. -/
def signedOf (w x : Nat) : Int := if x % 2 ^ w < 2 ^ (w - 1) then (x % 2 ^ w : Nat) else (x % 2 ^ w : Nat) - (2 ^ w : Nat)

/-- The w-bit pattern of an integer, modulo 2^w. -/
def patternOf (w : Nat) (x : Int) : Nat := (x % ((2 ^ w : Nat) : Int)).toNat

/-- sext(x, w): the w-bit value x extended by its sign to 64 bits (Table 8-18). -/
def sext64 (w x : Nat) : Word := BitVec.ofNat 64 (patternOf 64 (signedOf w x))

/-- zext(x, w): the w-bit value x extended by zeros to 64 bits. -/
def zext64 (w x : Nat) : Word := BitVec.ofNat 64 (x % 2 ^ w)

/-- The numbers 0 to n − 1 in ascending order. -/
def upto (n : Nat) : List Nat := List.range n

/-- Element i of w bits of a register's bits x. -/
def elem (x w i : Nat) : Nat := x / 2 ^ (w * i) % 2 ^ w

/-- The bits whose elements of w bits, for 0 to n − 1, are those of f. -/
def packElems (w : Nat) (f : Nat → Nat) : Nat → Nat
  | 0 => 0
  | n + 1 => packElems w f n + (f n % 2 ^ w) * 2 ^ (w * n)

/-- lane(x, l, t) as a bit pattern (R45). -/
def lane (x : VReg) (t : Ty) (l : Nat) : Nat := elem x.toNat t.bits l

/-- The register whose lane l of type t is f l. -/
def ofLanes (t : Ty) (f : Nat → Nat) : VReg := BitVec.ofNat 2048 (packElems t.bits f t.lanes)

/-- The value of a bit pattern of integer type t. -/
def intOf (t : Ty) (x : Nat) : Int := if t.isSigned then signedOf t.bits x else (x % 2 ^ t.bits : Nat)

/-- Least and greatest value of an integer type. -/
def tyMin (t : Ty) : Int := if t.isSigned then -((2 ^ (t.bits - 1) : Nat) : Int) else 0
/-- Greatest value of an integer type. -/
def tyMax (t : Ty) : Int := if t.isSigned then ((2 ^ (t.bits - 1) : Nat) : Int) - 1 else ((2 ^ t.bits : Nat) : Int) - 1

/-- wrap(x, t) as a bit pattern (Table 8-18). -/
def wrapTy (t : Ty) (x : Int) : Nat := patternOf t.bits x

/-- clamp(x, lo, hi). -/
def clampInt (x lo hi : Int) : Int := if x < lo then lo else if hi < x then hi else x

/-- sat(x, t) as a bit pattern (Table 8-18). -/
def satTy (t : Ty) (x : Int) : Nat := patternOf t.bits (clampInt x (tyMin t) (tyMax t))

/-- active(k, l, t) for the mask value k (Table 8-18). -/
def activeIn (k : Word) (l : Nat) (t : Ty) : Bool :=
  match t with
  | .s64 | .z64 => k.getLsbD (2 * l)
  | .i4 => k.getLsbD (l / 8)
  | t => k.getLsbD (l * (t.bits / 8) / 4)

/-- Lanes where the mask is active take new's bits, the others old's (R188). -/
def mergeLanes (t : Ty) (k : Word) (old new : VReg) : VReg :=
  ofLanes t fun l => if activeIn k l t then lane new t l else lane old t l

/-- Byte b of a register. -/
def byteOf {w : Nat} (x : BitVec w) (b : Nat) : Byte := BitVec.ofNat 8 (elem x.toNat 8 b)

/-- The n lowest bytes of a register. -/
def bytesOf {w : Nat} (x : BitVec w) (n : Nat) : List Byte := (upto n).map (byteOf x)

/-- The register whose lowest bytes are bs. -/
def ofBytes (w : Nat) (bs : List Byte) : BitVec w := BitVec.ofNat w (leNat bs)

/-- Row r of a tile register (R46). -/
def rowOf (t : TReg) (r : Nat) : TRow := BitVec.ofNat 512 (elem t.toNat 512 r)

/-- Row r of a tile register as bits of the whole register. -/
def atRow (r : Nat) (x : TRow) : TReg := BitVec.ofNat 32768 (x.toNat * 2 ^ (512 * r))

/-- Rows 4g to 4g + 3 of a tile register as a 256-byte value (R203). -/
def rowGroup (t : TReg) (g : Nat) : VReg := BitVec.ofNat 2048 (elem t.toNat 2048 g)

/-- A 256-byte value placed at rows 4g to 4g + 3. -/
def atRowGroup (g : Nat) (x : VReg) : TReg := BitVec.ofNat 32768 (x.toNat * 2 ^ (2048 * g))

/-- Column j of element width w bytes: element r is bytes w·j to w·j + w − 1 of row r (R46). -/
def columnOf (t : TReg) (w j : Nat) : VReg :=
  BitVec.ofNat 2048 (packElems (8 * w) (fun r => elem (rowOf t r).toNat (8 * w) j) 64)

/-- A column's elements placed in a tile register. -/
def atColumn (w j : Nat) (x : VReg) : TReg :=
  BitVec.ofNat 32768 (packElems 512 (fun r => elem x.toNat (8 * w) r * 2 ^ (8 * w * j)) 64)

/-- Element 16·i + j of an accumulator tile (R49). -/
def accElem (a : ATile) (e : Nat) : Nat := elem a.toNat 32 e

end Sys2Proof.Machine
end

