-- ==== Sys2Proof/Machine/Fp.lean ====
section
/-! DEFINITION. Exact arithmetic and the element formats: floating point, rounding, conversion, shared-exponent
blocks, the logical dot product, the fixed reduction trees (R26 to R42). -/

namespace Sys2Proof.Machine

/-- The value of an element: NaN, an infinity, or (−1)^neg · m · 2^e. -/
inductive FVal where
  | nan
  | inf (neg : Bool)
  | fin (neg : Bool) (m : Nat) (e : Int)
deriving DecidableEq, Repr

/-- A floating-point format (R27, Table 2-1). -/
structure Fmt where
  ebits : Nat
  mbits : Nat
  bias : Nat
  /-- IEEE special values; false for E4M3, which has no infinity. -/
  ieee : Bool
deriving DecidableEq, Repr

/-- FP32. -/
def Fmt.fp32 : Fmt := { ebits := 8, mbits := 23, bias := 127, ieee := true }
/-- BF16. -/
def Fmt.bf16 : Fmt := { ebits := 8, mbits := 7, bias := 127, ieee := true }
/-- FP16. -/
def Fmt.fp16 : Fmt := { ebits := 5, mbits := 10, bias := 15, ieee := true }
/-- E4M3. -/
def Fmt.e4m3 : Fmt := { ebits := 4, mbits := 3, bias := 7, ieee := false }
/-- E5M2. -/
def Fmt.e5m2 : Fmt := { ebits := 5, mbits := 2, bias := 15, ieee := true }

/-- The format of a floating-point element type. -/
def fmtOf : Ty → Option Fmt
  | .f32 => some .fp32 | .bf16 => some .bf16 | .f16 => some .fp16 | .e4m3 => some .e4m3 | .e5m2 => some .e5m2
  | _ => none

/-- Greatest finite magnitude as a pattern. -/
def Fmt.maxFinite (f : Fmt) : Nat :=
  if f.ieee then (2 ^ f.ebits - 1) * 2 ^ f.mbits - 1 else 2 ^ (f.ebits + f.mbits) - 2

/-- The pattern of +∞ in a format that has one. -/
def Fmt.infinity (f : Fmt) : Nat := (2 ^ f.ebits - 1) * 2 ^ f.mbits

/-- The canonical NaN (R28, Table 2-1). -/
def Fmt.qnan (f : Fmt) : Nat := if f.ieee then f.infinity + 2 ^ (f.mbits - 1) else 2 ^ (f.ebits + f.mbits) - 1

/-- Exponent of the smallest subnormal. -/
def Fmt.emin (f : Fmt) : Int := 1 - (f.bias : Int) - f.mbits

/-- The sign bit as a pattern. -/
def Fmt.sign (f : Fmt) (neg : Bool) : Nat := if neg then 2 ^ (f.ebits + f.mbits) else 0

/-- The value of a pattern (R27). -/
def Fmt.value (f : Fmt) (x : Nat) : FVal :=
  let neg := elem x 1 (f.ebits + f.mbits) == 1
  let e := bitsOf x f.mbits f.ebits
  let m := bitsOf x 0 f.mbits
  if f.ieee && e == 2 ^ f.ebits - 1 then (if m = 0 then .inf neg else .nan)
  else if !f.ieee && e == 2 ^ f.ebits - 1 && m == 2 ^ f.mbits - 1 then .nan
  else if e = 0 then .fin neg m f.emin
  else .fin neg (2 ^ f.mbits + m) (f.emin + e - 1)

/-- An exact magnitude num / den · 2^e rounded to a whole number of units 2^q (R37). -/
def roundUnits (rm : Rm) (neg : Bool) (num den : Nat) (e q : Int) : Nat :=
  let a := if q ≤ e then num * 2 ^ (e - q).toNat else num
  let b := if q ≤ e then den else den * 2 ^ (q - e).toNat
  let fl := a / b
  let r := a % b
  let up := match rm with
    | .rn => b < 2 * r || (2 * r = b && fl % 2 = 1)
    | .rz => false
    | .ru => !neg && r ≠ 0
    | .rd => neg && r ≠ 0
  if up then fl + 1 else fl

/-- floor(log2(num / den · 2^e)) of a positive number. -/
def floorLog2 (num den : Nat) (e : Int) : Int :=
  let k : Int := (Nat.log2 num : Int) - Nat.log2 den
  let ge := if 0 ≤ k then den * 2 ^ k.toNat ≤ num else den ≤ num * 2 ^ (-k).toNat
  e + (if ge then k else k - 1)

/-- The result when a magnitude rounds past the largest finite number (R38): ieee requests IEEE overflow. -/
def Fmt.overflow (f : Fmt) (rm : Rm) (ieee neg : Bool) : Nat :=
  if !ieee then f.sign neg + f.maxFinite
  else if !f.ieee then f.qnan
  else
    let toInf := match rm with | .rn => true | .rz => false | .ru => !neg | .rd => neg
    f.sign neg + (if toInf then f.infinity else f.maxFinite)

/-- An exact number (−1)^neg · num / den · 2^e rounded once to a format (R37, R38). -/
def Fmt.round (f : Fmt) (rm : Rm) (ieee neg : Bool) (num den : Nat) (e : Int) : Nat :=
  if num = 0 then f.sign neg
  else
    let q := max (floorLog2 num den e - f.mbits) f.emin
    let x := (q - f.emin).toNat * 2 ^ f.mbits + roundUnits rm neg num den e q
    if f.maxFinite < x then f.overflow rm ieee neg else f.sign neg + x

/-- A value rounded to a format; an infinity meets a format without one as Table 2-6 gives. -/
def Fmt.ofValue (f : Fmt) (rm : Rm) (ieee : Bool) : FVal → Nat
  | .nan => f.qnan
  | .inf neg => if f.ieee then f.sign neg + f.infinity else f.overflow rm ieee neg
  | .fin neg m e => f.round rm ieee neg m 1 e

/-- Arithmetic rounding: to nearest even, IEEE overflow (R37). -/
def Fmt.rne (f : Fmt) (v : FVal) : Nat := f.ofValue .rn true v

/-! ### Exact operations -/

/-- The negated value; NaN stays NaN. -/
def FVal.neg : FVal → FVal
  | .nan => .nan
  | .inf s => .inf !s
  | .fin s m e => .fin (!s) m e

/-- The exact sum; an exact zero is +0 unless both addends are −0 (R177, R193). -/
def FVal.add : FVal → FVal → FVal
  | .nan, _ => .nan
  | _, .nan => .nan
  | .inf a, .inf b => if a = b then .inf a else .nan
  | .inf a, _ => .inf a
  | _, .inf b => .inf b
  | .fin sa ma ea, .fin sb mb eb =>
    let e := min ea eb
    let x : Int := (ma * 2 ^ (ea - e).toNat : Nat)
    let y : Int := (mb * 2 ^ (eb - e).toNat : Nat)
    let z := (if sa then -x else x) + (if sb then -y else y)
    if z = 0 then .fin (sa && sb) 0 e else .fin (decide (z < 0)) z.natAbs e

/-- The exact product. -/
def FVal.mul : FVal → FVal → FVal
  | .nan, _ => .nan
  | _, .nan => .nan
  | .inf a, .inf b => .inf (a != b)
  | .inf a, .fin s m _ => if m = 0 then .nan else .inf (a != s)
  | .fin s m _, .inf b => if m = 0 then .nan else .inf (s != b)
  | .fin sa ma ea, .fin sb mb eb => .fin (sa != sb) (ma * mb) (ea + eb)

/-- The quotient a / b rounded once to a format (R39, R177). -/
def Fmt.quotient (f : Fmt) (rm : Rm) (ieee : Bool) : FVal → FVal → Nat
  | .nan, _ => f.qnan
  | _, .nan => f.qnan
  | .inf _, .inf _ => f.qnan
  | .inf a, .fin s _ _ => f.ofValue rm ieee (.inf (a != s))
  | .fin s _ _, .inf b => f.sign (s != b)
  | .fin sa ma ea, .fin sb mb eb =>
    if mb = 0 then (if ma = 0 then f.qnan else f.ofValue rm ieee (.inf (sa != sb)))
    else f.round rm ieee (sa != sb) ma mb (ea - eb)

/-- Integer square root by n bits, high bit first. -/
def isqrtBits : Nat → Nat → Nat → Nat
  | 0, _, r => r
  | n + 1, x, r => let t := r + 2 ^ n; isqrtBits n x (if t * t ≤ x then t else r)

/-- floor(√x). -/
def isqrt (x : Nat) : Nat := isqrtBits (Nat.log2 x / 2 + 1) x 0

/-- The square root rounded once to a format (R177): the root of m · 2^e with 2 · p extra bits, and one more bit that
tells whether it is exact. -/
def Fmt.sqrt (f : Fmt) : FVal → Nat
  | .nan => f.qnan
  | .inf neg => if neg then f.qnan else f.infinity
  | .fin neg m e =>
    if m = 0 then f.sign neg
    else if neg then f.qnan
    else
      let p := 2 * (f.mbits + 4)
      let odd := e % 2 ≠ 0
      let x := (if odd then 2 * m else m) * 2 ^ (2 * p)
      let r := isqrt x
      let h := ((if odd then e - 1 else e) / 2) - p
      f.round .rn true false (2 * r + (if r * r = x then 0 else 1)) 1 (h - 1)

/-- Order of two values that are no NaN, −0 equal to +0: a < b. -/
def FVal.lt : FVal → FVal → Bool
  | .nan, _ => false
  | _, .nan => false
  | .inf a, .inf b => a && !b
  | .inf a, .fin _ _ _ => a
  | .fin _ _ _, .inf b => !b
  | .fin sa ma ea, .fin sb mb eb =>
    let e := min ea eb
    let x : Int := (ma * 2 ^ (ea - e).toNat : Nat)
    let y : Int := (mb * 2 ^ (eb - e).toNat : Nat)
    (if sa then -x else x) < (if sb then -y else y)

/-- The value is NaN. -/
def FVal.isNan : FVal → Bool
  | .nan => true
  | _ => false

/-- The value is an infinity. -/
def FVal.isInf : FVal → Bool
  | .inf _ => true
  | _ => false

/-- The value is ±0. -/
def FVal.isZero : FVal → Bool
  | .fin _ m _ => m == 0
  | _ => false

/-- The value's sign bit. -/
def FVal.isNeg : FVal → Bool
  | .nan => false
  | .inf s => s
  | .fin s _ _ => s

/-- The lesser of two patterns, −0 below +0, canonical NaN if either is NaN (R177, R193). -/
def Fmt.min (f : Fmt) (x y : Nat) : Nat :=
  let a := f.value x
  let b := f.value y
  if a.isNan || b.isNan then f.qnan
  else if a.lt b || (a.isZero && b.isZero && a.isNeg) then f.rne a else f.rne b

/-- The greater of two patterns, −0 below +0, canonical NaN if either is NaN. -/
def Fmt.max (f : Fmt) (x y : Nat) : Nat :=
  let a := f.value x
  let b := f.value y
  if a.isNan || b.isNan then f.qnan
  else if a.lt b || (a.isZero && b.isZero && a.isNeg) then f.rne b else f.rne a

/-- A floating-point condition of Table 9-3. -/
def fcondHolds (c : FCond) (a b : FVal) : Bool :=
  let un := a.isNan || b.isNan
  let eq := !un && !a.lt b && !b.lt a
  match c with
  | .eq => eq
  | .ne => !eq
  | .lt => !un && a.lt b
  | .le => !un && (a.lt b || eq)
  | .gt => !un && b.lt a
  | .ge => !un && (b.lt a || eq)
  | .un => un
  | .or => !un

/-! ### Conversion (R37, R38, Table 2-6) -/

/-- round(x, mode) of a finite value, as an integer. -/
def roundInt (rm : Rm) (neg : Bool) (m : Nat) (e : Int) : Int :=
  let q : Int := roundUnits rm neg m 1 e 0
  if neg then -q else q

/-- A value converted to an integer type: saturated, NaN gives 0. A value below the smallest step is rounded by the mode as any
other (R37; DESIGN CHOICE, log 104). -/
def intOfValue (t : Ty) (rm : Rm) : FVal → Nat
  | .nan => 0
  | .inf neg => patternOf t.bits (if neg then tyMin t else tyMax t)
  | .fin neg m e => satTy t (roundInt rm neg m e)

/-- The exact value of a pattern of type t. -/
def valueOf (t : Ty) (x : Nat) : FVal :=
  match fmtOf t with
  | some f => f.value x
  | none => let i := intOf t x; .fin (decide (i < 0)) i.natAbs 0

/-- cvt(x, t, mode, inf) as a pattern (Table 8-18). -/
def cvt (t : Ty) (rm : Rm) (ieee : Bool) (v : FVal) : Nat :=
  match fmtOf t with
  | some f => f.ofValue rm ieee v
  | none => intOfValue t rm v

/-- cvt(x / scale, t, mode, inf) with one rounding (R39). -/
def cvtScaled (t : Ty) (rm : Rm) (ieee : Bool) (v scale : FVal) : Nat :=
  match fmtOf t with
  | some f => f.quotient rm ieee v scale
  | none =>
    match v, scale with
    | .fin sa ma ea, .fin sb mb eb =>
      if mb = 0 then (if ma = 0 then 0 else intOfValue t rm (.inf (sa != sb)))
      else
        let neg := sa != sb
        let q : Int := roundUnits rm neg ma mb (ea - eb) 0
        satTy t (if neg then -q else q)
    | .inf a, .fin s _ _ => intOfValue t rm (.inf (a != s))
    | _, _ => 0

/-! ### Shared-exponent blocks (R31 to R34) -/

/-- Bits of a block with m magnitude bits. -/
def sbBits (m : Nat) : Nat := 16 + 16 * (m + 1)
/-- Bytes of a block (Table 2-2). -/
def sbBytes (m : Nat) : Nat := sbBits m / 8
/-- The canonical NaN block (R32). -/
def sbNan : Nat := 0xFF

/-- |x| < 2^k. -/
def FVal.magBelow (k : Int) : FVal → Bool
  | .nan => false
  | .inf _ => false
  | .fin _ m e => m = 0 || floorLog2 m 1 e < k

/-- One element at shared exponent e and micro-exponent mu: sign and magnitude, 2^m or more standing for overflow. -/
def sbQuant (m : Nat) (rm : Rm) (e mu : Nat) : FVal → Bool × Nat
  | .nan => (false, 0)
  | .inf neg => (neg, 2 ^ m)
  | .fin neg x k => (neg, roundUnits rm neg x 1 k ((e : Int) - 127 - mu - (m - 1)))

/-- A pair at shared exponent e: its micro-exponent and elements; the second try of R33 lowers μ. -/
def sbPair (m : Nat) (rm : Rm) (e : Nat) (x y : FVal) : Nat × (Bool × Nat) × (Bool × Nat) :=
  let mu := if x.magBelow ((e : Int) - 127) && y.magBelow ((e : Int) - 127) then 1 else 0
  let a := sbQuant m rm e mu x
  let b := sbQuant m rm e mu y
  if mu = 1 && (2 ^ m ≤ a.2 || 2 ^ m ≤ b.2) then (0, sbQuant m rm e 0 x, sbQuant m rm e 0 y)
  else (mu, a, b)

/-- The pairs of a block in order. -/
def sbPairs (m : Nat) (rm : Rm) (e : Nat) : List FVal → List (Nat × (Bool × Nat) × (Bool × Nat))
  | x :: y :: xs => sbPair m rm e x y :: sbPairs m rm e xs
  | _ => []

/-- Some magnitude does not fit m bits. -/
def sbOverflows (m : Nat) (ps : List (Nat × (Bool × Nat) × (Bool × Nat))) : Bool :=
  ps.any fun p => 2 ^ m ≤ p.2.1.2 || 2 ^ m ≤ p.2.2.2

/-- One element's bits, its magnitude saturated (R31). -/
def sbElemBits (m : Nat) (q : Bool × Nat) : Nat := Nat.min q.2 (2 ^ m - 1) + (if q.1 then 2 ^ m else 0)

/-- Micro-exponent bits of the pairs from pair i on. -/
def sbMuBits : Nat → List (Nat × (Bool × Nat) × (Bool × Nat)) → Nat
  | _, [] => 0
  | i, p :: ps => p.1 * 2 ^ i + sbMuBits (i + 1) ps

/-- Element bits of the pairs. -/
def sbElems (m : Nat) : List (Nat × (Bool × Nat) × (Bool × Nat)) → Nat
  | [] => 0
  | p :: ps => sbElemBits m p.2.1 + 2 ^ (m + 1) * (sbElemBits m p.2.2 + 2 ^ (m + 1) * sbElems m ps)

/-- A block from its shared exponent and pairs (Table 2-3). -/
def sbBlock (m e : Nat) (ps : List (Nat × (Bool × Nat) × (Bool × Nat))) : Nat :=
  e + 2 ^ 8 * sbMuBits 0 ps + 2 ^ 16 * sbElems m ps

/-- The block at shared exponent e or above: a carry raises E up to 0xFE, where it saturates or gives the NaN block
(R33). -/
def sbTry (m : Nat) (rm : Rm) (ovfNan : Bool) (xs : List FVal) : Nat → Nat → Nat
  | 0, e => sbBlock m e (sbPairs m rm e xs)
  | n + 1, e =>
    let ps := sbPairs m rm e xs
    if !sbOverflows m ps then sbBlock m e ps
    else if e < 0xFE then sbTry m rm ovfNan xs n (e + 1)
    else if ovfNan then sbNan
    else sbBlock m e ps

/-- The greater magnitude's floor(log2), among finite non-zero values. -/
def maxLog2 : List FVal → Option Int
  | [] => none
  | .fin _ m e :: xs =>
    if m = 0 then maxLog2 xs
    else match maxLog2 xs with
      | none => some (floorLog2 m 1 e)
      | some k => some (max k (floorLog2 m 1 e))
  | _ :: xs => maxLog2 xs

/-- sb_encode (R33): the block of sixteen exact values. -/
def sbEncode (m : Nat) (rm : Rm) (ovfNan : Bool) (xs : List FVal) : Nat :=
  if xs.any FVal.isNan then sbNan
  else if ovfNan && xs.any FVal.isInf then sbNan
  else
    let e := if xs.any FVal.isInf then 0xFE
      else match maxLog2 xs with
        | none => 0
        | some k => (clampInt (k + 127) 0 0xFE).toNat
    sbTry m rm ovfNan xs 255 e

/-- Sign and magnitude of element j of a block. -/
def sbElemOf (m b j : Nat) : Bool × Nat :=
  let x := bitsOf b (16 + (m + 1) * j) (m + 1)
  (decide (2 ^ m ≤ x), x % 2 ^ m)

/-- The value of an element from its block's E and μ and its own sign and magnitude (R31). -/
def sbValue (m e mu : Nat) (neg : Bool) (mag : Nat) : FVal :=
  if e = 0xFF then .nan else .fin neg mag ((e : Int) - 127 - mu - (m - 1))

/-- Element j of a block (R31). -/
def sbDecode (m b j : Nat) : FVal :=
  let q := sbElemOf m b j
  sbValue m (bitsOf b 0 8) (bitsOf b (8 + j / 2) 1) q.1 q.2

/-- The k-plane prefix value of element j, 1 ≤ k ≤ m + 1; mid adds half the first missing bit (R34). -/
def sbPrefix (m b j k : Nat) (mid : Bool) : FVal :=
  let q := sbElemOf m b j
  let keep := q.2 / 2 ^ (m + 1 - k) * 2 ^ (m + 1 - k)
  let twice := 2 * keep + (if mid && k ≤ m then 2 ^ (m - k) else 0)
  if bitsOf b 0 8 = 0xFF then .nan
  else .fin q.1 twice ((bitsOf b 0 8 : Int) - 127 - (bitsOf b (8 + j / 2) 1 : Nat) - (m - 1) - 1)

/-! ### The logical dot product (R40) -/

/-- |p| in units of 2^u, truncated toward zero, with p's sign. -/
def unitsOf (u : Int) : FVal → Int
  | .fin neg m e =>
    let q : Int := roundUnits .rz neg m 1 e u
    if neg then -q else q
  | _ => 0

/-- The sum of a group in units of 2^u. -/
def unitSum (u : Int) : List FVal → Int
  | [] => 0
  | p :: ps => unitsOf u p + unitSum u ps

/-- group_add: one group of at most sixteen exact products added to an FP32 accumulator pattern (R40). -/
def groupAdd (acc : Nat) (ps : List FVal) : Nat :=
  let special : FVal → Nat := fun g => Fmt.fp32.rne ((Fmt.fp32.value acc).add g)
  if ps.any FVal.isNan then special .nan
  else if ps.any (· == .inf false) && ps.any (· == .inf true) then special .nan
  else if ps.any (· == .inf false) then special (.inf false)
  else if ps.any (· == .inf true) then special (.inf true)
  else match maxLog2 ps with
    | none => acc
    | some k =>
      let u := k - 30
      let z := unitSum u ps
      if z = 0 then acc else special (.fin (decide (z < 0)) z.natAbs u)

/-! ### Fixed reduction trees (R42) -/

/-- A combination; an absent input passes the other unchanged. -/
def combine {α : Type} (op : α → α → α) : Option α → Option α → Option α
  | some a, some b => some (op a b)
  | some a, none => some a
  | none, b => b

/-- One level of the tree. -/
def treeLevel {α : Type} (op : α → α → α) : List (Option α) → List (Option α)
  | a :: b :: xs => combine op a b :: treeLevel op xs
  | [a] => [a]
  | [] => []

/-- The root of the tree over the leaves after n levels. -/
def treeRoot {α : Type} (op : α → α → α) : Nat → List (Option α) → Option α
  | _, [] => none
  | _, [a] => a
  | 0, a :: _ => a
  | n + 1, xs => treeRoot op n (treeLevel op xs)

/-- The fixed pairwise tree over the leaves; none when every leaf is absent. -/
def tree {α : Type} (op : α → α → α) (xs : List (Option α)) : Option α := treeRoot op xs.length xs

/-- Sum of two patterns of a format, rounded once. -/
def Fmt.sum (f : Fmt) (a b : Nat) : Nat := f.rne ((f.value a).add (f.value b))

/-- CRC-32C of one byte more, reflected polynomial 0x82F6_3B78 (R260), over the eight bits of the byte. -/
def crcBits : Nat → Nat → Nat
  | 0, c => c
  | n + 1, c => crcBits n (if c % 2 = 1 then (c / 2) ^^^ 0x82F63B78 else c / 2)

/-- The CRC register after the bytes bs. -/
def crcBytes (c : Nat) : List Byte → Nat
  | [] => c
  | b :: bs => crcBytes (crcBits 8 (c ^^^ b.toNat)) bs

/-- CRC-32C of a byte string (R260). -/
def crc32c (bs : List Byte) : Nat := crcBytes 0xFFFFFFFF bs ^^^ 0xFFFFFFFF

end Sys2Proof.Machine
end

