-- ==== Sys2Proof/Machine/Operands.lean ====
section
/-! DEFINITION. The operand forms: contexts, guards, reads of every register file as they stood before the bundle, and
delayed writes (R130, R132, R136, R159, R166). -/

namespace Sys2Proof.Machine

/-- What a step of the machine comes to. -/
abbrev Out := Host.Outcome State Fault Refusal

/-! ### Lists as sets -/

/-- The list with x in it once. -/
def insertOnce (x : Nat) (xs : List Nat) : List Nat := if x ∈ xs then xs else x :: xs

/-- The lists joined, each member once. -/
def insertAll (ys xs : List Nat) : List Nat := ys.foldl (fun acc y => insertOnce y acc) xs

/-! ### Contexts -/

/-- Context number n. -/
def State.ctxOf (s : State) (n : Nat) : Ctx := amGet Ctx.idle s.ctxs n

/-- The module with context n replaced. -/
def State.setCtxOf (s : State) (n : Nat) (c : Ctx) : State := { s with ctxs := amSet s.ctxs n c }

/-- The context whose bundle is in issue. -/
def State.ctx (s : State) : Ctx := s.ctxOf s.cur

/-- The module with that context replaced. -/
def State.setCtx (s : State) (c : Ctx) : State := s.setCtxOf s.cur c

/-- The module with that context's registers changed. -/
def State.modArch (s : State) (f : Arch → Arch) : State := s.setCtx { s.ctx with arch := f s.ctx.arch }

/-- Core of a context. -/
def coreOf (n : Nat) : Nat := n / 4
/-- Position of a context in its core (CTX). -/
def ctxInCore (n : Nat) : Nat := n % 4
/-- Ridge of a context, counted 13·die + ridge. -/
def ridgeOf (n : Nat) : Nat := n / 64
/-- Die of a context. -/
def dieOf (n : Nat) : Nat := n / 832

/-- Schedule clock of the context in issue (R128). -/
def State.now (s : State) : Nat := s.ctx.arch.sched

/-- Cycle at which an operation of latency l writes: c + l, or c + 1 in a canonical bundle (R130, R158). -/
def State.due (s : State) (l : Nat) : Nat := s.now + (if s.bundle.canonical then 1 else l)

/-- The w undefined bits that item reads (R130). -/
def State.undef (s : State) (w item : Nat) : BitVec w := BitVec.ofNat w (Config.undefinedBits s.tick s.cur item)

/-! ### Scalars, predicates, lane masks -/

/-- s48 to s63 name the handler bank in handler mode (R300). -/
def Ctx.bankS (c : Ctx) (n : SCode) : Bool := c.handler && 48 ≤ n.toNat

/-- p12 to p15 name the handler bank in handler mode (R300). -/
def Ctx.bankP (c : Ctx) (n : PCode) : Bool := c.handler && 12 ≤ n.toNat

/-- Poison mark of the register that scalar code n names: the handler bank has marks of its own (R65, R300). -/
def Ctx.markS (c : Ctx) (n : SCode) : Nat := if c.bankS n then 4096 + n.toNat else 392 + n.toNat

/-- Poison mark of predicate n. -/
def Ctx.markP (c : Ctx) (n : PCode) : Nat := if c.bankP n then 5016 + n.toNat else 5000 + n.toNat

/-- Poison mark of a register that an error names. -/
def sideMark : SideReg → Nat
  | .pred n => if n < 16 then 5000 + n else 5012 + n
  | .mask n => 5032 + n
  | .stream n => 5040 + n
  | .shape code => 5044 + code
  | .matrixParam n => 5060 + n
  | .latch => 5068
  | .codebook => 5069
  | .zbitmap => 5070
  | .microprogram => 5071
  | .ruleTable => 5072

/-- s[n]; s0 reads zero (R122). -/
def State.readS (s : State) (n : SCode) : Word :=
  if n = 0 then 0
  else if s.ctx.bankS n then s.ctx.hs.read n.toNat s.now (s.undef 64 n.toNat)
  else s.ctx.arch.s.read n.toNat s.now (s.undef 64 n.toNat)

/-- p[n]; p0 reads true (R122). -/
def State.readP (s : State) (n : PCode) : Bool :=
  if n = 0 then true
  else if s.ctx.bankP n then s.ctx.hp.read n.toNat s.now (s.undef 1 (64 + n.toNat)) = 1
  else s.ctx.arch.p.read n.toNat s.now (s.undef 1 (64 + n.toNat)) = 1

/-- m[n]; m0 reads all ones (R122). -/
def State.readM (s : State) (n : MCode) : Word :=
  if n = 0 then BitVec.allOnes 64 else s.ctx.arch.m.read n.toNat s.now (s.undef 64 (80 + n.toNat))

/-- guard: p[pred] XOR n (R159). -/
def State.guardOn (s : State) (g : Guard) : Bool := s.readP g.pred != g.neg

/-- s[n] holds x from the cycle due; a write to s0 is discarded (R122). -/
def State.putS (s : State) (n : SCode) (x : Word) (due : Nat) : State :=
  if n = 0 then s.modArch (·.reach due)
  else if s.ctx.bankS n then s.setCtx { s.ctx with hs := s.ctx.hs.write n.toNat (BitVec.allOnes 64) x due s.now }
  else s.modArch fun a => { a.reach due with s := a.s.write n.toNat (BitVec.allOnes 64) x due s.now }

/-- write(s[n], x, l). -/
def State.writeS (s : State) (n : SCode) (x : Word) (l : Nat) : State := s.putS n x (s.due l)

/-- write(p[n], x, 1); a write to p0 is discarded. -/
def State.writeP (s : State) (n : PCode) (x : Bool) : State :=
  if n = 0 then s.modArch (·.reach (s.due 1))
  else
    let b : BitVec 1 := if x then 1 else 0
    if s.ctx.bankP n then s.setCtx { s.ctx with hp := s.ctx.hp.write n.toNat 1 b (s.due 1) s.now }
    else s.modArch fun a => { a.reach (s.due 1) with p := a.p.write n.toNat 1 b (s.due 1) s.now }

/-- Bits mask of m[n] take x's bits after latency l, and the others keep theirs; the whole register is undefined until
then (R130, R188). A write to m0 is discarded. -/
def State.writeM (s : State) (n : MCode) (mask x : Word) (l : Nat) : State :=
  if n = 0 then s.modArch (·.reach (s.due l))
  else s.modArch fun a => { a.reach (s.due l) with
    m := a.m.write n.toNat (BitVec.allOnes 64) ((x &&& mask) ||| (s.readM n &&& ~~~mask)) (s.due l) s.now }

/-! ### Vectors and bypass names -/

/-- The field names a bypass (R136). -/
def isBypass (c : VCode) : Bool := 448 ≤ c.toNat

/-- The latest write to a bypass name whose result has started (R132, R137). -/
def lastStarted (name now : Nat) : List Bypass → Option Bypass
  | [] => none
  | b :: bs =>
    match lastStarted name now bs with
    | some x => some x
    | none => if b.name = name && b.start ≤ now then some b else none

/-- The value that a bypass name holds now: inside the window of its latest started write (R136, R137). -/
def State.bypassAt (s : State) (name : Nat) : Option VReg :=
  match lastStarted name s.now s.ctx.bypass with
  | some b => if s.now ≤ b.start + 3 then some b.data else none
  | none => none

/-- A read of this field raises no Bypass Window Fault (R137). -/
def State.vecReadable (s : State) (c : VCode) : Bool := !isBypass c || (s.bypassAt (c.toNat - 448)).isSome

/-- Register vn as it stood before the bundle. -/
def State.fileV (s : State) (n : Nat) : VReg := s.ctx.arch.v.read n s.now (s.undef 2048 (128 + n))

/-- V(f): the 256 bytes that vector field f reads (Table 8-18). -/
def State.readV (s : State) (c : VCode) : VReg :=
  if isBypass c then (s.bypassAt (c.toNat - 448)).getD 0 else s.fileV c.toNat

/-- What the lanes of a destination that an operation leaves hold: the register's earlier value, or zero for a
bypass name (Table 8-18). -/
def State.keptV (s : State) (c : VCode) : VReg := if isBypass c then 0 else s.fileV c.toNat

/-- Vector destination c holds x from the cycle due, or carries it as a bypass value (R130, R136). -/
def State.putV (s : State) (c : VCode) (x : VReg) (due : Nat) : State :=
  if isBypass c then
    s.setCtx { s.ctx with
      arch := s.ctx.arch.reach due
      bypass := s.ctx.bypass ++ [{ name := c.toNat - 448, data := x, start := due, issued := s.now }] }
  else s.modArch fun a => { a.reach due with
    v := a.v.write c.toNat (BitVec.allOnes 2048) x due s.now, zeroOff := insertOnce c.toNat a.zeroOff }

/-! ### Tile registers and accumulators -/

/-- Tile register tn as it stood before the bundle. -/
def State.readT (s : State) (n : TCode) : TReg := s.ctx.arch.t.read n.toNat s.now (s.undef 32768 (600 + n.toNat))

/-- Rows of a tile register that a byte mask touches, as zero-flag numbers (R62). -/
def rowsOf (n : Nat) (mask : TReg) : List Nat :=
  ((upto 64).filter fun r => bitsOf mask.toNat (512 * r) 512 ≠ 0).map fun r => 384 + 64 * n + r

/-- Bytes mask of tn take x's from the cycle due. -/
def State.putT (s : State) (n : TCode) (mask x : TReg) (due : Nat) : State :=
  s.modArch fun a => { a.reach due with
    t := a.t.write n.toNat mask x due s.now, zeroOff := insertAll (rowsOf n.toNat mask) a.zeroOff }

/-- Accumulator tile ai of the window. -/
def State.readAcc (s : State) (i : Nat) : ATile := s.ctx.arch.acc.settled i

/-- Accumulator tile ai holds x for the next bundle. -/
def State.putAcc (s : State) (i : Nat) (x : ATile) : State :=
  s.modArch fun a => { a with
    acc := a.acc.write i (BitVec.allOnes 8192) x (s.now + 1) s.now, zeroOff := insertOnce (896 + i) a.zeroOff }

/-! ### Journal (R140, R143) -/

/-- Journal entries that a write to vector register n takes. -/
def vecEntry (n : Nat) : Nat := n

/-- Journal entry of row group g of tile register n. -/
def rowEntry (n g : Nat) : Nat := 384 + 16 * n + g

/-- The span's vector-sized entries with these added; none past sixteen (R143). -/
def journalAddV (s : State) (es : List Nat) : Option State :=
  let j := insertAll es s.ctx.journalV
  if 16 < j.length then none else some (s.setCtx { s.ctx with journalV := j })

/-- The span's accumulator entries with these added; none past thirty-two (R143). -/
def journalAddA (s : State) (es : List Nat) : Option State :=
  let j := insertAll es s.ctx.journalA
  if 32 < j.length then none else some (s.setCtx { s.ctx with journalA := j })

end Sys2Proof.Machine
end

