-- ==== Sys2Proof/Machine/Tasks.lean ====
section
/-! DEFINITION. Performing stores in the module order with the stash lines they touch, timelines, ring entries, and the end of a task: completion,
release, containment (R78, R85, R86, R306, R307, R310). -/

namespace Sys2Proof.Machine

/-! ### Stores in the module order -/

/-- Physical ranges of Table 1-3. -/
inductive Range where
  | hbm | device | host | fabric | reserved
deriving DecidableEq, Repr

/-- The range of a physical address (R8). -/
def rangeOf (pa : Nat) : Range :=
  if pa < 2 ^ 40 then .hbm
  else if 0x100000000000 ≤ pa && pa < 0x100100000000 then .device
  else if 0x8000000000000 ≤ pa && pa < 0xC000000000000 then .host
  else if 0xC000000000000 ≤ pa && pa < 0x10000000000000 then .fabric
  else .reserved

/-- Module that a fabric-window address names. -/
def fabModule (pa : Nat) : Nat := bitsOf pa 40 10

/-- Where memory keeps an offset of a module's HBM: this module's own HBM, or the fabric window. -/
def fabHome (dest off : Nat) : Nat :=
  if dest = Config.moduleNumber.toNat then off else 0xC000000000000 + dest * 2 ^ 40 + off

/-- Where memory keeps a physical address (R8, R84). -/
def homePa (pa : Nat) : Nat := if rangeOf pa = .fabric then fabHome (fabModule pa) (bitsOf pa 0 40) else pa

/-- Cells outside the reserved ranges: a store to a reserved address makes no access (R8). -/
def inMap (cells : List (Nat × Byte)) : List (Nat × Byte) := cells.filter fun c => rangeOf c.1 ≠ .reserved

/-- Ranges of n1 bytes at a1 and n2 bytes at a2 meet. -/
def rangesMeet (a1 n1 a2 n2 : Nat) : Bool := a1 < a2 + n2 && a2 < a1 + n1

/-- A cell lies in one of the ranges that the context's later loads read. -/
def readsHit (c : Ctx) (cells : List (Nat × Byte)) : Bool :=
  c.spanReads.any fun r => r.2.2 && cells.any fun x => rangesMeet r.1 r.2.1 x.1 1

/-- Every context but the storing one notes a store to bytes that its span has read (R78). -/
def markStale (byCtx : Option Nat) (cells : List (Nat × Byte)) (cs : AMap Ctx) : AMap Ctx :=
  cs.map fun p => if byCtx = some p.1 then p else if readsHit p.2 cells then (p.1, { p.2 with spanStale := true }) else p

/-- Poisoned lines that the cells do not overwrite whole (R65). -/
def stillPoisoned (poison : List Nat) (cells : List (Nat × Byte)) : List Nat :=
  poison.filter fun l => !((upto 64).all fun b => cells.any fun x => x.1 == 64 * l + b)

/-- Physical lines that cells touch. -/
def cellLines (cells : List (Nat × Byte)) : List Nat := cells.foldl (fun acc c => insertOnce (c.1 / 64) acc) []

/-- A filling tile with every line present and no writer by name becomes ready (R53, Table 3-6). -/
def StashTile.settle (t : StashTile) : StashTile :=
  if t.state = .filling && t.present = BitVec.allOnes 64 && t.rule.isNone then { t with state := .ready } else t

/-- Lines that the cells cover whole. -/
def wholeLines (cells : List (Nat × Byte)) : List Nat :=
  (cellLines cells).filter fun l => (upto 64).all fun b => cells.any fun x => x.1 == 64 * l + b

/-- Line l of the tile after a store to it: by an access that the tile serves, present when the store covers it whole,
and dirty unless the task is phased (R53, R54, R110); its zero flag ends (R62). -/
def StashTile.stored (t : StashTile) (own dirty whole : Bool) (l : Nat) : StashTile :=
  let b : BitVec 64 := 1#64 <<< l
  if own then
    { t with present := if whole then t.present ||| b else t.present, dirty := if dirty then t.dirty ||| b else t.dirty,
             zero := t.zero &&& ~~~b }.settle
  else { t with zero := t.zero &&& ~~~b }

/-- Tile i of the module lies in the window of context d. -/
def inWindow (d : Ctx) (i : Nat) : Bool := d.swinBase ≤ i % 512 && i % 512 < d.swinBase + d.swinCount

/-- Tile i serves accesses by address of context n: a tile of an open task serves the open tasks of its core, a tile of
a phased task serves that task alone (R52, R110). -/
def servedBy (s : State) (n i : Nat) : Bool :=
  decide (i / 512 = coreOf n) &&
    (if (s.ctxOf n).phased then inWindow (s.ctxOf n) i
     else (upto 4).any fun k =>
       let d := s.ctxOf (4 * coreOf n + k)
       d.life ≠ .idle && !d.phased && inWindow d i)

/-- The tile maps the physical line; one mapped from a zero page maps no memory (R15). -/
def StashTile.maps (t : StashTile) (line : Nat) : Bool := t.state ≠ .empty && !t.zeroPage && t.pa == line / 64

/-- Stash tiles after a store of cells by an agent: byCtx the context, dirty false for a phased task. -/
def storedTiles (s : State) (byCtx : Option Nat) (dirty : Bool) (cells : List (Nat × Byte)) : AMap StashTile :=
  let lines := cellLines cells
  let whole := wholeLines cells
  s.stash.map fun p =>
    let own := match byCtx with | some n => servedBy s n p.1 | none => false
    (p.1, lines.foldl (fun t l => if t.maps l then t.stored own dirty (decide (l ∈ whole)) (l % 64) else t) p.2)

/-- A store performed: memory takes the cells at one point of the module order (R73), spans that read them note it
(R78), zero flags of the lines end (R62). -/
def State.perform (s : State) (byCtx : Option Nat) (cells : List (Nat × Byte)) : State :=
  { s with mem := memWriteCells s.mem cells, ctxs := markStale byCtx cells s.ctxs,
           stash := if s.stash.isEmpty then s.stash else storedTiles s byCtx true cells,
           history := (cells.map fun x => (x.1, memGet s.mem x.1)).reverse ++ s.history,
           poison := stillPoisoned s.poison cells,
           zeroLines := s.zeroLines.filter fun p => !(cells.any fun x => x.1 / 64 == p.2) }

/-- A context that runs its span under a hold holds every line the span reads (R78). -/
def holdsLine (c : Ctx) (cells : List (Nat × Byte)) : Bool :=
  decide (3 ≤ c.rollbacks) && c.spanReads.any fun r =>
    cells.any fun x => rangesMeet (r.1 / 64 * 64) ((r.1 + r.2.1 + 63) / 64 * 64 - r.1 / 64 * 64) x.1 1

/-- A store by this agent waits for a held span (R78): one of another context, which, when the storing context's
own span is held too, comes first in die, ridge, core and context order. -/
def State.storeHeld (s : State) (byCtx : Option Nat) (cells : List (Nat × Byte)) : Bool :=
  s.ctxs.any fun p =>
    holdsLine p.2 cells &&
      match byCtx with
      | none => true
      | some n => p.1 ≠ n && !(decide (3 ≤ (s.ctxOf n).rollbacks) && decide (n < p.1))

/-! ### Records and rings (R301, R306) -/

/-- Ring k's header: physical address of HEAD is 8 bytes on (R306). -/
def Ring.base (r : Ring) : Nat := bitsOf r.cfg.toNat 12 40 * 4096
/-- Ring k's entry count. -/
def Ring.size (r : Ring) : Nat := 2 ^ bitsOf r.cfg.toNat 0 5
/-- EN of ring k. -/
def Ring.enabled (r : Ring) : Bool := r.cfg.getLsbD 63

/-- The ring lies in another module's memory (R308). -/
def Ring.remote (r : Ring) : Bool := rangeOf r.base == .fabric

/-- The ring can take an entry: it is enabled, no record is ahead, and it is not full (R306, R307). -/
def Ring.open_ (r : Ring) (m : Memory) : Bool := r.enabled && r.tail - memNat m (homePa (r.base + 8)) 8 < r.size

/-- Where the next entry of the ring goes. -/
def Ring.place (r : Ring) : Nat := r.base + 256 * (1 + r.tail % r.size)

/-- The stores of one entry at TAIL, and of the advance of TAIL that follows them (R307); none to a reserved address
(R8). -/
def Ring.cells (r : Ring) (e : List Byte) : List (Nat × Byte) × List (Nat × Byte) :=
  (inMap (cellsAt r.place e), inMap (cellsAt r.base (leBytes 8 (r.tail + 1))))

/-- One entry written at TAIL, then TAIL advanced, each a store of the module order (R307). -/
def ringPut (s : State) (k : Nat) (r : Ring) (e : List Byte) : State :=
  let s1 := (s.perform none (r.cells e).1).perform none (r.cells e).2
  { s1 with rings := amSet s1.rings k { r with tail := r.tail + 1 } }

/-- The ring takes an entry now: its stores wait for no held span (R78), and it is this module's own. -/
def ringTakes (s : State) (r : Ring) (e : List Byte) : Bool :=
  !r.remote && r.open_ s.mem && !s.storeHeld none (r.cells e).1 && !s.storeHeld none (r.cells e).2

/-- Words laid out from offset 0 as bytes. -/
def wordsBytes (ws : List Nat) : List Byte := ws.flatMap (leBytes 8)

/-- bs with the word x at byte offset k. -/
def putWord (bs : List Byte) (k x : Nat) : List Byte := bs.take k ++ leBytes 8 x ++ bs.drop (k + 8)

/-- bs with byte x at offset k. -/
def putByte (bs : List Byte) (k x : Nat) : List Byte := bs.take k ++ leBytes 1 x ++ bs.drop (k + 1)

/-- sr.ctx as a handler reads it (Table 7-2). -/
def posWord (n : Nat) (gang : Bool) : Nat :=
  Config.moduleNumber.toNat * 2 ^ 16 + gang.toNat * 2 ^ 13 + dieOf n * 2 ^ 10 + ridgeOf n % 13 * 2 ^ 6
    + coreOf n % 16 * 4 + ctxInCore n

/-- sr.tlh of a slot (Table 5-2). -/
def handleOf (s : State) (slot : Nat) : Nat := (amGet TSlot.free s.slots slot).gen.toNat * 2 ^ 32 + slot

/-- A ring entry (Table 15-7). -/
def ringEntry (s : State) (n cause orig : Nat) (epc fault : Word) (record : List Byte) : List Byte :=
  let c := s.ctxOf n
  wordsBytes [c.arch.asid.toNat * 2 ^ 48 + cause % 256 * 2 ^ 40 + orig % 256 * 2 ^ 32 + c.task % 2 ^ 32,
              posWord n c.gang, epc.toNat, fault.toNat, handleOf s c.slot, 0, 0, 0]
    ++ record.take 128 ++ List.replicate 64 0

/-- A ring entry about an access of no context: only its ASID and cause stand beside the record. -/
def bareEntry (asid cause : Nat) (record : List Byte) : List Byte :=
  wordsBytes [asid * 2 ^ 48 + cause % 256 * 2 ^ 40, 0, 0, 0, 0, 0, 0, 0] ++ record.take 128 ++ List.replicate 64 0

/-- Ring that records of an ASID go to (R306): a nibble of the steering table. -/
def ringOf (s : State) (asid : Nat) : Nat :=
  bitsOf (amGet 0 s.steer (asid % 256 / 16)).toNat (4 * (asid % 16)) 4

/-- No link toward a module remains (R105); a module has 32 links (R1). -/
def cutOff (s : State) (dest : Nat) : Bool := decide (dest ∈ s.fabric.unreachable) || decide (32 ≤ s.fabric.failedLinks.length)

/-- A record that ring k holds is counted for management: its code is reserved, its EN clear, or no link to its module
remains (R306, R308). -/
def ringCounts (s : State) (k : Nat) (r : Ring) : Bool :=
  decide (8 < k) || !r.enabled || (r.remote && cutOff s (fabModule r.base))

/-- An entry forwarded under R306: written when the ring takes it, sent when the ring lies in another module (R308), else
held in order; the answer tells whether it is held. resume: the launch and task whose context resumes when it has been delivered (R303). -/
def forwardEntry (s : State) (asid : Nat) (e : List Byte) (resume : Option (Nat × Nat) := none) : State × Bool :=
  let k := ringOf s asid
  let r := amGet Ring.reset s.rings k
  if k ≤ 8 && r.held.isEmpty && ringTakes s r e then (ringPut s k r e, false)
  else if k ≤ 8 && r.held.isEmpty && r.remote && r.open_ s.mem && !cutOff s (fabModule r.base) then
    ({ s with rings := amSet s.rings k { r with held := [{ bytes := e, resume := none }] } }, false)
  else
    ({ s with rings := amSet s.rings k { r with held := r.held ++ [{ bytes := e, resume := resume }] },
              counted := if ringCounts s k r then amMod 0 s.counted 2 (· + 1) else s.counted }, true)

/-- The record of a cause without a layout of its own (R301, R302): words 0x20 to 0x30 in extra. -/
def plainRecord (asid cause slot : Nat) (bva fault epc : Nat) (extra : List Nat) : List Byte :=
  let ws := [asid * 2 ^ 48 + cause * 2 ^ 40 + slot * 2 ^ 32, bva, fault, epc] ++ extra
  wordsBytes (ws ++ List.replicate (16 - ws.length) 0)

/-! ### Timelines (R85, R86) -/

/-- The counter moved over the completed prefix. -/
def Timeline.settle : Nat → Timeline → Timeline
  | 0, t => t
  | n + 1, t => if t.count + 1 ∈ t.done then
      Timeline.settle n { t with count := t.count + 1, done := t.done.filter (· ≠ t.count + 1) } else t

/-- Command n of the engine context has completed. -/
def Timeline.complete (t : Timeline) (n : Nat) : Timeline :=
  let t1 := { t with done := insertOnce n t.done }
  t1.settle t1.done.length

/-- The timeline of engine context eng of a slot. -/
def State.timeline (s : State) (slot eng : Nat) : Timeline :=
  amGet Timeline.zero (amGet TSlot.free s.slots slot).eng eng

/-- That timeline replaced. -/
def State.setTimeline (s : State) (slot eng : Nat) (t : Timeline) : State :=
  { s with slots := amMod TSlot.free s.slots slot fun x => { x with eng := amSet x.eng eng t } }

/-- ENG of a handle. -/
def hEng (h : Word) : Nat := bitsOf h.toNat 40 4
/-- GEN of a handle. -/
def hGen (h : Word) : Nat := bitsOf h.toNat 32 8
/-- SLOT of a handle. -/
def hSlot (h : Word) : Nat := bitsOf h.toNat 0 13

/-- GEN differs from the slot's: the named task has ended (R88). -/
def handleEnded (s : State) (h : Word) : Bool := (amGet TSlot.free s.slots (hSlot h)).gen.toNat ≠ hGen h

/-- A wait for n on handle h would complete (R88). -/
def waitMet (s : State) (h : Word) (n : Nat) : Bool :=
  handleEnded s h || decide (n ≤ (s.timeline (hSlot h) (hEng h)).count)

/-- Events in the event queue: what it has no place for stays at its source, and enters in order as places come free
(R345). -/
def FrontEnd.settle (f : FrontEnd) : FrontEnd :=
  let n := 1024 - f.events.length
  { f with events := f.events ++ f.heldEvents.take n, heldEvents := f.heldEvents.drop n }

/-- Events that arrive at the front end, in order. -/
def FrontEnd.post (f : FrontEnd) (es : List FeEvent) : FrontEnd := { f with heldEvents := f.heldEvents ++ es }.settle

/-- The progress that a queue's blocked wait waits for has come (R88, R345). -/
def cqProgress (s : State) (c : CmdQueue) : Bool := match c.waiting with | some w => waitMet s w.1 w.2 | none => false

/-- Queues of the front end whose waits complete hear of the progress (R345). -/
def noteProgress (s : State) : State :=
  { s with front := s.front.post ((s.cqs.filter fun p => cqProgress s p.2).map fun p => .progress p.1),
           cqs := s.cqs.map fun p => (p.1, if cqProgress s p.2 then { p.2 with waiting := none } else p.2) }

/-- Completion of command num of engine context eng of a slot. -/
def timelineComplete (s : State) (slot eng num : Nat) : State :=
  noteProgress (s.setTimeline slot eng ((s.timeline slot eng).complete num))

/-- The engine context takes its next number (R85). -/
def takeNumber (s : State) (slot eng : Nat) : Nat × State :=
  let t := s.timeline slot eng
  (t.issued + 1, s.setTimeline slot eng { t with issued := t.issued + 1 })

/-- A free timeline slot, the lowest (R86, R87; DESIGN CHOICE, log 9). -/
def freeSlot (s : State) : Option Nat := (upto 6144).find? fun k => !(amGet TSlot.free s.slots k).held

/-- Count of free slots (R87). -/
def freeSlotCount (s : State) : Nat := 6144 - (s.slots.filter fun p => p.2.held).length

/-- Slot k taken: counters zero; its GEN stands. -/
def holdSlot (s : State) (k : Nat) : State :=
  { s with slots := amMod TSlot.free s.slots k fun x => { held := true, gen := x.gen, eng := [] } }

/-! ### Launches -/

/-- Timeline slot of a launcher. -/
def Launcher.slot : Launcher → Nat
  | .task _ _ slot _ => slot
  | .front _ slot _ => slot

/-- Number of the launch on its launcher's engine context 5. -/
def Launcher.num : Launcher → Nat
  | .task _ _ _ num => num
  | .front _ _ num => num

/-- The launches of a launcher whose slot k is released: their numbers are no later holder's (R85). -/
def orphaned (k : Nat) (ls : AMap Launch) : AMap Launch :=
  ls.map fun p => (p.1, if p.2.launcher.slot = k then { p.2 with orphan := true } else p.2)

/-- Slot k released: GEN advances before it is used again (R86). A handle of a slot that no one holds and whose GEN is
the slot's reads the counters of the last holder, 0 if there was none: R88 names no such handle (DESIGN CHOICE,
log 86). -/
def releaseSlot (s : State) (k : Nat) : State :=
  noteProgress { s with slots := amMod TSlot.free s.slots k fun x => { held := false, gen := x.gen + 1, eng := x.eng },
                        launches := orphaned k s.launches }

/-- A launch that lists nothing: what an unlisted number reads as. -/
def Launch.none : Launch :=
  { record := [], va := 0, launcher := .front 0 0 0, depth := 0, queue := 0, part := 0, prio := 0, asid := 0, ttb := 0,
    tasks := [], started := false, failed := false, complete := true, sched := [], snap := [], snapZero := [], phase := 0, orphan := false }

/-- Launch number n. -/
def State.launchOf (s : State) (n : Nat) : Launch := amGet Launch.none s.launches n

/-- Launch n changed. -/
def State.modLaunch (s : State) (n : Nat) (f : Launch → Launch) : State :=
  { s with launches := amMod Launch.none s.launches n f }

/-- The 8-byte word at byte offset k of a launch record. -/
def recWord (r : List Byte) (k : Nat) : Nat := leNat ((r.drop k).take 8)

/-- COUNT of level N (Table 7-3). -/
def levelCount (r : List Byte) (n : Nat) : Nat := bitsOf (recWord r (0x40 + 16 * n)) 0 32
/-- DOMAIN of level N. -/
def levelDomain (r : List Byte) (n : Nat) : Nat := bitsOf (recWord r (0x40 + 16 * n)) 32 4
/-- SCOPE of level N. -/
def levelScope (r : List Byte) (n : Nat) : Nat := bitsOf (recWord r (0x40 + 16 * n)) 36 3
/-- GANG of level N. -/
def levelGang (r : List Byte) (n : Nat) : Bool := bitsOf (recWord r (0x40 + 16 * n)) 39 1 == 1
/-- POLICY of level N: 0 ignore, 1 retry, 2 kill self, 3 kill parent. -/
def levelPolicy (r : List Byte) (n : Nat) : Nat := bitsOf (recWord r (0x40 + 16 * n)) 40 2

/-- Levels of the hierarchy: the first level with COUNT zero ends it (R124). -/
def levelsIn (r : List Byte) : Nat → Nat → Nat
  | 0, n => n
  | k + 1, n => if levelCount r n = 0 then n else levelsIn r k (n + 1)

/-- Number of levels. -/
def levelTotal (r : List Byte) : Nat := levelsIn r 8 0

/-- The launch is phased (Table 14-1). -/
def recPhased (r : List Byte) : Bool := bitsOf (recWord r 0x08) 47 1 == 1

/-- A task has ended. -/
def TaskState.ended : TaskState → Bool
  | .halted => true
  | .failed => true
  | _ => false

/-- The task's entry changed. -/
def modTask (l : Launch) (id : Nat) (f : TaskRec → TaskRec) : Launch :=
  { l with tasks := l.tasks.map fun t => if t.id = id then f t else t }

/-- Barriers that the launch owned return to the device operating system (R280, R281). -/
def freeBarriers (s : State) (id : Nat) : State :=
  { s with barriers := s.barriers.map fun p => if p.2.owner = some id then (p.1, Barrier.unowned) else p }

/-- A launch by the task that holds this timeline slot has not completed. -/
def launchesOpen (s : State) (slot : Nat) : Bool :=
  s.launches.any fun p => !p.2.complete && p.2.launcher.slot == slot && !p.2.orphan

/-- Number under which the port keeps requests whose task has ended: no context's. -/
def noAgent : Nat := 2 ^ 30 - 1

/-- The requests of context n are no later task's (R105). -/
def disown (n : Nat) (os : List FabOut) : List FabOut := os.map fun o => if o.ctx = n then { o with ctx := noAgent } else o

/-- The context waits at no token queue any more (R102). -/
def leaveQueues (n : Nat) (ts : AMap TokenQueue) : AMap TokenQueue :=
  ts.map fun p => (p.1, { p.2 with pushers := p.2.pushers.filter (·.2 ≠ n), poppers := p.2.poppers.filter (·.2 ≠ n) })

/-- The context holds no task any more: its stash window is empty, its slot released (R55, R86). -/
def releaseCtx (s : State) (n : Nat) : State :=
  let c := s.ctxOf n
  let base := 512 * coreOf n + c.swinBase
  let s1 := { s with stash := s.stash.filter fun p => !(base ≤ p.1 && p.1 < base + c.swinCount),
                     fabric := { s.fabric with out := disown n s.fabric.out }, tokens := leaveQueues n s.tokens }
  (releaseSlot s1 c.slot).setCtxOf n Ctx.idle

/-- Contexts whose stopped task has no command left are released, with their slots (R310). -/
def releaseEnded (s : State) : State :=
  ((s.ctxs.filter fun p => p.2.life = .ending).map Prod.fst).foldl (fun s n =>
    let c := s.ctxOf n
    if c.life = .ending && c.cmds.isEmpty && !launchesOpen s c.slot then releaseCtx s n else s) s

/-- The launch's command on engine context 5 completes, once, unless its launcher's slot has passed on (R85, R86,
R91). -/
def launchComplete (s : State) (id : Nat) : State :=
  let l := s.launchOf id
  if l.complete then s
  else
    let s1 := freeBarriers (s.modLaunch id fun l => { l with complete := true, snap := [], snapZero := [] }) id
    let slot := l.launcher.slot
    let s2 := if l.orphan then s1 else timelineComplete s1 slot 5 l.launcher.num
    releaseEnded s2

/-- The launch completes when all its tasks have ended; a phased task ends after the merge of its last phase (R106,
R276). -/
def launchCheck (s : State) (id : Nat) : State :=
  if (s.launchOf id).tasks.all (fun t => t.state.ended) then launchComplete s id else s

/-- Number under which the table of contexts holds the saved context of an image. -/
def savedKey (im : Nat) : Nat := 2 ^ 20 + im

/-- The event that moves a command on. -/
def cmdEvent (n : Nat) (k : Cmd) : List Instr :=
  match k.eng with
  | 0 => [.copyPoint n k.num]
  | 1 => [.nestPoint n k.num]
  | _ => []

/-- Events that bring the commands of a restored or stopped context on. -/
def resumeEvents (n : Nat) (c : Ctx) : List Instr :=
  (c.cmds.flatMap fun k =>
    if 2 ≤ k.eng then []
    else if !k.accepted then [Instr.engineCommandAccept n k.eng k.num] else if k.paused then [] else cmdEvent n k)
  ++ c.spill.head?.toList.map fun w => Instr.spillReplay n w.1

/-- The commands of a saved context, whose task ends, retried: none of them stays paused, since no store names a saved
context (R309, R310). -/
def Ctx.unpaused (c : Ctx) : Ctx := { c with cmds := c.cmds.map fun k => { k with paused := false } }

/-- The task of context n stops by containment: its span is dropped, its write set discarded, and its engine commands
run on, those of a saved context too; the context is released once they have completed (R310). -/
def stopCtx (s : State) (n : Nat) : State :=
  let c := if n < 2 ^ 20 then s.ctxOf n else (s.ctxOf n).unpaused
  let c1 := { c with arch := c.ckpt, withheld := [], landings := [], bypass := [], spanReads := [],
                     spanStale := false, journalV := [], journalA := [], handler := false, parked := false,
                     wait := .none, writeSet := [], life := .ending, preempt := none, reserved := none,
                     blocked := false, tokenWait := none, accFill := [], accMove := [], callEnd := 0 }
  let s0 := { s with tokens := leaveQueues n s.tokens,
                     work := if n < 2 ^ 20 then s.work else s.work ++ resumeEvents n c }
  let s1 := s0.setCtxOf n c1
  if c.cmds.isEmpty && !launchesOpen s1 c.slot then releaseCtx s1 n else s1

/-- Tasks of the launch that satisfy p stop; each gets the state st. -/
def stopTasks (s : State) (id : Nat) (p : TaskRec → Bool) (st : TaskState) : State :=
  let l := s.launchOf id
  let ts := l.tasks.filter fun t => p t && !t.state.ended
  let s1 := ts.foldl (fun s t =>
    match t.state with
    | .placed n => stopCtx s n
    | .saved im =>
      let s2 := { s with images := amDel s.images im,
                         queues := s.queues.map fun q => (q.1, { q.2 with items := q.2.items.filter (· ≠ .image im) }) }
      stopCtx s2 (savedKey im)
    | _ => s) s
  s1.modLaunch id fun l => { l with
    tasks := l.tasks.map fun t => if p t && !t.state.ended then { t with state := st } else t }

/-- Level at which the policies of levels N onward decide; none when the fault passes to the launcher (R310). -/
def decideLevel (r : List Byte) : Nat → Nat → Option Nat
  | 0, _ => none
  | k + 1, n => if levelPolicy r n = 3 then decideLevel r k (n + 1) else some n

/-- An item put at the head of a queue; an empty queue's time without service counts from now (R284). -/
def LaunchQueue.push (q : LaunchQueue) (i : QItem) (now : Nat) : LaunchQueue :=
  { q with items := i :: q.items, since := if q.items.isEmpty then now else q.since }

/-- One task of the launch put back to be placed afresh, its launch at the head of its queue (R126, R310). -/
def relaunchTask (s : State) (id task : Nat) : State :=
  let s1 := s.modLaunch id fun l => modTask l task fun t => { t with retries := t.retries + 1, state := .unplaced }
  let q := (s.launchOf id).queue
  { s1 with queues := amMod LaunchQueue.reset s1.queues q fun x =>
      if QItem.launch id ∈ x.items then x else x.push (.launch id) s.wall }

/-- Containment of a fault of task id of launch lid (R310), with the launchers it has passed; entry is the ring entry
of the original fault, whose record takes the deciding level and the passes. -/
def containFrom : Nat → State → Nat → Nat → Nat → Nat → List Byte → State
  | 0, s, _, _, _, _, _ => s
  | fuel + 1, s, lid, task, passes, asid, entry =>
    let l := s.launchOf lid
    let me := l.tasks.find? fun t => t.id = task
    let retries := match me with | some t => t.retries | none => 0
    let coords := match me with | some t => t.coords | none => []
    let finish := fun (s : State) (level : Nat) =>
      (forwardEntry s asid (putByte (putByte entry (0x40 + 0x7E) passes) (0x40 + 0x7F) level)).1
    match decideLevel l.record (levelTotal l.record) 0 with
    | some k =>
      let pol := levelPolicy l.record k
      if pol = 1 && retries < 3 then
        finish (relaunchTask (stopTasks s lid (fun t => t.id = task) .failed) lid task) k
      else if pol = 0 then finish (launchCheck (stopTasks s lid (fun t => t.id = task) .halted) lid) k
      else
        let s1 := stopTasks s lid (fun t => t.coords.drop k == coords.drop k) .failed
        finish (launchCheck (s1.modLaunch lid fun l => { l with failed := true }) lid) k
    | none =>
      let s1 := stopTasks s lid (fun _ => true) .failed
      let s2 := launchComplete (s1.modLaunch lid fun l => { l with failed := true }) lid
      match l.launcher with
      | .front _ _ _ => finish s2 0xFF
      | .task m j _ _ =>
        if (s2.launchOf m).tasks.any fun t => t.id = j && !t.state.ended then
          containFrom fuel s2 m j (passes + 1) asid entry
        else finish s2 0xFF

/-- Containment of a fault of context n with its cause, sr.fault and record (R310). A launch depth of at most 4 bounds
the launchers. -/
def contain (s : State) (n cause : Nat) (fault : Word) (record : List Byte) : State :=
  let c := s.ctxOf n
  containFrom 8 s c.launch c.task 0 c.arch.asid.toNat (ringEntry s n cause 0 c.arch.epc fault record)

end Sys2Proof.Machine
end

