-- ==== Sys2Proof/Machine/Mmu.lean ====
section
/-! DEFINITION. Translation: the walk, the page checks, the accessed and dirty bits, cached translations, the fault
record (R6 to R25). -/

namespace Sys2Proof.Machine

/-- Access classes as fault records number them (Table 1-8). -/
inductive Access where
  | scalarLoad | scalarStore | vectorLoad | vectorStore | atomic | reduction | stashFill | stashBack | fetch | engine
deriving DecidableEq, Repr

/-- CLASS of Table 1-8. -/
def Access.code : Access → Nat
  | .scalarLoad => 0 | .scalarStore => 1 | .vectorLoad => 2 | .vectorStore => 3 | .atomic => 4 | .reduction => 5
  | .stashFill => 6 | .stashBack => 7 | .fetch => 8 | .engine => 9

/-- The kind of a leaf entry; the other codes are reserved. -/
def kindOf (e : Nat) : Option PageKind :=
  match bitsOf e 13 3 with
  | 0 => some .coherent | 1 => some .memorySide | 2 => some .device | 3 => some .zero | _ => none

/-- Address bits that a walk level indexes: lowest bit and width (Table 1-4). -/
def levelIndex : Nat → Nat × Nat
  | 0 => (55, 9) | 1 => (42, 13) | 2 => (29, 13) | _ => (16, 13)

/-- The format checks of one entry (R12): the reason it fails, if any. A level-2 zero-page leaf with ADDR bits [28:16]
set fails by R12, while R15 has the ADDR field of such a leaf ignored: the model takes R12's check (DESIGN CHOICE,
log 87). -/
def entryFault (level e : Nat) : Option Nat :=
  let leaf := bitsOf e 1 1 == 1
  if bitsOf e 0 1 = 0 then some 0
  else if bitsOf e 60 4 ≠ 0 || bitsOf e 52 4 ≠ 0 then some 5
  else if !leaf && bitsOf e 2 14 ≠ 0 then some 5
  else if leaf && (bitsOf e 2 4 ≠ 0 || (kindOf e).isNone) then some 5
  else if leaf && level < 2 then some 5
  else if !leaf && level = 3 then some 5
  else if !leaf && rangeOf (bitsOf e 16 36 * 65536) ≠ .hbm then some 5
  else if leaf && level = 2 && bitsOf e 16 13 ≠ 0 then some 6
  else if leaf && kindOf e = some .zero && bitsOf e 11 1 = 1 then some 5
  else none

/-- A leaf as a walk or a cached entry yields it. -/
structure Leaf where
  entry : Nat
  level : Nat
  /-- Where the entry lies in memory. -/
  addr : Nat
deriving DecidableEq, Repr

/-- The walk from a table at level (R10, R12): the leaf, or the reason and the level. A poisoned entry fails with
reason 5 (R66), and an entry at a reserved address is not read (R8; its level: DESIGN CHOICE, log 88). fuel bounds the
levels. -/
def walkFrom (m : Memory) (poison : List Nat) (va : Nat) : Nat → Nat → Nat → Except (Nat × Nat) Leaf
  | 0, level, _ => .error (5, level)
  | fuel + 1, level, table =>
    let ix := levelIndex level
    let addr := table + 8 * bitsOf va ix.1 ix.2
    let e := memNat m addr 8
    if rangeOf addr = .reserved then .error (8, level)
    else if addr / 64 ∈ poison then .error (5, level)
    else match entryFault level e with
      | some r => .error (r, level)
      | none =>
        if bitsOf e 1 1 = 1 then .ok { entry := e, level := level, addr := addr }
        else walkFrom m poison va fuel (level + 1) (bitsOf e 16 36 * 65536)

/-- The four-level walk of an address. -/
def walk (m : Memory) (poison : List Nat) (ttb va : Nat) : Except (Nat × Nat) Leaf := walkFrom m poison va 4 0 ttb

/-- The level and the address of the last entry that a walk reads. -/
def walkEnd (m : Memory) (poison : List Nat) (va : Nat) : Nat → Nat → Nat → Option (Nat × Nat)
  | 0, _, _ => none
  | fuel + 1, level, table =>
    let ix := levelIndex level
    let addr := table + 8 * bitsOf va ix.1 ix.2
    let e := memNat m addr 8
    if rangeOf addr = .reserved then none
    else if addr / 64 ∈ poison || (entryFault level e).isSome || bitsOf e 1 1 = 1 then some (level, addr)
    else walkEnd m poison va fuel (level + 1) (bitsOf e 16 36 * 65536)

/-- What translates: the address space, the table, the rights and the mode of the access. -/
structure Xlat where
  asid : BitVec 16
  ttb : Nat
  /-- A trap handler or a service core (R14). -/
  handler : Bool
  phased : Bool
  /-- Holder of the caches used: a context, or none. -/
  ctx : Option Nat
deriving DecidableEq, Repr

/-- The access class is admitted by the page kind (Table 1-6); merge: a merge-add of a phased task (R112). -/
def kindAdmits (x : Xlat) (cls : Access) (write merge : Bool) (e : Nat) : Bool :=
  let k := kindOf e
  let ph := bitsOf e 12 1 == 1
  if merge then k = some .memorySide && ph
  else
    let base := match cls, k with
      | _, none => false
      | .scalarLoad, _ => true
      | .scalarStore, _ => true
      | .vectorLoad, some .device => false
      | .vectorLoad, _ => true
      | .vectorStore, some .device => false
      | .vectorStore, _ => true
      | .stashFill, k => k = some .coherent || k = some .zero
      | .stashBack, k => k = some .coherent
      | .atomic, k => k = some .coherent || k = some .memorySide || k = some .zero
      | .reduction, k => k = some .memorySide
      | .engine, some .device => false
      | .engine, _ => true
      | .fetch, k => k = some .coherent
    base && !(write && x.phased && !(ph && (k = some .coherent || k = some .memorySide)))

/-- The physical address that a leaf gives an address. -/
def leafPa (l : Leaf) (va : Nat) : Nat :=
  if l.level = 2 then bitsOf l.entry 29 23 * 2 ^ 29 + va % 2 ^ 29 else bitsOf l.entry 16 36 * 65536 + va % 65536

/-- The checks of R14 and R8 on a leaf in their fixed order 9, 7, 3, 4, 2, 8. A write of a phased task to the host or
fabric window fails with reason 7 (R113). -/
def leafFault (x : Xlat) (cls : Access) (write merge : Bool) (l : Leaf) (va : Nat) : Option Nat :=
  let e := l.entry
  let zero := kindOf e = some .zero
  let r := rangeOf (leafPa l va)
  if bitsOf e 6 1 = 1 && !x.handler then some 9
  else if !kindAdmits x cls write merge e then some 7
  else if write && x.phased && !zero && (r = .host || r = .fabric) then some 7
  else if cls = .fetch && bitsOf e 11 1 = 0 then some 3
  else if (write || cls = .atomic) && zero then some 4
  else if write && bitsOf e 10 1 = 0 then some 2
  else if !zero && r = .reserved then some 8
  else none

/-! ### Cached translations (R16, R17, R22) -/

/-- The entry answers for the address: same ASID or global leaf, and the address lies in what it covers. -/
def TlbEntry.hits (t : TlbEntry) (asid : BitVec 16) (va : Nat) : Bool :=
  (t.asid = asid || (t.leaf && t.entry.getLsbD 9)) && t.vpn = va / 2 ^ (levelIndex t.level).1

/-- A leaf that a structure holds for the address: kind 0 the core's, 1 the ridge's (R17). -/
def cachedIn (s : State) (kind holder : Nat) (asid : BitVec 16) (va : Nat) : Option Leaf :=
  match s.tlb.find? fun t => t.leaf && t.kind = kind && t.holder = holder && t.hits asid va with
  | some t => some { entry := t.entry.toNat, level := t.level, addr := t.pa }
  | none => none

/-- A leaf that the core or the ridge of context n holds, the core's before the ridge's (R17). -/
def cachedLeaf (s : State) (n : Nat) (asid : BitVec 16) (va : Nat) : Option Leaf :=
  match cachedIn s 0 (coreOf n) asid va with
  | some l => some l
  | none => cachedIn s 1 (ridgeOf n) asid va

/-- The deepest non-leaf entry that the die holds: the level to go on at and its table. -/
def cachedUpper (s : State) (n : Nat) (asid : BitVec 16) (va : Nat) : Option (Nat × Nat) :=
  let hits := s.tlb.filter fun t => !t.leaf && t.kind = 2 && t.holder = dieOf n && t.hits asid va
  [2, 1, 0].findSome? fun lv => (hits.find? fun t => t.level = lv).map fun t =>
    (lv + 1, bitsOf t.entry.toNat 16 36 * 65536)

/-- Non-leaf entries that a walk from a table at level reads on an address's path: level, address, entry. -/
def pathEntries (m : Memory) (va : Nat) : Nat → Nat → Nat → List (Nat × Nat × Nat)
  | 0, _, _ => []
  | fuel + 1, level, table =>
    let ix := levelIndex level
    let addr := table + 8 * bitsOf va ix.1 ix.2
    let e := memNat m addr 8
    if (entryFault level e).isSome || bitsOf e 1 1 = 1 then []
    else (level, addr, e) :: pathEntries m va fuel (level + 1) (bitsOf e 16 36 * 65536)

/-- An entry that a structure keeps for an address. -/
def tlbEntry (kind holder : Nat) (asid : BitVec 16) (leaf : Bool) (level va e addr : Nat) : TlbEntry :=
  { kind := kind, holder := holder, asid := asid, leaf := leaf, level := level, vpn := va / 2 ^ (levelIndex level).1,
    entry := BitVec.ofNat 64 e, pa := addr }

/-- Set of a ridge cache that holds an entry: 256 sets of 8 ways. -/
def TlbEntry.set (t : TlbEntry) : Nat := Config.tlbSet t.asid.toNat t.level t.vpn % 256

/-- Two entries that compete for one place: of one structure and, in a ridge cache, of one set (Table 1-7). -/
def TlbEntry.rivals (t u : TlbEntry) : Bool :=
  u.kind = t.kind && u.holder = t.holder && (t.kind ≠ 1 || u.set = t.set)

/-- Entries that compete with an entry may number this many: 64 of a core, 8 of a set, 512 of a die (Table 1-7). -/
def TlbEntry.ways (t : TlbEntry) : Nat := if t.kind = 0 then 64 else if t.kind = 1 then 8 else 512

/-- The list without the k-th of the entries that satisfy p. -/
def dropNth (p : TlbEntry → Bool) : Nat → List TlbEntry → List TlbEntry
  | _, [] => []
  | k, t :: ts => if p t then (match k with | 0 => ts | k + 1 => t :: dropNth p k ts) else t :: dropNth p k ts

/-- An entry kept by a structure, in place of an equal older one; when its places are full another gives way, and which
one is open (R16, DESIGN CHOICE, log 10). -/
def tlbAdd (tick : Nat) (ts : List TlbEntry) (t : TlbEntry) : List TlbEntry :=
  let rest := ts.filter fun u =>
    !(u.kind = t.kind && u.holder = t.holder && u.asid = t.asid && u.leaf = t.leaf && u.level = t.level && u.vpn = t.vpn)
  let n := (rest.filter t.rivals).length
  t :: (if t.ways ≤ n then dropNth t.rivals (Config.tlbVictim tick n % n) rest else rest)

/-- Where a walk of context n for an address starts: at a cached upper entry or at the root. -/
def walkStart (s : State) (n : Nat) (x : Xlat) (va : Nat) : Nat × Nat := (cachedUpper s n x.asid va).getD (0, x.ttb)

/-- The structures after a translation of context n: a leaf of the ridge's comes to the core's too; a walk's leaf to
both, and the entries that it read to the die's (R16, R17, R22). walked: a walk was made. -/
def tlbFill (s : State) (n : Nat) (x : Xlat) (walked : Bool) (va : Nat) (l : Leaf) : State :=
  let mk := fun (kind holder : Nat) => tlbEntry kind holder x.asid true l.level va l.entry l.addr
  if walked then
    let st := walkStart s n x va
    let ups := (pathEntries s.mem va 4 st.1 st.2).map fun p => tlbEntry 2 (dieOf n) x.asid false p.1 va p.2.2 p.2.1
    { s with tlb := ups.foldl (tlbAdd s.tick) (tlbAdd s.tick (tlbAdd s.tick s.tlb (mk 0 (coreOf n))) (mk 1 (ridgeOf n))) }
  else if (cachedIn s 0 (coreOf n) x.asid va).isSome then s
  else { s with tlb := tlbAdd s.tick s.tlb (mk 0 (coreOf n)) }

/-- A and D set in the leaf by an atomic OR where they are clear (R13). The bits that count are those of the word that
stands at the entry's address, also for a cached leaf whose word has been changed without a tinv: R13 does not say which
copy decides (DESIGN CHOICE, log 89). -/
def setAD (s : State) (l : Leaf) (write : Bool) : State :=
  let e := memNat s.mem l.addr 8
  let want := if write then 0x180 else 0x100
  if e &&& want = want then s
  else s.perform none (cellsAt l.addr (leBytes 8 (e ||| want)))

/-- A translation of context n needs a walk: no structure holds the leaf, or a write finds it with D clear (R13). -/
def walks (s : State) (n : Nat) (x : Xlat) (va : Nat) (write : Bool) : Bool :=
  match cachedLeaf s n x.asid va with
  | some l => write && bitsOf l.entry 10 1 = 1 && bitsOf l.entry 7 1 = 0
  | none => true

/-- Leaf of an address for a translation context: a cached leaf, or a walk from a cached upper entry or from the
root. A write to a cached page with D clear walks afresh (R13). -/
def findLeaf (s : State) (x : Xlat) (va : Nat) (write : Bool) : Except (Nat × Nat) Leaf :=
  match x.ctx with
  | none => walk s.mem s.poison x.ttb va
  | some n =>
    let fresh := walkFrom s.mem s.poison va 4 (walkStart s n x va).1 (walkStart s n x va).2
    if walks s n x va write then fresh
    else match cachedLeaf s n x.asid va with
      | some l => .ok l
      | none => fresh

/-- A translated address: the physical address and whether the page reads as zeros (R15). -/
structure Phys where
  pa : Nat
  kind : PageKind
deriving DecidableEq, Repr

/-- translate(va, class) of one page (R13, R14): the physical address with A and D set, or reason and level. -/
def translate (s : State) (x : Xlat) (cls : Access) (write merge : Bool) (va : Nat) :
    Except (Nat × Nat) (Phys × State) :=
  match findLeaf s x va write with
  | .error f => .error f
  | .ok l =>
    match leafFault x cls write merge l va with
    | some r => .error (r, 15)
    | none =>
      let s1 := setAD s l write
      let l1 : Leaf := { l with entry := l.entry ||| (if write then 0x180 else 0x100) }
      let s2 := match x.ctx with | some n => tlbFill s1 n x (walks s n x va write) va l1 | none => s1
      .ok ({ pa := leafPa l va, kind := (kindOf l.entry).getD .coherent }, s2)

/-- Translation context of a context's own accesses (R7); handlers have their rights (R300). A handler of a phased task
makes its accesses as the task's own: R300 lists what differs in handler mode and phased accesses are not in the list
(DEDUCED, log 90). -/
def ctxXlat (s : State) (n : Nat) : Xlat :=
  let c := s.ctxOf n
  { asid := c.arch.asid, ttb := bitsOf c.arch.ttb.toNat 12 40 * 4096, handler := c.handler, phased := c.phased,
    ctx := some n }

/-! ### Several pages of one instruction (R19, R20) -/

/-- Pages of 64 KiB that n bytes from va touch, with the lane that touches them; addresses wrap at 2^64. -/
def touched (va n lane : Nat) : List (Nat × Nat) :=
  let last := (va + (n - 1)) % 2 ^ 64
  if va / 65536 = last / 65536 then [(va / 65536, lane)] else [(va / 65536, lane), (last / 65536, lane)]

/-- Pages in ascending order of the lowest lane that touches them, each once. -/
def distinctPages : List (Nat × Nat) → List (Nat × Nat) → List (Nat × Nat)
  | [], acc => acc.reverse
  | p :: ps, acc => if acc.any (fun q => q.1 = p.1) then distinctPages ps acc else distinctPages ps (p :: acc)

/-- The last entry that a walk for the translation context reads, from where it starts. -/
def walkLast (s : State) (x : Xlat) (va : Nat) : Option (Nat × Nat) :=
  let st := match x.ctx with | some n => walkStart s n x va | none => (0, x.ttb)
  walkEnd s.mem s.poison va 4 st.1 st.2

/-- A walk that reads a poisoned entry forwards a ring entry (R66); its record names no slot (DESIGN CHOICE, log 29). -/
def noteWalkPoison (s : State) (x : Xlat) (va : Nat) : State :=
  match walkLast s x va with
  | none => s
  | some p =>
    if p.2 / 64 ∈ s.poison then
      (forwardEntry s x.asid.toNat
        (bareEntry x.asid.toNat 0x20 (plainRecord x.asid.toNat 0x20 0xF 0 0 0 [p.2 / 64 * 64, 0, 0]))).1
    else s

/-- A level-2 leaf in memory, whatever its other fields: V and L set, in a line that is not poisoned. -/
def largeLeaf (s : State) (p : Nat × Nat) : Bool := p.1 == 2 && p.2 / 64 ∉ s.poison && memNat s.mem p.2 8 % 4 == 3

/-- The failing page is one of 512 MiB: the check after the walk failed on a level-2 leaf, or the walk on the format of
one. -/
def largeFault (s : State) (x : Xlat) (va : Nat) (write : Bool) (f : Nat × Nat) : Bool :=
  if f.2 = 15 then (match findLeaf s x va write with | .ok l => l.level == 2 | .error _ => false)
  else match walkLast s x va with | some p => largeLeaf s p | none => false

/-- Every page translated; the pages that translate, by page number, and those that fail, a large page once (R19,
R20). -/
def translatePages (s : State) (x : Xlat) (cls : Access) (write merge : Bool) :
    List (Nat × Nat) → List (Nat × Phys) → List PageFault → State × List (Nat × Phys) × List PageFault
  | [], ok, bad => (s, ok, bad.reverse)
  | p :: ps, ok, bad =>
    match translate s x cls write merge (p.1 * 65536) with
    | .ok r => translatePages r.2 x cls write merge ps ((p.1, r.1) :: ok) bad
    | .error f =>
      let s1 := if f.1 = 5 then noteWalkPoison s x (p.1 * 65536) else s
      if largeFault s x (p.1 * 65536) write f && bad.any fun q => q.page / 8192 == p.1 / 8192 then
        translatePages s1 x cls write merge ps ok bad
      else translatePages s1 x cls write merge ps ok ({ page := p.1, reason := f.1, level := f.2, lane := p.2 } :: bad)

/-- Physical address of a byte from the translated pages. -/
def physOf (pages : List (Nat × Phys)) (va : Nat) : Phys :=
  match pages.find? fun p => p.1 = va / 65536 with
  | some p => { p.2 with pa := p.2.pa + va % 65536 }
  | none => { pa := va, kind := .coherent }

/-- One entry of a fault record (Table 1-8). -/
def PageFault.word (f : PageFault) : Nat :=
  f.page % 2 ^ 48 * 65536 + f.reason * 2 ^ 12 + f.level * 2 ^ 8 + f.lane % 256

/-- The fault record of R20 (Table 1-8); number: the command's timeline number in an engine record. -/
def faultRecord (asid cls slot bva : Nat) (fs : List PageFault) (number : Nat) : List Byte :=
  let es := (fs.take 8).map PageFault.word
  let w0 := asid * 2 ^ 48 + 0x10 * 2 ^ 40 + cls * 2 ^ 36 + slot * 2 ^ 32 + es.length * 16
    + (if 8 < fs.length then 8 else 0)
  wordsBytes ([w0, bva] ++ es ++ List.replicate (8 - es.length) 0 ++ [number, 0, 0, 0, 0, 0])

/-! ### Invalidation (R22, R23) -/

/-- Contexts in the scope of the issuing context: 1 core, 2 ridge, 3 die, 4 module. -/
def inScope (n scope : Nat) (t : TlbEntry) : Bool :=
  match scope with
  | 1 => t.kind = 0 && t.holder = coreOf n
  | 2 => (t.kind = 0 && t.holder / 16 = ridgeOf n) || (t.kind = 1 && t.holder = ridgeOf n)
  | 3 => (t.kind = 0 && t.holder / 208 = dieOf n) || (t.kind = 1 && t.holder / 13 = dieOf n)
      || (t.kind = 2 && t.holder = dieOf n)
  | _ => true

/-- tinv.page drops the entry (R23). -/
def dropsPage (va : Nat) (asid : BitVec 16) (t : TlbEntry) : Bool := t.hits asid va

/-- tinv.asid drops the entry: its ASID, and no entry with G = 1 (R23). -/
def dropsAsid (asid : BitVec 16) (t : TlbEntry) : Bool := t.asid = asid && !(t.leaf && t.entry.getLsbD 9)

/-- Physical ranges, base and size, of the leaves in scope that p names (R24). -/
def droppedRanges (s : State) (n scope : Nat) (p : TlbEntry → Bool) : List (Nat × Nat) :=
  (s.tlb.filter fun t => t.leaf && inScope n scope t && p t).map fun t =>
    if t.level = 2 then (bitsOf t.entry.toNat 29 23 * 2 ^ 29, 2 ^ 29) else (bitsOf t.entry.toNat 16 36 * 65536, 65536)

/-- Entries in scope that p names are dropped. -/
def tlbDrop (s : State) (n scope : Nat) (p : TlbEntry → Bool) : State :=
  { s with tlb := s.tlb.filter fun t => !(inScope n scope t && p t) }

end Sys2Proof.Machine
end

