-- ==== Sys2Proof/Machine/Ops.lean ====
section
/-! DEFINITION. Taking a trap, returning from one, and the named operations that every meaning is built of: guarded
execution, the memory a context sees, loads, withheld stores, writes with their journal entries. -/

namespace Sys2Proof.Machine

/-! ### Traps (R297 to R305) -/

/-- A trap without a layout of its own. -/
def plainTrap (cause slot : Nat) (fault bva : Word) : Trap :=
  { cause := cause, slot := slot, fault := fault, bva := bva, pages := none, extra := [] }

/-- Causes whose route is containment (Table 15-1). -/
def routeContain (cause : Nat) : Bool := cause = 0x13 || cause = 0x1A || cause = 0x1F

/-- The record of a trap (R301, R302). -/
def Trap.record (t : Trap) (asid : Nat) (epc : Word) : List Byte :=
  match t.pages with
  | some p => faultRecord asid p.1 t.slot t.bva.toNat p.2 0
  | none => plainRecord asid t.cause t.slot t.bva.toNat t.fault.toNat epc.toNat t.extra

/-- The context at its last checkpoint, with everything of the span discarded (R141), and nothing that a handler bundle
wrote to its bank (R304). A landing that the checkpoint counts as made still waits for its data. A request of pre-emption
waits for the next safe bundle (R146, R311). -/
def Ctx.rollback (c : Ctx) : Ctx :=
  { c with arch := c.ckpt, withheld := [], bypass := [], spanReads := [], spanStale := false,
           landings := (c.landings.filter fun l => c.ckpt.awaits l.id).map fun l => { l with due := c.ckpt.sched },
           journalV := [], journalA := [], accFill := [], accMove := [], reserved := none, blocked := false,
           waitPhase := none, tokenWait := none, resolved := [], checked := [], ctl := 0, softTrap := none, callEnd := 0, hs := c.hs.settle,
           hp := c.hp.settle, atSafe := false, blockedSafe := false }

/-- Resume address: bits [63:6] (Table 15-3). -/
def resumePc (pc : Word) : Word := pc &&& ~~~63#64

/-- The context enters handler mode: saved cause, epc and fault, the record kept, the next bundle at entry. -/
def Ctx.enterHandler (c : Ctx) (t : Trap) (entry : Word) (record : List Byte) : Ctx :=
  { c with handler := true, hpc := resumePc entry, hxfer := { delay := 0, target := none }, tretting := false,
           cause := BitVec.ofNat 64 t.cause, fault := t.fault, record := record }

/-- The sixteen contexts of the gang of context n, rank 0 first. -/
def gangOf (n : Nat) : List Nat := (upto 16).map fun k => ridgeOf n * 64 + 4 * k

/-- Contexts whose bundles issue and commit with this one's: the ranks of its gang. -/
def matesOf (s : State) (n : Nat) : List Nat := if (s.ctxOf n).gang && !(s.ctxOf n).handler then gangOf n else [n]

/-- Every context of a gang parks (R305). -/
def parkGang (s : State) (n : Nat) : State :=
  if (s.ctxOf n).gang then
    (gangOf n).foldl (fun s k => s.setCtxOf k { s.ctxOf k with handler := false, parked := true, wait := .none }) s
  else s

/-- A trap in handler mode: the context parks, with sr.cause 0x21 and ORIG, a gang whole, and one entry is forwarded
(R304, R305). -/
def doubleFault (s : State) (n : Nat) (t : Trap) : State :=
  let c := s.ctxOf n
  let orig := c.cause.toNat % 256
  let epc := c.ckpt.epc
  let rec2 := putWord (putWord (putWord c.record 0x60 t.cause) 0x68 t.fault.toNat) 0x70 t.bva.toNat
  let c1 := { c.rollback with handler := false, parked := true, wait := .none, cause := BitVec.ofNat 64 (0x21 + 256 * orig) }
  let s1 := parkGang (s.setCtxOf n c1) n
  (forwardEntry s1 c1.arch.asid.toNat (ringEntry s1 n 0x21 orig epc c.fault rec2)).1

/-- sr.epc set to the resume address, in the state and in the checkpoint (R299). -/
def Ctx.withEpc (c : Ctx) : Ctx :=
  { c with arch := { c.arch with epc := resumePc c.arch.pc }, ckpt := { c.ckpt with epc := resumePc c.arch.pc } }

/-- The other ranks of a gang roll back and wait; they take Gang Hold (R149, R305). A fault that goes straight to
containment parks them, those whose handlers run too. -/
def gangHold (s : State) (n cause : Nat) : State :=
  (gangOf n).foldl (fun s k =>
    let c := s.ctxOf k
    let c1 := c.rollback.withEpc
    if k = n || !c.gang then s
    else if c.handler then
      (if routeContain cause then s.setCtxOf k { c with handler := false, parked := true, wait := .none } else s)
    else if routeContain cause then
      s.setCtxOf k { c1 with wait := .none, parked := true, cause := BitVec.ofNat 64 (0x22 + 256 * cause) }
    else s.setCtxOf k { c1 with wait := .gangHold, cause := BitVec.ofNat 64 (0x22 + 256 * cause) }) s

/-- The other ranks of a gang as a fault on rank n leaves them. -/
def holdRanks (s : State) (n cause : Nat) : State := if (s.ctxOf n).gang then gangHold s n cause else s

/-- A fault that passes straight to containment (R305, R310). -/
def takeContained (s : State) (n : Nat) (t : Trap) : State :=
  let c := (s.ctxOf n).rollback
  let a := { c.arch with epc := resumePc c.arch.pc }
  let c1 := { c with arch := a, wait := .none, handler := false, parked := false, cause := BitVec.ofNat 64 t.cause,
                     fault := t.fault }
  contain ((holdRanks s n t.cause).setCtxOf n c1) n t.cause t.fault (t.record c.arch.asid.toNat a.epc)

/-- Taking a trap (R297 to R305). The context rolls back to its last checkpoint; for a trap taken after its bundle's
commit that checkpoint is the bundle's own. Then it enters handler mode at TRAPENT with the record stored at
RECBASE + 128·CTX (none at a reserved address, R8), or passes to containment, or, when a handler bundle raised it,
parks; a Watchdog Expiry is not raised by a bundle (R290, R304). -/
def takeTrapOf (s : State) (n : Nat) (t : Trap) : State :=
  if (s.ctxOf n).handler && t.cause ≠ 0x13 then doubleFault s n t
  else if routeContain t.cause then takeContained s n t
  else
    let c := { (s.ctxOf n).rollback with wait := .none }
    let record := t.record c.arch.asid.toNat (resumePc c.arch.pc)
    let k := amGet Core.reset s.cores (coreOf n)
    let s1 := (holdRanks s n t.cause).setCtxOf n (c.withEpc.enterHandler t k.trapent record)
    s1.perform none (inMap (cellsAt (k.recbase.toNat + 128 * ctxInCore n) record))

/-- A trap of the bundle in issue. -/
def takeTrap (s : State) (t : Trap) : State :=
  { takeTrapOf s s.cur t with issue := .trapped t.cause t.fault, raised := some t }

/-- The task goes on at sr.epc in the state that the handler leaves, which is its checkpoint (R183, R303). -/
def Ctx.resumeTask (c : Ctx) : Ctx :=
  let a := { c.arch.flush with pc := resumePc c.arch.epc }
  { c with arch := a, ckpt := a, handler := false, parked := false, tretting := false, journalV := [], journalA := [],
           spanReads := [], spanStale := false, rollbacks := 0, bypass := [], atSafe := false }

/-- The return at the end of tret's delay bundles (R183). -/
def returnFromTrap (s : State) (n : Nat) : State :=
  let s1 := s.setCtxOf n (s.ctxOf n).resumeTask
  if (s.ctxOf n).gang && !((gangOf n).any fun k => (s1.ctxOf k).handler || (s1.ctxOf k).parked) then
    (gangOf n).foldl (fun s k => let c := s.ctxOf k
                                 s.setCtxOf k { c with wait := if c.wait = .gangHold then .none else c.wait }) s1
  else s1

/-! ### Outcomes of one operation -/

/-- The bundle's trap with this cause, slot and sr.fault. -/
def trapNow (s : State) (sl : Nat) (cause : Nat) (fault : Word) : Out :=
  .next (takeTrap s (plainTrap cause sl fault s.bundle.addr))

/-- An Illegal Operation (R164, Table 8-15). -/
def illegal (s : State) (sl reason : Nat) : Out := trapNow s sl 0x01 (BitVec.ofNat 64 (reason * 256 + sl))

/-- A Privileged Operation (R164). -/
def privileged (s : State) (sl : Nat) : Out := trapNow s sl 0x02 (BitVec.ofNat 64 sl)

/-- A Translation Fault of the bundle (R19). -/
def pageFaultNow (s : State) (sl : Nat) (cls : Access) (fs : List PageFault) : Out :=
  .next (takeTrap s { cause := 0x10, slot := sl, fault := 0, bva := s.bundle.addr, pages := some (cls.code, fs),
                      extra := [] })

/-- The bundle blocks and the core rotates (R129). -/
def blockNow (s : State) : Out := .next { s with issue := .blocked }

/-- The bundle waits on the brake line (R135). -/
def brakeNow (s : State) : Out := .next { s with issue := .braked }

/-- The bundle waits on the brake line for a stash or accumulator tile (R60, R135). -/
def interlockNow (s : State) : Out := .next { s with issue := .interlocked }

/-- An operation whose guard is false does nothing more (R159, R168). -/
def guarded (g : Guard) (s : State) (k : Out) : Out := if s.guardOn g then k else .next s

/-- The bundle may run privileged operations: handler mode (R300). -/
def State.isHandler (s : State) : Bool := s.ctx.handler

/-- A read outside its bypass window traps (R137). -/
def withVecs (s : State) (sl : Nat) (cs : List VCode) (k : Out) : Out :=
  if cs.all s.vecReadable then k else trapNow s sl 0x14 0

/-- Poisoned registers among those named raise a Machine Check (R65). They lie in no physical line: sr.fault is 0 (DESIGN CHOICE,
log 123). -/
def poisonFree (s : State) (sl : Nat) (rs : List Nat) (k : Out) : Out :=
  if rs.any (· ∈ s.ctx.arch.poison) then trapNow s sl 0x20 0 else k

/-- Reads of scalar registers: poison checked (R65). -/
def readingS (s : State) (sl : Nat) (rs : List SCode) (k : Out) : Out :=
  poisonFree s sl (rs.map s.ctx.markS) k

/-- Vector fields as poison numbers. -/
def vecPoison (cs : List VCode) : List Nat := (cs.filter fun c => !isBypass c).map BitVec.toNat

/-- Reads of vector fields: windows and poison checked (R65, R137). -/
def readingV (s : State) (sl : Nat) (cs : List VCode) (k : Out) : Out :=
  withVecs s sl cs (poisonFree s sl (vecPoison cs) k)

/-- Poison marks of registers that are written anew cleared. -/
def clearPoison (s : State) (rs : List Nat) : State :=
  if s.ctx.arch.poison.isEmpty then s
  else s.modArch fun a => { a with poison := a.poison.filter fun r => !(r ∈ rs) }

/-- write(s[n], x, l) as the end of an operation. -/
def finishS (s : State) (n : SCode) (x : Word) (l : Nat) : Out := .next ((clearPoison s [s.ctx.markS n]).writeS n x l)

/-- Vector destination c holds x from the cycle due, its journal entry taken (R130, R140, R143). A write of the whole
register ends its poison (R65). -/
def storeV (s : State) (sl : Nat) (c : VCode) (whole : Bool) (x : VReg) (due : Nat) : Out :=
  if isBypass c then .next (s.putV c x due)
  else match journalAddV s [vecEntry c.toNat] with
    | none => trapNow s sl 0x15 0
    | some s1 => .next ((if whole then clearPoison s1 [c.toNat] else s1).putV c x due)

/-- write(vd, x, l) with the lanes of type t that mask m leaves (R188). -/
def writeV (s : State) (sl : Nat) (c : VCode) (t : Ty) (m : MCode) (x : VReg) (l : Nat) : Out :=
  storeV s sl c (s.readM m == BitVec.allOnes 64) (mergeLanes t (s.readM m) (s.keptV c) x) (s.due l)

/-- Consecutive vector registers from c on hold xs from the cycle due; whole: every lane of them is written. -/
def storeGroup (s : State) (sl : Nat) (c : VCode) (whole : Bool) (xs : List VReg) (due : Nat) : Out :=
  match journalAddV s ((upto xs.length).map fun i => vecEntry (c.toNat + i)) with
  | none => trapNow s sl 0x15 0
  | some s1 =>
    .next (xs.zipIdx.foldl (fun s p => (if whole then clearPoison s [c.toNat + p.2] else s).putV (c + BitVec.ofNat 9 p.2) p.1 due) s1)

/-- Bytes mask of tile register t hold x's from the cycle due; row groups gs take journal entries (R140). -/
def storeT (s : State) (sl : Nat) (t : TCode) (gs : List Nat) (mask x : TReg) (due : Nat) : Out :=
  match journalAddV s (gs.map (rowEntry t.toNat)) with
  | none => trapNow s sl 0x15 0
  | some s1 => .next (s1.putT t mask x due)

/-! ### Atomic arithmetic (R269) -/

/-- The new value of an atomic; op counts from aadd, and 8 is the FP32 add. -/
def atomicNew (op : Nat) (ty : ATy) (old x cmp : Nat) : Nat :=
  let w := 8 * ty.bytes
  let a := old % 2 ^ w
  let b := x % 2 ^ w
  let less := if ty.signed then decide (signedOf w a < signedOf w b) else decide (a < b)
  match op with
  | 0 => (a + b) % 2 ^ w
  | 1 => a &&& b
  | 2 => a ||| b
  | 3 => a ^^^ b
  | 4 => if less then a else b
  | 5 => if less then b else a
  | 6 => b
  | 7 => if a = cmp % 2 ^ w then b else a
  | _ => Fmt.fp32.sum a b

/-- extend(old, TYPE): by sign for .s, by zeros otherwise. -/
def atomicExtend (ty : ATy) (old : Nat) : Word :=
  if ty.signed then sext64 (8 * ty.bytes) old else zext64 (8 * ty.bytes) old

/-! ### The memory a context sees (R77, R109) -/

/-- Memory with the plain bytes of one write-set entry. -/
def WLine.overlay (m : Memory) (w : WLine) : Memory :=
  if w.kind = .plain then
    memWriteCells m (((upto 64).filter fun b => w.mask.getLsbD b).map fun b => (64 * w.line + b, byteOf w.data b))
  else m

/-- Memory with one withheld operation made. -/
def WithheldOp.overlay (m : Memory) : WithheldOp → Memory
  | .store cells => memWriteCells m (cells.map fun c => (homePa c.1, c.2))
  | .zeroLine pa _ => memWrite m (homePa pa) (List.replicate 64 0)
  | .atomic op ty pa x =>
    memWrite m (homePa pa) (leBytes ty.bytes (atomicNew op ty (memNat m (homePa pa) ty.bytes) x.toNat 0))
  | .mergeAdd _ _ _ => m
  | .arrive _ => m
  | .drop _ => m

/-- Memory as context n has it without its withheld stores: the snapshot with its write set when it is phased (R109,
R110). -/
def baseMem (s : State) (n : Nat) : Memory :=
  let c := s.ctxOf n
  if c.phased then c.writeSet.foldl WLine.overlay (s.launchOf c.launch).snap else s.mem

/-- Memory as loads of context n see it: the snapshot with the write set for a phased task (R109), then the context's
own withheld stores (R77). -/
def viewMem (s : State) (n : Nat) : Memory :=
  (s.ctxOf n).withheld.foldl WithheldOp.overlay (baseMem s n)

/-- Memory beyond HBM as loads of context n see it: current, with the context's own withheld stores. -/
def viewFar (s : State) (n : Nat) : Memory := (s.ctxOf n).withheld.foldl WithheldOp.overlay s.mem

/-- The byte at a translated address as context n loads it from its view near of memory; a zero page reads as zeros
(R15). -/
def viewByte (s : State) (n : Nat) (near : Memory) (p : Phys) : Byte :=
  if p.kind = .zero then 0
  else if p.pa < 2 ^ 40 then memGet near p.pa
  else if rangeOf p.pa = .device then s.undef 8 (3000 + p.pa % 4096)
  else memGet (viewFar s n) (homePa p.pa)

/-- The bytes at translated addresses as context n loads them. -/
def viewPhys (s : State) (n : Nat) (ps : List Phys) : List Byte :=
  let near := viewMem s n
  ps.map (viewByte s n near)

/-- The virtual addresses of len bytes from va, modulo 2^64. -/
def addrsFrom (va len : Nat) : List Nat := (upto len).map fun i => (va + i) % 2 ^ 64

/-- The bytes at virtual addresses as context n loads them. -/
def viewBytes (s : State) (n : Nat) (pages : List (Nat × Phys)) (vas : List Nat) : List Byte :=
  viewPhys s n (vas.map (physOf pages))

/-- Physical lines of the bytes that are not on zero pages. -/
def linesOf (pages : List (Nat × Phys)) (vas : List Nat) : List Nat :=
  vas.foldl (fun acc va =>
    let p := physOf pages va
    if p.kind = .zero then acc else insertOnce (homePa p.pa / 64) acc) []

/-- A load is recorded for the validation of its span (R78). -/
def noteRead (s : State) (ranges : List (Nat × Nat)) : State :=
  let c := s.ctx
  s.setCtx { c with spanReads := ranges.map (fun r => (r.1, r.2, !c.withheld.isEmpty)) ++ c.spanReads }

/-! ### Loads (R203 to R205) -/

/-- An element access: its virtual address, its size in bytes, the lane it counts as. -/
structure Elem where
  va : Nat
  n : Nat
  lane : Nat
deriving DecidableEq, Repr

/-- Elements whose address breaks the alignment u, the first one's lane (R204). -/
def misaligned (u : Nat) (es : List Elem) : Option Nat := (es.find? fun e => e.va % u ≠ 0).map Elem.lane

/-- Pages of the elements in lane order (R20). -/
def pagesOf (es : List Elem) : List (Nat × Nat) := distinctPages (es.flatMap fun e => touched e.va e.n e.lane) []

/-- An Alignment Fault with ELEM (Table 10-5). -/
def alignFault (s : State) (sl lane : Nat) : Out := trapNow s sl 0x11 (BitVec.ofNat 64 (lane * 256 + sl))

/-- Alignment, then every page, then the access (R19, R204): k gets the state with A and D set and the pages. -/
def accessing (s : State) (sl : Nat) (cls : Access) (write merge : Bool) (u : Nat) (es : List Elem)
    (k : State → List (Nat × Phys) → Out) : Out :=
  match misaligned u es with
  | some l => alignFault s sl l
  | none =>
    match translatePages s (ctxXlat s s.cur) cls write merge (pagesOf es) [] [] with
    | (s1, pages, []) => k s1 pages
    | (s1, _, fs) => pageFaultNow s1 sl cls fs

/-- Pages that an irrevocable operation of slot sl accesses at its bundle's commit. -/
def notePages (s : State) (sl : Nat) (pages : List (Nat × Phys)) : State :=
  let rs : List Resolved := pages.map fun p => { slot := sl, page := p.1, pa := p.2.pa, kind := p.2.kind }
  s.setCtx { s.ctx with resolved := s.ctx.resolved ++ rs }

/-- Those pages. -/
def pagesAt (s : State) (sl : Nat) : List (Nat × Phys) :=
  (s.ctx.resolved.filter fun r => r.slot == sl).map fun r => (r.page, { pa := r.pa, kind := r.kind })

/-- Bytes that the check of slot sl has read: its operation acts on them (R139). -/
def noteBytes (s : State) (sl : Nat) (bs : List Byte) : State :=
  s.setCtx { s.ctx with checked := amSet s.ctx.checked sl bs }

/-- Those bytes. -/
def bytesAt (s : State) (sl : Nat) : List Byte := amGet [] s.ctx.checked sl

/-- An access of an irrevocable operation: every check at its issue, the access itself at the commit (R139). -/
def resolving (s : State) (sl : Nat) (cls : Access) (write merge : Bool) (u : Nat) (es : List Elem)
    (k : State → List (Nat × Phys) → Out) : Out :=
  match s.stage with
  | .issue => accessing s sl cls write merge u es fun s1 pages => k (notePages s1 sl pages) pages
  | .commit => k s (pagesAt s sl)

/-- A Machine Check that names the poisoned line (R65, R299). -/
def machineCheck (s : State) (sl line : Nat) : Out := trapNow s sl 0x20 (BitVec.ofNat 64 (line * 64))

/-- Elements' bytes in order of the elements. -/
def elemBytes (s : State) (pages : List (Nat × Phys)) (es : List Elem) : List (Nat × List Byte) :=
  let near := viewMem s s.cur
  es.map fun e => (e.lane, (addrsFrom e.va e.n).map fun va => viewByte s s.cur near (physOf pages va))

/-- A landing-buffer entry taken by the bundle in issue; the arrival of its data is an event of memory (R68, R134). -/
def takeLanding (s : State) (k : BitVec 6) (atomic wait : Bool) : State :=
  let c := s.ctx
  let l : Landing := { id := c.nextLanding, due := s.due k.toNat, arrived := !wait, asks := [], known := [],
                       form := .scalar 64 false, atomic := atomic }
  let s1 := s.setCtx { c with landings := c.landings ++ [l], nextLanding := c.nextLanding + 1 }
  if wait then { s1 with work := s1.work ++ [.loadDataArrival s.cur l.id] } else s1

/-- The entry that a false-guarded load holds (R68, R134). -/
def holdLanding (s : State) (k : BitVec 6) : Out := .next (takeLanding s k false false)

/-! ### Withheld stores (R77, R142, R206) -/

/-- Distinct 64-byte lines that withheld operations write (R142). -/
def WithheldOp.lines : WithheldOp → List Nat
  | .store cells => cellLines cells
  | .zeroLine pa _ => [pa / 64]
  | .atomic _ _ pa _ => [pa / 64]
  | .mergeAdd _ pa _ => [pa / 64]
  | .arrive _ => []
  | .drop _ => []

/-- Lines of a list of withheld operations. -/
def heldLines (ops : List WithheldOp) : List Nat := ops.foldl (fun acc o => insertAll o.lines acc) []

/-- withhold(op): held until the next commit; a sixty-fifth line is a Span Overflow (R143). -/
def withhold (s : State) (sl : Nat) (op : WithheldOp) : Out :=
  let c := s.ctx
  if 64 < (heldLines (c.withheld ++ [op])).length then trapNow s sl 0x15 2
  else .next (s.setCtx { c with withheld := c.withheld ++ [op] })

/-- Cells of bytes stored from a virtual address. -/
def physCells (pages : List (Nat × Phys)) (va : Nat) (bs : List Byte) : List (Nat × Byte) :=
  (addrsFrom va bs.length).zip bs |>.map fun p => ((physOf pages p.1).pa, p.2)

end Sys2Proof.Machine
end

