-- ==== Sys2Proof/Machine/Stash.lean ====
section
/-! DEFINITION. Stash tiles: which tile serves an access by address, first touch, the interlock of tiles that an
operation names, the accumulator window and its interlock (R48 to R60). -/

namespace Sys2Proof.Machine

/-! ### Stash tiles -/

/-- Stash tile qk of context n, as a tile of the module. -/
def tileIx (s : State) (n k : Nat) : Nat := 512 * coreOf n + (s.ctxOf n).swinBase + k

/-- Entry of tile i in its core's tile table. -/
def State.tile (s : State) (i : Nat) : StashTile := amGet StashTile.empty s.stash i

/-- The table with tile i's entry replaced. -/
def State.setTile (s : State) (i : Nat) (t : StashTile) : State := { s with stash := amSet s.stash i t }

/-- First byte of the range that the tile maps. -/
def StashTile.base (t : StashTile) : Nat := t.pa * 4096

/-- The tile that serves an access of context n to a physical line (R52). -/
def servingTile (s : State) (n line : Nat) : Option (Nat × StashTile) :=
  s.stash.find? fun p => p.2.maps line && servedBy s n p.1

/-- A fetch of the line has begun. -/
def fillPending (s : State) (i l : Nat) : Bool :=
  s.work.any fun w => match w with | .stashLineFill _ j m => j == i && m == l | _ => false

/-- The fetch of an absent line of tile i begins on first touch (R53). -/
def requestLine (s : State) (n i l : Nat) : State :=
  if (s.tile i).present.getLsbD l || fillPending s i l then s else { s with work := s.work ++ [.stashLineFill n i l] }

/-- Every absent line of tile i is requested (R53). -/
def requestAll (s : State) (n i : Nat) : State := (upto 64).foldl (fun s l => requestLine s n i l) s

/-- An access by address of context n to physical lines: none while a line's tile drains or is in a rule step (R57,
R247); otherwise absent lines begin to fetch, but for those that a store covers whole (R53). -/
def stashTouch (s : State) (n : Nat) (lines whole : List Nat) : Option State :=
  if s.stash.isEmpty then some s
  else lines.foldl (fun o l =>
    match o with
    | none => none
    | some s =>
      match servingTile s n l with
      | none => some s
      | some p =>
        if p.2.state = .draining || p.2.rule.isSome then none
        else if l ∈ whole then some s
        else some (requestLine s n p.1 (l % 64))) (some s)

/-- The same for an operation of the bundle in issue, which waits on the brake line (R57). -/
def storing (s : State) (lines whole : List Nat) (k : State → Out) : Out :=
  match stashTouch s s.cur lines whole with
  | none => interlockNow s
  | some s1 => k s1

/-- The same for an access that covers no line whole by a store. -/
def touching (s : State) (lines : List Nat) (k : State → Out) : Out := storing s lines [] k

/-- A withheld operation cannot be performed yet: the tile of one of its lines drains or is in a rule step, or the line
is still to be fetched (R53, R57, R247). -/
def storeWaits (s : State) (n : Nat) (cells : List (Nat × Byte)) : Bool :=
  !s.stash.isEmpty && (cellLines cells).any fun l =>
    match servingTile s n l with
    | none => false
    | some p => p.2.state = .draining || p.2.rule.isSome ||
        (!p.2.present.getLsbD (l % 64) && !(decide (l ∈ wholeLines cells)))

/-- The lines of such an operation begin to fetch. -/
def requestCells (s : State) (n : Nat) (cells : List (Nat × Byte)) : State :=
  (stashTouch s n (cellLines cells) (wholeLines cells)).getD s

/-- A Stash Map Fault (R58, R60). -/
def stashFault (s : State) (sl : Nat) : Out := trapNow s sl 0x18 0

/-- An operation that names stash tile qk: its window (R50), then the interlock of R60. At the commit the tile's number
stands. -/
def namingTile (s : State) (sl k : Nat) (f : Nat → Out) : Out :=
  let i := tileIx s s.cur k
  if s.ctx.swinCount ≤ k then illegal s sl 0x0E
  else match s.stage with
    | .commit => f i
    | .issue =>
      match (s.tile i).state with
      | .ready => f i
      | .empty => stashFault s sl
      | .filling => interlockNow (requestAll s s.cur i)
      | .draining => interlockNow s

/-! ### Accumulator tiles -/

/-- A write by the matrix slot to tile k, issued before this bundle, is in flight. -/
def Ctx.matrixInFlight (c : Ctx) (k now : Nat) : Bool := c.accFill.any fun p => p.1 == k && p.2 != now

/-- A write to tile k that is not the matrix slot's is in flight. -/
def Ctx.otherInFlight (c : Ctx) (k now : Nat) : Bool :=
  c.accMove.any (fun p => p.1 == k && p.2 != now) || amGet 0 c.accNest k != 0

/-- Accumulator tiles k to k + n − 1 lie in the window (R48). -/
def inAwin (s : State) (k n : Nat) : Bool := k + n ≤ s.ctx.awinCount

/-- An operation that names accumulator tiles; chain: a write by the matrix slot, which joins the chain of writes in
flight (R60), but in a canonical bundle, which waits until every tile that it names is ready (R158). Only at its issue. -/
def namingAcc (s : State) (chain : Bool) (ks : List Nat) (f : Out) : Out :=
  match s.stage with
  | .commit => f
  | .issue =>
    if ks.any fun k => s.ctx.otherInFlight k s.now || ((!chain || s.bundle.canonical) && s.ctx.matrixInFlight k s.now) then
      interlockNow s
    else f

/-- Accumulator tile k takes a journal entry and holds x for the next bundle; its write is in flight (R59, R140). -/
def storeAcc (s : State) (sl k : Nat) (x : ATile) (f : State → Out) : Out :=
  match journalAddA s [k] with
  | none => trapNow s sl 0x15 1
  | some s1 => f (s1.putAcc k x)

/-- The matrix slot's write to tile k is in flight; its finish is an event (R59). -/
def fillAcc (s : State) (k : Nat) : State :=
  let s1 := s.setCtx { s.ctx with accFill := s.ctx.accFill ++ [(k, s.now)] }
  { s1 with work := s1.work ++ [.accumulatorWriteFinish s.cur k] }

/-- A move's write to tile k is in flight (R151). -/
def moveAcc (s : State) (k : Nat) : State :=
  let s1 := s.setCtx { s.ctx with accMove := s.ctx.accMove ++ [(k, s.now)] }
  { s1 with work := s1.work ++ [.accumulatorWriteFinish s.cur k] }

end Sys2Proof.Machine
end

