-- ==== Sys2Proof/Machine/Device.lean ====
section
/-! DEFINITION. Device registers: the actions of the context-control registers, the enabling of command queues, token
queues and rings, and loads and stores of every register that the manual describes (R79, R101, R303, R306, R344). -/

namespace Sys2Proof.Machine

/-! ### Context control (Table 15-5) -/

/-- The record of the trap that context n handles, as a ring entry. -/
def handledEntry (s : State) (n : Nat) : List Byte :=
  let c := s.ctxOf n
  ringEntry s n (c.cause.toNat % 256) (bitsOf c.cause.toNat 8 8) c.arch.epc c.fault c.record

/-- FWD: the record goes to the steered ring; the answer tells whether it is held (R303, R306). -/
def ctlForward (s : State) (n : Nat) (resume : Option (Nat × Nat) := none) : State × Bool :=
  forwardEntry s (s.ctxOf n).arch.asid.toNat (handledEntry s n) resume

/-- A context parks with the state that its handler leaves as its checkpoint (R303). -/
def Ctx.park (c : Ctx) : Ctx := { c.resumeTask with parked := true, wait := .none }

/-- PARK; in a gang all sixteen ranks park (R305). -/
def ctlPark (s : State) (n : Nat) : State :=
  if (s.ctxOf n).gang then (gangOf n).foldl (fun s k => s.setCtxOf k (s.ctxOf k).park) s
  else s.setCtxOf n (s.ctxOf n).park

/-- CONTAIN: sr.cause passes to containment; the other ranks of a gang park (R303, R305, R310). -/
def ctlContain (s : State) (n : Nat) : State :=
  let c := s.ctxOf n
  let s1 := if c.gang then
      (gangOf n).foldl (fun s k => if k = n then s else s.setCtxOf k (s.ctxOf k).park) s
    else s
  contain (s1.setCtxOf n { c.resumeTask with cause := c.cause, fault := c.fault }) n (c.cause.toNat % 256) c.fault c.record

/-- FWD alone: forwarded, then resumed as by tret; while the record is held the context stays parked, and its delivery
resumes it (R303, R306). -/
def ctlForwardAlone (s : State) (n : Nat) : State :=
  match ctlForward s n (some ((s.ctxOf n).launch, (s.ctxOf n).task)) with
  | (s1, true) => ctlPark s1 n
  | (s1, false) => returnFromTrap s1 n

/-- Bits [2:0] stored to the own CTLc of context n in handler mode: 4 CONTAIN, 2 FWD, 1 PARK (R303). -/
def ctlApply (s : State) (n bits : Nat) : State :=
  let fwd := bitsOf bits 1 1 == 1
  if bitsOf bits 2 1 = 1 then ctlContain (if fwd then (ctlForward s n).1 else s) n
  else if bitsOf bits 0 1 = 1 then ctlPark (if fwd then (ctlForward s n).1 else s) n
  else if fwd then ctlForwardAlone s n
  else s

/-- Context n may not map the range of physical line l: for an open task, an open task's tile of the core maps it
already, and two such tiles map no range at once (R52). -/
def rangeTaken (s : State) (n l : Nat) : Bool := !(s.ctxOf n).phased && (servingTile s n l).isSome

/-- Tile k is left unmapped, to be mapped at RESUME. -/
def leaveUnmapped (s : State) (n k : Nat) (t : StashTile) : State :=
  s.setCtxOf n { s.ctxOf n with unmapped := (s.ctxOf n).unmapped ++ [(k, t)] }

/-- Recorded tile k of a window mapped anew for context n, in filling state; its VA is translated as a stash fill (R314). One
whose range another tile of the core maps stays unmapped (R52; DESIGN CHOICE, log 114). -/
def restoreTile (s : State) (n k : Nat) (t : StashTile) : State × List PageFault :=
  if t.state = .empty then (s, [])
  else match translatePages s (ctxXlat s n) .stashFill false false [(t.va / 16, 0)] [] [] with
    | (s1, _, f :: fs) => (leaveUnmapped s1 n k t, f :: fs)
    | (s1, pages, []) =>
      let p := physOf pages (t.va * 4096)
      let i := tileIx s1 n k
      if p.kind ≠ .zero && rangeTaken s1 n (p.pa / 64) then (leaveUnmapped s1 n k t, [])
      else
      let s2 := s1.setTile i { t with state := .filling, pa := p.pa / 4096, present := 0, dirty := 0, zero := 0, keep := false,
                                      zeroPage := p.kind == .zero }
      let first := match t.rule with
        | some r => r.bnd.toNat ≠ 2 || (s2.ctxOf n).rank = 0
        | none => false
      (if first then { s2 with work := s2.work ++ [.ruleGeneration n i] } else s2, [])

/-- Every recorded tile mapped anew, with the pages that fail. -/
def restoreTiles (s : State) (n : Nat) : List (Nat × StashTile) → State × List PageFault
  | [] => (s, [])
  | (k, t) :: ts =>
    let x := restoreTile s n k t
    let y := restoreTiles x.1 n ts
    (y.1, x.2 ++ y.2)

/-- A context that the failure of its stash translations parks; its record has CLASS 6 (R314). -/
def parkRestored (s : State) (n : Nat) (fs : List PageFault) : State :=
  let c := (s.ctxOf n).withEpc
  let record := faultRecord c.arch.asid.toNat Access.stashFill.code 7 c.arch.pc.toNat fs 0
  let s1 := s.setCtxOf n { c with parked := true, cause := 0x10, fault := 0, record := record }
  (forwardEntry s1 c.arch.asid.toNat (ringEntry s1 n 0x10 0 c.arch.epc 0 record)).1

/-- The tiles of a window mapped; a context with a page that fails parks (R314), and so does one with a tile that stays
unmapped for another's range, without a record. -/
def mapWindow (s : State) (n : Nat) (ts : List (Nat × StashTile)) : State :=
  match restoreTiles (s.setCtxOf n { s.ctxOf n with unmapped := [] }) n ts with
  | (s1, []) => if (s1.ctxOf n).unmapped.isEmpty then s1 else s1.setCtxOf n { (s1.ctxOf n).withEpc with parked := true }
  | (s1, f :: fs) => parkRestored s1 n (f :: fs)

/-- RESUME: a parked context issues from sr.epc in task mode; of a gang only rank 0, for all ranks (R303, R305). Tiles that a
restore could not map are mapped first, and while one fails the context stays parked (R314; DESIGN CHOICE, log 101). -/
def ctlResume (s : State) (n : Nat) : State :=
  let gang := (s.ctxOf n).gang
  let group := if gang then gangOf n else [n]
  if (gang && n % 64 ≠ 0) || !(group.any fun k => (s.ctxOf k).parked) then s
  else
    let s1 := group.foldl (fun s k => if (s.ctxOf k).unmapped.isEmpty then s else mapWindow s k (s.ctxOf k).unmapped) s
    if group.any fun k => !(s1.ctxOf k).unmapped.isEmpty then s1
    else group.foldl (fun s k => if (s.ctxOf k).parked then s.setCtxOf k (s.ctxOf k).resumeTask else s) s1

/-- A pre-emption request to context n, counted from now: it is answered after the next safe bundle that commits
(R146). -/
def requestSave (s : State) (n : Nat) : State :=
  let c := s.ctxOf n
  if c.life = .running && c.preempt.isNone then s.setCtxOf n { c with preempt := some s.wall, atSafe := false } else s

/-- SAVE: a pre-emption request; a gang is pre-empted as one (R149, R303). -/
def ctlSave (s : State) (n : Nat) : State :=
  (if (s.ctxOf n).gang then gangOf n else [n]).foldl requestSave s

/-- ERESUME: every paused copy and nest command of the context goes on (R309). -/
def ctlEresume (s : State) (n : Nat) : State :=
  let c := s.ctxOf n
  let evs : List Instr := (c.cmds.filter fun k => k.paused).map fun k =>
    if k.eng = 0 then .copyPoint n k.num else .nestPoint n k.num
  let s1 := s.setCtxOf n { c with cmds := c.cmds.map fun k => { k with paused := false } }
  { s1 with work := s1.work ++ evs }

/-- A store to CTLn by an agent: a context in handler mode, or an agent outside the contexts (R303). Task code changes
nothing (DEDUCED, log 20). -/
def ctlWrite (s : State) (agent : Option Nat) (n v : Nat) : State :=
  let own := agent = some n && (s.ctxOf n).handler
  let may := match agent with | none => true | some a => (s.ctxOf a).handler
  if !may then s
  else
    let s1 := if own then s.setCtxOf n { s.ctxOf n with ctl := bitsOf v 0 3 } else s
    let s2 := if bitsOf v 3 1 = 1 then ctlResume s1 n else s1
    let s3 := if bitsOf v 4 1 = 1 then ctlSave s2 n else s2
    if bitsOf v 5 1 = 1 then ctlEresume s3 n else s3

/-! ### Rings, token queues (R101, R306) -/

/-- RW fields of a ring register (Table 15-6). -/
def ringMask : Nat := 2 ^ 63 + (2 ^ 52 - 2 ^ 12) + 31

/-- Ring k's register stored; held records are delivered once EN is set, when the rings next move (R306). -/
def ringWrite (s : State) (k v : Nat) : State :=
  { s with rings := amMod Ring.reset s.rings k fun r => { r with cfg := BitVec.ofNat 64 (v &&& ringMask) } }

/-- A push or pop that waits at queue q faults when it is next tried (R101). -/
def Ctx.queueGone (q : Nat) (c : Ctx) : Ctx :=
  match c.tokenWait with
  | some w => if w.1 = q then { c with tokenWait := some (q, true) } else c
  | none => c

/-- A token queue's register stored (R101, Table 5-3). While EN = 1 stores to DEPTH are ignored. Clearing EN discards every
entry, and the operations that wait fault. -/
def tokenWrite (s : State) (q v : Nat) : State :=
  let depth := bitsOf v 0 11
  let en := bitsOf v 16 1 == 1
  let parts := BitVec.ofNat 16 (bitsOf v 32 16)
  let t := amGet TokenQueue.reset s.tokens q
  if t.en && !en then
    { s with tokens := amSet s.tokens q { t with parts := parts, en := false, entries := [], pushers := [], poppers := [] },
             ctxs := s.ctxs.map fun p => (p.1, p.2.queueGone q) }
  else
    let t1 := if t.en then { t with parts := parts }
      else { t with parts := parts, depth := BitVec.ofNat 11 depth, en := en && 16 ≤ depth && depth ≤ 1024 }
    { s with tokens := amSet s.tokens q t1 }

/-- A token queue's register as read. -/
def tokenWord (t : TokenQueue) : Nat :=
  t.parts.toNat * 2 ^ 32 + t.entries.length * 2 ^ 18 + t.en.toNat * 2 ^ 16 + t.depth.toNat

/-! ### Command queues (R344, R351) -/

/-- Command queue q. -/
def State.cq (s : State) (q : Nat) : CmdQueue := amGet CmdQueue.reset s.cqs q

/-- Command queue q changed. -/
def State.modCq (s : State) (q : Nat) (f : CmdQueue → CmdQueue) : State := { s with cqs := amMod CmdQueue.reset s.cqs q f }

/-- An event enters the event queue of the front end; doorbells to one queue that wait count as one (R345). -/
def feEvent (s : State) (e : FeEvent) : State :=
  let doorbell := match e with | .doorbell _ => true | _ => false
  if doorbell && decide (e ∈ s.front.events ++ s.front.heldEvents) then s else { s with front := s.front.post [e] }

/-- ERR set to a code; the vector is raised when IRQ is set (R344, R351). -/
def cqError (s : State) (q code : Nat) : State :=
  s.modCq q fun c =>
    { c with err := BitVec.ofNat 8 code, waiting := none, raised := c.raised + c.irq.toNat }

/-- Level 0 of a queue at a position. -/
def CmdQueue.level0 (c : CmdQueue) (pos : Nat) : CqLevel := { base := c.base, len := c.size.toNat, pos := pos, window := [] }

/-- QSIZE is a power of two from 1,024 to 2^22 and QBASE is 4 KiB-aligned (R344). -/
def CmdQueue.formOk (c : CmdQueue) : Bool :=
  (((upto 13).map fun k => 2 ^ (10 + k)).contains c.size.toNat) && c.base.toNat % 4096 == 0

/-- Enabling of command queue q (R87, R344). -/
def cqEnable (s : State) (q : Nat) : State :=
  let c := s.cq q
  if c.en then s
  else if !c.formOk then cqError s q 0x06
  else match freeSlot s with
    | none => cqError s q 0x0A
    | some k =>
      (holdSlot s k).modCq q fun c =>
        { c with en := true, slot := k, head := 0, tail := 0, levels := [c.level0 0], loops := [], runs := [],
                 waiting := none, locked := none }

/-- The command queue whose packet a step performs. -/
def packetQueue : Instr → Option Nat
  | .nopPacket q _ | .launchPacket q _ | .ibcallPacket q _ | .ibretPacket q _ | .predPacket q _ | .loopPacket q _
  | .writePacket q _ | .twaitPacket q _ | .tsigPacket q _ | .ffencePacket q _ | .wakearmPacket q _ => some q
  | _ => none

/-- EN cleared: the queue gives its slot and its control core back, and its next packet is not performed (R87). -/
def cqDisable (s : State) (q : Nat) : State :=
  let c := s.cq q
  if !c.en then s
  else
    let s1 := s.modCq q fun c => { c with en := false, waiting := none, levels := [], loops := [], runs := [], locked := none }
    releaseSlot { s1 with work := s1.work.filter fun i => packetQueue i ≠ some q } c.slot

/-- A store to QTAIL (R344, R345, R350). -/
def cqDoorbell (s : State) (q : Nat) (t : BitVec 32) : State := feEvent (s.modCq q fun c => { c with tail := t }) (.doorbell q)

/-- Clearing ERR restarts the queue at QHEAD with every window empty (R351). -/
def cqClear (s : State) (q : Nat) (bits : BitVec 8) : State :=
  let c := s.cq q
  let e := c.err &&& ~~~bits
  if c.err ≠ 0 && e = 0 then
    feEvent (s.modCq q fun c => { c with err := 0, levels := if c.en then [c.level0 c.head.toNat] else c.levels,
                                         loops := [], runs := [] }) (.errClear q)
  else s.modCq q fun c => { c with err := e }

/-- The register at offset 0x38 stored. -/
def cqControl (s : State) (q v : Nat) : State :=
  let s1 := cqClear (s.modCq q fun c => { c with irq := bitsOf v 1 1 == 1 }) q (BitVec.ofNat 8 (bitsOf v 8 8))
  if bitsOf v 0 1 = 1 then cqEnable s1 q else cqDisable s1 q

/-! ### The registers -/

/-- Fields that keep their bits on a store: launch queues (Table 14-3). -/
def queueMask : Nat := 0xF00000 + 0x1F000 + 1

/-- Words of a measurement register. -/
def measWord (s : State) (n w : Nat) : Nat := bitsOf (amGet (0 : BitVec 256) s.trust.meas n).toNat (64 * w) 64

/-- LCSTATE and FUSECTR (Table 17-4). -/
def lifeWord (s : State) : Nat :=
  (match s.trust.lc with | .manufacturing => 0 | .provisioned => 1 | .deployed => 2 | .returned => 3) * 256
    + s.trust.fusectr.toNat

/-- A command queue's registers as read (Table 20-1). -/
def cqWord (s : State) (q o : Nat) : Nat :=
  let c := s.cq q
  match o with
  | 0 => c.base.toNat
  | 1 => c.size.toNat
  | 2 => c.head.toNat
  | 3 => c.tail.toNat
  | 4 => c.asid.toNat
  | 5 => c.ttb.toNat
  | 6 => if c.en then handleOf s c.slot else 0
  | _ => c.err.toNat * 256 + c.irq.toNat * 2 + c.en.toNat

/-- A register of the block of core k (Table 15-4). -/
def coreWord (s : State) (k o : Nat) : Option Nat :=
  let c := amGet Core.reset s.cores k
  match o with
  | 0 => some c.trapent.toNat
  | 1 => some c.recbase.toNat
  | 2 | 3 | 4 | 5 =>
    let x := s.ctxOf (4 * k + (o - 2))
    some (x.handler.toNat * 512 + x.parked.toNat * 256)
  | _ => none

/-- A register of a wake filter (Table 20-4). -/
def filterWord (f : WakeFilter) (o : Nat) : Nat :=
  match o with | 0 => f.off.toNat | 1 => f.mask.toNat | 2 => f.value.toNat | _ => f.armed.toNat

/-- The device register with this 8-byte-aligned address as read; WO fields read as zero. none: no register that the
manual describes. -/
def deviceWord (s : State) (pa : Nat) : Option Nat :=
  let o := pa - 0x100000000000
  if o < 0x10000 * 1664 then coreWord s (o / 0x10000) (o % 0x10000 / 8)
  else if 0x80000000 ≤ o && o < 0x80000080 then some (amGet (0 : Word) s.steer ((o - 0x80000000) / 8)).toNat
  else if 0x80000100 ≤ o && o < 0x80000148 then some (amGet Ring.reset s.rings ((o - 0x80000100) / 8)).cfg.toNat
  else if 0x90000000 ≤ o && o < 0x90000200 then some (measWord s ((o - 0x90000000) / 0x20) (o % 0x20 / 8))
  else if o = 0x90000200 then some (lifeWord s)
  else if 0xA0000000 ≤ o && o < 0xA0004000 then some (cqWord s ((o - 0xA0000000) / 0x40) (o % 0x40 / 8))
  else if 0xA1000000 ≤ o && o < 0xA1000200 then some (amGet LaunchQueue.reset s.queues ((o - 0xA1000000) / 8)).cfg.toNat
  else if 0xA1000200 ≤ o && o < 0xA1000280 then some (amGet Partition.reset s.parts ((o - 0xA1000200) / 8)).cfg.toNat
  else if o = 0xA1000280 then some s.age.toNat
  else if o = 0xA1000300 then some s.front.gate.toNat
  else if o = 0xA1000308 then some (freeSlotCount s)
  else if 0xA1000400 ≤ o && o < 0xA1000600 then
    some (filterWord (amGet WakeFilter.reset s.front.filters ((o - 0xA1000400) / 0x20)) (o % 0x20 / 8))
  else if 0xA1000800 ≤ o && o < 0xA1001000 then some (s.cq ((o - 0xA1000800) / 8)).failAt.toNat
  else if 0xA2000000 ≤ o && o < 0xA2000800 then some (tokenWord (amGet TokenQueue.reset s.tokens ((o - 0xA2000000) / 8)))
  else none

/-- Bits of a register that a narrow store leaves zero where it does not cover them: the WO and RW1C fields (R79). -/
def actionBits (pa : Nat) : Nat :=
  let o := pa - 0x100000000000
  if o < 0x10000 * 1664 && 2 ≤ o % 0x10000 / 8 then 0x3F
  else if 0xA0000000 ≤ o && o < 0xA0004000 && o % 0x40 = 0x38 then 0xFF00
  else 0

/-- A store of a whole register in the block of core k. -/
def coreStore (s : State) (agent : Option Nat) (k o v : Nat) : State :=
  match o with
  | 0 => { s with cores := amMod Core.reset s.cores k fun c => { c with trapent := BitVec.ofNat 64 (v / 64 * 64) } }
  | 1 => { s with cores := amMod Core.reset s.cores k fun c => { c with recbase := BitVec.ofNat 64 (bitsOf v 9 43 * 512) } }
  | _ => ctlWrite s agent (4 * k + (o - 2)) v

/-- A store of a command-queue register (R344). -/
def cqStore (s : State) (q o v : Nat) : State :=
  match o with
  | 0 => if (s.cq q).en then s else s.modCq q fun c => { c with base := BitVec.ofNat 64 (v / 4 * 4) }
  | 1 => if (s.cq q).en then s else s.modCq q fun c => { c with size := BitVec.ofNat 24 v }
  | 3 => cqDoorbell s q (BitVec.ofNat 32 v)
  | 4 => s.modCq q fun c => { c with asid := BitVec.ofNat 16 v }
  | 5 => s.modCq q fun c => { c with ttb := BitVec.ofNat 64 (bitsOf v 12 40 * 4096) }
  | 7 => cqControl s q v
  | _ => s

/-- A store of a launch queue's register; the time without service of a queue never yet served counts from its enabling
(R284). -/
def queueStore (s : State) (n v : Nat) : State :=
  { s with queues := amMod LaunchQueue.reset s.queues n fun x =>
      { x with cfg := BitVec.ofNat 64 (v &&& queueMask),
               since := if !x.served && !x.cfg.getLsbD 0 && bitsOf v 0 1 = 1 then s.wall else x.since } }

/-- A store of a wake filter's register. -/
def filterStore (s : State) (f o v : Nat) : State :=
  { s with front := { s.front with filters := amMod WakeFilter.reset s.front.filters f fun x =>
      match o with
      | 0 => { x with off := BitVec.ofNat 11 v }
      | 1 => { x with mask := BitVec.ofNat 64 v }
      | 2 => { x with value := BitVec.ofNat 64 v }
      | _ => x } }

/-- A store of the whole device register with this address by an agent: the context, or none for an outside agent.
RO registers keep their values. -/
def deviceStore (s : State) (agent : Option Nat) (pa v : Nat) : State :=
  let o := pa - 0x100000000000
    if o < 0x10000 * 1664 then coreStore s agent (o / 0x10000) (o % 0x10000 / 8) v
    else if 0x80000000 ≤ o && o < 0x80000080 then
      { s with steer := amSet s.steer ((o - 0x80000000) / 8) (BitVec.ofNat 64 v) }
    else if 0x80000100 ≤ o && o < 0x80000148 then ringWrite s ((o - 0x80000100) / 8) v
    else if 0xA0000000 ≤ o && o < 0xA0004000 then cqStore s ((o - 0xA0000000) / 0x40) (o % 0x40 / 8) v
    else if 0xA1000000 ≤ o && o < 0xA1000200 then queueStore s ((o - 0xA1000000) / 8) v
    else if 0xA1000200 ≤ o && o < 0xA1000280 then
      { s with parts := amMod Partition.reset s.parts ((o - 0xA1000200) / 8) fun p =>
          { p with cfg := BitVec.ofNat 64 (v % 2 ^ 33) } }
    else if o = 0xA1000280 then { s with age := BitVec.ofNat 64 v }
    else if o = 0xA1000300 then { s with front := { s.front with gate := BitVec.ofNat 32 v } }
    else if 0xA1000400 ≤ o && o < 0xA1000600 then filterStore s ((o - 0xA1000400) / 0x20) (o % 0x20 / 8) v
    else if 0xA2000000 ≤ o && o < 0xA2000800 then tokenWrite s ((o - 0xA2000000) / 8) v
    else s

/-- The agent may reach the registers of token queues: a handler, or an agent outside the contexts (R101). -/
def reachesTokens (s : State) (agent : Option Nat) : Bool := match agent with | none => true | some n => (s.ctxOf n).handler

/-- The address lies in the registers of the token queues (R101). -/
def isTokenReg (pa : Nat) : Bool := 0x1000A2000000 ≤ pa && pa < 0x1000A2000800

/-- Register address of a byte address. -/
def regAddr (pa : Nat) : Nat := pa / 8 * 8

/-- The n bytes at pa of a device register, as a narrow load returns them (R79). An address of the range that names no
register, and a token queue's register for task code, read as free bits: no rule gives their value (log 20). -/
def deviceLoad (s : State) (agent : Option Nat) (pa n : Nat) : Nat :=
  match deviceWord s (regAddr pa) with
  | none => (s.undef (8 * n) 2001).toNat
  | some w =>
    if isTokenReg pa && !reachesTokens s agent then (s.undef (8 * n) 2001).toNat
    else bitsOf w (8 * (pa % 8)) (8 * n)

/-- A store of n bytes at pa as the store of the whole register that it acts as (R79). A store to an address that names no
register, and of task code to a token queue's register, changes nothing (log 20). -/
def deviceNarrow (s : State) (agent : Option Nat) (pa n x : Nat) : State :=
  match deviceWord s (regAddr pa) with
  | none => s
  | some w =>
    if isTokenReg pa && !reachesTokens s agent then s
    else
      let k := 8 * (pa % 8)
      let cover := (2 ^ (8 * n) - 1) * 2 ^ k
      let kept := w &&& (BitVec.allOnes 64).toNat - (cover ||| actionBits (regAddr pa))
      deviceStore s agent (regAddr pa) (if n = 8 then x % 2 ^ 64 else kept ||| (x * 2 ^ k &&& cover))

/-! ### The device ports (R79) -/

/-- Device store i takes its place at its register; its target acknowledges it. Whether the storing context was in handler
mode has been asked at its commit. -/
def portStep (s : State) (i : Nat) : State :=
  match s.devOut.drop i with
  | [] => s
  | d :: _ => deviceNarrow { s with devOut := s.devOut.eraseIdx i } none d.pa d.n d.x

/-- Device store i may take its place: no earlier store of its core to its 64 KiB page is on its way (R79). -/
def portReady (s : State) (i : Nat) : Bool :=
  match s.devOut.drop i with
  | [] => false
  | d :: _ => (s.devOut.take i).all fun e => !(coreOf e.ctx == coreOf d.ctx && e.pa / 65536 == d.pa / 65536)

/-- Every store of core k that is on its way takes its place, in commit order: what the core does next follows them
(Tables 4-2 and 4-3). fuel: their number. -/
def drainPort (k : Nat) : Nat → State → State
  | 0, s => s
  | fuel + 1, s =>
    match s.devOut.findIdx? fun d => coreOf d.ctx == k with
    | none => s
    | some i => drainPort k fuel (portStep s i)

/-- The device port of a context's core emptied. -/
def drainOf (s : State) (n : Nat) : State := if s.devOut.isEmpty then s else drainPort (coreOf n) s.devOut.length s

/-- A device store of context n at its commit (R79): a store to its own context control acts at once (R303); any other
goes to the core's port, unless task code may not make it. -/
def deviceCommit (s : State) (n pa len x : Nat) : State :=
  let o := pa - 0x100000000000
  let own := o < 0x10000 * 1664 && o / 0x10000 == coreOf n && o % 0x10000 / 8 == 2 + ctxInCore n
  let core := o < 0x10000 * 1664 && 2 ≤ o % 0x10000 / 8
  if own then deviceNarrow (drainOf s n) (some n) pa len x
  else if (core || isTokenReg pa) && !(s.ctxOf n).handler then s
  else { s with devOut := s.devOut ++ [{ ctx := n, pa := pa, n := len, x := x }] }

/-! ### Steps of the control registers as whole steps -/

/-- ERESUME (R303, R309). -/
def execEresume (c : Nat) (s : State) : Out := .next (ctlEresume s c)

/-- SAVE (R303, R311). -/
def execSave (c : Nat) (s : State) : Out := .next (ctlSave s c)

/-- RESUME (R303). -/
def execResume (c : Nat) (s : State) : Out := .next (ctlResume s c)

/-- CONTAIN (R303, R310): in handler mode only. -/
def execContain (c : Nat) (s : State) : Out := .next (if (s.ctxOf c).handler then ctlApply s c 4 else s)

/-- FWD (R303, R306): in handler mode only. -/
def execFwd (c : Nat) (s : State) : Out := .next (if (s.ctxOf c).handler then ctlApply s c 2 else s)

/-- PARK (R303): in handler mode only. -/
def execPark (c : Nat) (s : State) : Out := .next (if (s.ctxOf c).handler then ctlApply s c 1 else s)

/-- RING_ENABLE (R306). -/
def execRingEnable (k : Nat) (s : State) : Out :=
  .next (ringWrite s k ((amGet Ring.reset s.rings k).cfg.toNat ||| 2 ^ 63))

/-- TOKEN_QUEUE_ENABLE (R101). -/
def execTokenQueueEnable (q depth parts : Nat) (s : State) : Out :=
  .next (tokenWrite s q (parts % 2 ^ 16 * 2 ^ 32 + 2 ^ 16 + depth % 2 ^ 11))

/-- TOKEN_QUEUE_DISABLE (R101). -/
def execTokenQueueDisable (q : Nat) (s : State) : Out :=
  .next (tokenWrite s q (tokenWord (amGet TokenQueue.reset s.tokens q) &&& (2 ^ 64 - 1 - 2 ^ 16)))

/-- QTAIL_DOORBELL (R344). -/
def execQtailDoorbell (q : Nat) (tail : BitVec 32) (s : State) : Out := .next (cqDoorbell s q tail)

/-- COMMAND_QUEUE_ENABLE (R344). -/
def execCommandQueueEnable (q : Nat) (s : State) : Out := .next (cqEnable s q)

/-- ERR_CLEAR (R351). -/
def execErrClear (q : Nat) (s : State) : Out := .next (cqClear s q (BitVec.allOnes 8))

/-- REGISTER_WRITE (R79): a store of 1, 2, 4 or 8 bytes, aligned, by an agent outside the contexts. Any other length is
no store of a device register, and nothing happens. -/
def execRegisterWrite (pa n : Nat) (value : Word) (s : State) : Out :=
  if rangeOf pa ≠ .device then .fault (.addressGap pa)
  else if !(n ∈ [1, 2, 4, 8]) || pa % n ≠ 0 then .next s
  else .next (deviceNarrow s none pa n value.toNat)

end Sys2Proof.Machine
end

