-- ==== Sys2Proof/Machine/Fabric.lean ====
section
/-! DEFINITION. The Kwavik fabric: lanes, requests, their performance in sequence order, retry and loss (R84, R103 to
R105). -/

namespace Sys2Proof.Machine

/-- Lane of an address (R84). -/
def fabLane (pa : Nat) : Nat := bitsOf pa 6 4 ^^^ bitsOf pa 10 4 ^^^ bitsOf pa 14 4 ^^^ bitsOf pa 18 4

/-- Key of a lane of a module. -/
def laneOf (m lane : Nat) : Nat := 16 * m + lane

/-- Bytes that an access reads and may not deliver while their line is poisoned (R65): address and length. -/
def actReads : MemAct → Option (Nat × Nat)
  | .read pa n => some (pa, n)
  | .atomic _ ty pa _ _ => some (pa, ty.bytes)
  | .write _ _ => none
  | .writes _ => none

/-- The poisoned line that the access would use, addresses taken by base. -/
def actPoison (base : Nat → Nat) (s : State) (a : MemAct) : Option Nat :=
  (actReads a).bind fun r => (upto ((r.1 % 64 + r.2 + 63) / 64)).findSome? fun i =>
    let l := base r.1 / 64 + i
    if l ∈ s.poison then some l else none

/-- What the access brings back: the bytes read, or an atomic's old value; nothing of poisoned data (R65, R95). -/
def actResult (base : Nat → Nat) (s : State) (a : MemAct) : Option Nat :=
  if (actPoison base s a).isSome then none
  else match actReads a with
    | some r => some (memNat s.mem (base r.1) r.2)
    | none => some 0

/-- The bytes that the access stores; an atomic on a poisoned line stores none (R66). -/
def actCells (base : Nat → Nat) (s : State) (a : MemAct) : List (Nat × Byte) :=
  match a with
  | .read _ _ => []
  | .write pa bs => cellsAt (base pa) bs
  | .writes cs => cs.map fun c => (base c.1, c.2)
  | .atomic op ty pa x c =>
    match actResult base s a with
    | none => []
    | some old => cellsAt (base pa) (leBytes ty.bytes (atomicNew op ty old x.toNat c.toNat))

/-- A read of poisoned data by a unit that no context's command stands behind forwards a ring entry: SLOT 7, and no ASID,
task or command (R66; DESIGN CHOICE, log 115). -/
def unitPoison (s : State) (line : Nat) : State :=
  (forwardEntry s 0 (bareEntry 0 0x20 (plainRecord 0 0x20 7 0 0 0 [64 * line, 0, 0]))).1

/-- Accesses performed together: at one point of the module order the bytes they read and those they store (R73, R76, R84). -/
def performActs (s : State) (base : Nat → Nat) (as : List MemAct) : State × List (Option Nat) :=
  let cells := as.flatMap (actCells base s)
  let s1 := if cells.isEmpty then s else s.perform none cells
  ((as.filterMap fun a => match a with | .atomic .. => actPoison base s a | _ => none).foldl unitPoison s1,
   as.map (actResult base s))

/-- A link toward the module remains (R105). -/
def reachable (s : State) (dest : Nat) : Bool := !cutOff s dest

/-! ### Results that landings wait for (R84, R134) -/

/-- The number of element e among those known. -/
def knownOf (xs : List (Nat × Nat)) (e : Nat) : Nat :=
  match xs.find? fun p => p.1 == e with | some p => p.2 | none => 0

/-- The destination of a load as its form makes it of the elements' numbers: scalar, vector and tile register. -/
def LoadForm.word (f : LoadForm) (v : Nat → Nat) : Word :=
  match f with
  | .scalar bits true => sext64 bits (v 0)
  | .scalar bits false => zext64 bits (v 0)
  | _ => 0

/-- Lane l of a plane load: the prefix of kk planes of its element of the block x (R265). -/
def planeLane (mag kk : Nat) (mid : Bool) (x l : Nat) : Nat :=
  if kk = 0 then Fmt.fp32.qnan else Fmt.fp32.rne (sbPrefix mag x (l % 16) kk mid)

/-- Planes that a plane load takes: k, or for k = 0 those that have landed by the counter word, element 256 (R265). -/
def planesTaken (k : Nat) (v : Nat → Nat) : Nat := if k = 0 then v 256 % 256 else k

/-- A vector destination (R205, R265). -/
def LoadForm.vec (f : LoadForm) (v : Nat → Nat) : VReg :=
  match f with
  | .lanes t m n same kept =>
    ofLanes t fun l => if n ≤ l then 0 else if activeIn m l t then v (same.getD l) else lane kept t l
  | .planes mag k mid m first kept =>
    ofLanes .f32 fun l =>
      if activeIn m l .f32 then planeLane mag (planesTaken k v) mid (v (first.getD (l / 16) 0)) l else lane kept .f32 l
  | _ => 0

/-- The trap that a destination's data raise: fewer planes have landed than the load names (R265). -/
def LoadForm.fails (f : LoadForm) (v : Nat → Nat) : Option (Nat × Word) :=
  match f with
  | .planes _ k _ _ _ _ => if k ≠ 0 && v 256 % 256 < k then some (0x19, 0) else none
  | _ => none

/-- A row group of a tile register as a destination (R205). -/
def LoadForm.tile (f : LoadForm) (v : Nat → Nat) : TReg :=
  match f with
  | .rows g => atRowGroup g (BitVec.ofNat 2048 (v 0))
  | _ => 0

/-- The registers with the data of a landing entry. -/
def Arch.arrive (a : Arch) (l : Landing) : Arch :=
  let v := knownOf l.known
  let a1 := { a with s := a.s.fill l.id (l.form.word v), v := a.v.fill l.id (l.form.vec v),
                     t := a.t.fill l.id (l.form.tile v) }
  a1.advance a1.sched

/-- The context with the data of a landing entry. -/
def Ctx.arrive (c : Ctx) (l : Landing) : Ctx :=
  { c with arch := c.arch.arrive l, ckpt := c.ckpt.arrive l,
           hs := (c.hs.fill l.id (l.form.word (knownOf l.known))).advance c.arch.sched,
           landings := c.landings.map fun k => if k.id = l.id then { l with arrived := true } else k }

/-- The bytes that an ask takes of a result x: with the context's own withheld operations on them made (R77). -/
def Ask.bytes (q : Ask) (own : List WithheldOp) (x : Nat) : Nat :=
  let size := q.skip + q.n
  let m := own.foldl WithheldOp.overlay (memWriteCells [] (cellsAt (homePa q.pa) (leBytes (Nat.max 64 size) x)))
  memNat m (homePa q.pa + q.skip) q.n

/-- The elements' numbers with what one ask brings. -/
def takeAsk (own : List WithheldOp) (x : Nat) (known : List (Nat × Nat)) (q : Ask) : List (Nat × Nat) :=
  (q.elem, knownOf known q.elem + q.bytes own x * 2 ^ (8 * q.off)) :: known.filter fun p => p.1 != q.elem

/-- The ask waits for this request. -/
def Ask.isFor (dest lane seq : Nat) (q : Ask) : Bool := q.dest == dest && q.lane == lane && q.seq == seq

/-- The entry with the result of one of its requests; of a poisoned line nothing is delivered, and a Machine Check is to be
raised, which names the line (R65, R299). -/
def Landing.take (l : Landing) (dest lane seq : Nat) (x : Option Nat) : Landing :=
  match l.asks.filter (Ask.isFor dest lane seq) with
  | [] => l
  | q :: qs =>
    let rest := l.asks.filter fun p => !p.isFor dest lane seq
    match x with
    | none => { l with asks := rest, bad := some (0x20, BitVec.ofNat 64 (homePa q.pa / 64 * 64)) }
    | some x => { l with asks := rest, known := (q :: qs).foldl (takeAsk l.own x) l.known }

/-- Every request of the entry has brought its result: the data arrive, or the trap that they raise stands in the entry. -/
def Ctx.complete (c : Ctx) (l : Landing) : Ctx :=
  match l.bad.or (l.form.fails (knownOf l.known)) with
  | none => c.arrive l
  | some b => { c with landings := c.landings.map fun k => if k.id = l.id then { l with arrived := true, bad := some b } else k }

/-- A result that a request of context n brings back: the landing entries that wait for it take it. -/
def deliverResult (s : State) (n dest lane seq : Nat) (x : Option Nat) : State :=
  (s.ctxOf n).landings.foldl (fun s l =>
    let l1 := l.take dest lane seq x
    if l1 = l then s
    else if l1.asks.isEmpty then s.setCtxOf n ((s.ctxOf n).complete l1)
    else s.setCtxOf n { s.ctxOf n with landings := (s.ctxOf n).landings.map fun k => if k.id = l.id then l1 else k }) s

/-! ### Own requests at their destinations -/

/-- Own request r, one of those together, has none before it on its lane but of these: the first of the lane that is not
acknowledged is one of them and has the lane's next number (R103). -/
def ownNext (s : State) (together : List FabReq) (r : FabReq) : Bool :=
  match s.fabric.out.find? fun o => o.req.dest == r.dest && o.req.lane == r.lane with
  | some o => decide (o.req ∈ together) && o.req.seq == amGet 0 s.fabric.performedAt (laneOf r.dest r.lane) + 1
  | none => false

/-- Requests that take their place together with own request r: those of one access to one module (R76). -/
def togetherWith (s : State) (r : FabReq) : List FabReq :=
  match s.fabric.out.find? fun o => o.req == r with
  | some o => (s.fabric.out.filter fun p => p.access == o.access && p.req.dest == r.dest).map FabOut.req
  | none => []

/-- Own request r takes its place at its destination, with the others of its access, when they are the next of their lanes; a
number performed before is discarded (R76, R103, R105). -/
def performOwn (s : State) (r : FabReq) : State :=
  let rs := togetherWith s r
  if reachable s r.dest && !rs.isEmpty && rs.all (ownNext s rs) then
    let x := performActs s (fabHome r.dest) (rs.map FabReq.act)
    (rs.zip x.2).foldl (fun s p =>
      let k := laneOf p.1.dest p.1.lane
      { s with fabric := { s.fabric with performedAt := amSet s.fabric.performedAt k p.1.seq,
                                         results := (p.1.src, k, p.1.seq, p.2) :: s.fabric.results },
               work := s.work ++ [.fabricAcknowledgement p.1.dest p.1.lane p.1.seq] }) x.1
  else s

/-- A performed request is acknowledged, unless its destination is lost: it leaves the port, and its result arrives
(R103, R105). -/
def acknowledge (s : State) (dest lane seq : Nat) : State :=
  if seq ≤ amGet 0 s.fabric.performedAt (laneOf dest lane) && reachable s dest then
    let mine := fun (o : FabOut) => o.req.dest == dest && o.req.lane == lane && o.req.seq == seq
    let x := match s.fabric.results.find? fun r =>
        r.1 == Config.moduleNumber.toNat && r.2.1 == laneOf dest lane && r.2.2.1 == seq with
      | some r => r.2.2.2
      | none => some 0
    let s1 := { s with fabric := { s.fabric with out := s.fabric.out.filter fun o => !mine o } }
    (s.fabric.out.filter mine).foldl (fun s o => deliverResult s o.ctx dest lane seq x) s1
  else s

/-- The lanes of a module with those of the accesses that have a request on one of them. -/
def joinedLanes (s : State) (dest : Nat) (lanes : List Nat) : List Nat :=
  let as := (s.fabric.out.filter fun o => o.req.dest == dest && decide (o.req.lane ∈ lanes)).map FabOut.access
  (s.fabric.out.filter fun o => o.req.dest == dest && decide (o.access ∈ as)).foldl (fun ls o => insertOnce o.req.lane ls) lanes

/-- Lanes of a module whose requests must be performed before those of one lane: accesses of several lines join them. -/
def lanesBefore (s : State) (dest lane : Nat) : List Nat := (upto 16).foldl (fun ls _ => joinedLanes s dest ls) [lane]

/-- Every request of a lane that has been sent is performed and acknowledged, in order, and those that these follow (R84). -/
def drainLane (s : State) (dest lane : Nat) : State :=
  let lanes := lanesBefore s dest lane
  (s.fabric.out.filter fun o => o.req.dest == dest && decide (o.req.lane ∈ lanes)).foldl
    (fun s o => acknowledge (performOwn s o.req) dest o.req.lane o.req.seq) s

/-- A request of access a stored for sending, with the next number of its lane; its arrival is an event (R103). -/
def fabSendAs (s : State) (a ctx eng num pa : Nat) (act : MemAct) : State :=
  let dest := fabModule pa
  let k := laneOf dest (fabLane pa)
  let r : FabReq := { src := Config.moduleNumber.toNat, dest := dest, lane := fabLane pa,
                      seq := amGet 0 s.fabric.sent k + 1, act := act }
  { s with fabric := { s.fabric with sent := amSet s.fabric.sent k r.seq,
                                     out := s.fabric.out ++ [{ ctx := ctx, eng := eng, num := num, access := a, req := r }] },
           work := s.work ++ [.fabricRequestArrival r] }

/-- A new access begins: the number of its requests. -/
def newAccess (s : State) : State := { s with fabric := { s.fabric with nextAccess := s.fabric.nextAccess + 1 } }

/-- The request of an access of its own. -/
def fabSend (s : State) (ctx eng num pa : Nat) (act : MemAct) : State :=
  fabSendAs (newAccess s) s.fabric.nextAccess ctx eng num pa act

/-- Things with addresses gathered by physical line, lines in the order of their first. -/
def byLine {α : Type} (addr : α → Nat) (xs : List α) : List (Nat × List α) :=
  (xs.foldl (fun ls x => insertOnce (addr x / 64) ls) []).map fun l => (l, xs.filter fun x => addr x / 64 == l)

/-- Number of the last request sent on the lane of an address (R103). -/
def lastSeq (s : State) (pa : Nat) : Nat := amGet 0 s.fabric.sent (laneOf (fabModule pa) (fabLane pa))

/-- A byte that a load asks for: its element, its place in the element, its physical address. -/
structure FarByte where
  elem : Nat
  off : Nat
  pa : Nat
deriving DecidableEq, Repr

/-- The read requests of one access of the context in issue: one for each line, of the whole line (R84; how an access is
split: DESIGN CHOICE, log 116). -/
def askLines (s : State) (bytes : List FarByte) : State × List Ask :=
  (byLine FarByte.pa bytes).foldl (fun (x : State × List Ask) r =>
    let pa := 64 * r.1
    let s1 := fabSendAs x.1 s.fabric.nextAccess x.1.cur 6 0 pa (.read (bitsOf pa 0 40) 64)
    (s1, x.2 ++ r.2.map fun b => { elem := b.elem, off := b.off, skip := b.pa % 64, n := 1, pa := pa, dest := fabModule pa,
                                   lane := fabLane pa, seq := lastSeq s1 pa })) (newAccess s, [])

/-- The landing entry taken last waits for these requests, and so do the writes made since s0 (R84, R134). own: the withheld
operations that the data pass under. -/
def awaitAsks (s0 s : State) (form : LoadForm) (known : List (Nat × Nat)) (asks : List Ask) (own : List WithheldOp := []) :
    State :=
  let c := s.ctx
  let id := c.nextLanding - 1
  let a := c.arch
  let b := s0.ctx.arch
  s.setCtx { c with
    arch := { a with s := a.s.await b.s id, v := a.v.await b.v id, t := a.t.await b.t id },
    hs := c.hs.await s0.ctx.hs id,
    landings := c.landings.map fun l =>
      if l.id = id then { l with asks := asks, known := known, form := form, own := own, arrived := false } else l }

/-- Stores of one access through the fabric window become requests, one for each line (R84; DESIGN CHOICE, log 116). -/
def fabStore (s : State) (ctx eng num : Nat) (cells : List (Nat × Byte)) : State :=
  (byLine Prod.fst cells).foldl (fun t r =>
    fabSendAs t s.fabric.nextAccess ctx eng num (64 * r.1) (.writes (r.2.map fun c => (bitsOf c.1 0 40, c.2)))) (newAccess s)

/-- The stores of one access sent and performed after every earlier request of their lanes. -/
def fabStoreNow (s : State) (ctx : Nat) (cells : List (Nat × Byte)) : State :=
  let lines := byLine Prod.fst cells
  let drain := fun (s : State) => lines.foldl (fun s r => drainLane s (fabModule (64 * r.1)) (fabLane (64 * r.1))) s
  if cells.isEmpty then s else drain (fabStore (drain s) ctx 6 0 cells)

/-- The lines of one read sent for and read after every earlier request of their lanes. -/
def fabReadNow (s : State) (ctx : Nat) (lines : List Nat) : State :=
  let drain := fun (s : State) => lines.foldl (fun s l => drainLane s (fabModule (64 * l)) (fabLane (64 * l))) s
  let s1 := drain s
  drain (lines.foldl (fun t l => fabSendAs t s1.fabric.nextAccess ctx 6 0 (64 * l) (.read (bitsOf (64 * l) 0 40) 64)) (newAccess s1))

/-- Requests of context n that are not acknowledged; those of an engine command when eng < 6. -/
def pendingOut (s : State) (n : Nat) (p : FabOut → Bool) : List FabOut := s.fabric.out.filter fun o => o.ctx == n && p o

/-- The module to which some of the requests are lost, and how many are unacknowledged (R105). -/
def lostOut (s : State) (os : List FabOut) : Option (Nat × Nat) :=
  match os.find? fun o => !reachable s o.req.dest with
  | none => none
  | some o => some (o.req.dest, (s.fabric.out.filter fun p => p.ctx == o.ctx && p.req.dest == o.req.dest).length)

/-- A Fabric Delivery Fault: event 0 fence, 1 timeline wait, 2 load, 3 returning atomic (R105, Table 15-3a). -/
def fabricTrap (s : State) (sl event dest lost : Nat) : Trap :=
  { cause := 0x1F, slot := sl, fault := BitVec.ofNat 64 (dest * 2 ^ 48 + lost % 2 ^ 32), bva := s.bundle.addr,
    pages := none, extra := [dest, lost, event + (if event = 3 then 256 else 0)] }

/-! ### Events -/

/-- First and last addresses of what an access names. -/
def actOffsets : MemAct → List Nat
  | .read o n => [o, o + n - 1]
  | .write o bs => [o, o + bs.length - 1]
  | .writes cs => cs.map Prod.fst
  | .atomic _ ty o _ _ => [o, o + ty.bytes - 1]

/-- Records held for a ring beyond a module that has just been cut off are counted for management (R308). -/
def countHeld (s0 s : State) : State :=
  let n := ((s.rings.filter fun p => p.1 ≤ 8 && p.2.enabled && p.2.remote && !cutOff s0 (fabModule p.2.base)
    && cutOff s (fabModule p.2.base)).map fun p => p.2.held.length).foldl (· + ·) 0
  if n = 0 then s else { s with counted := amMod 0 s.counted 2 (· + n) }

/-- FABRIC_REQUEST_ARRIVAL (R84, R103). One of this module's own requests reaches its destination, or waits for the ones
before it; a request of another module is performed in sequence order, and one performed before is discarded. -/
def execFabricRequestArrival (r : FabReq) (s : State) : Out :=
  if s.fabric.out.any fun o => o.req == r then
    let s1 := performOwn s r
    .next (if amGet 0 s1.fabric.performedAt (laneOf r.dest r.lane) < r.seq && reachable s r.dest then
             { s1 with work := s1.work ++ [.fabricRequestArrival r] }
           else s1)
  else if r.dest = Config.moduleNumber.toNat && r.src ≠ Config.moduleNumber.toNat then
    let k := laneOf r.src r.lane
    let seen := amGet 0 s.fabric.seen k
    if r.seq = seen + 1 then
      match (actOffsets r.act).find? fun off => decide (2 ^ 40 ≤ off) with
      | some off => .fault (.addressGap off)
      | none =>
        let x := performActs s (fabHome r.dest) [r.act]
        .next { x.1 with fabric := { x.1.fabric with
          seen := amSet x.1.fabric.seen k r.seq,
          results := (r.src, r.lane, r.seq, x.2.headD none) :: x.1.fabric.results } }
    else if seen + 1 < r.seq then .next { s with work := s.work ++ [.fabricRequestArrival r] }
    else .next s
  else .next s

/-- LINK_FAILURE (R104): counted; the port resends what is not acknowledged, in order and as stored. The module has 32
ports (R1); with the last of them every module is out of reach (R105). -/
def execLinkFailure (link : Nat) (s : State) : Out :=
  if 32 ≤ link || link ∈ s.fabric.failedLinks then .next s
  else .next <| countHeld s { s with
    fabric := { s.fabric with failedLinks := s.fabric.failedLinks ++ [link] },
    counted := amMod 0 s.counted 1 (· + 1),
    work := s.work ++ s.fabric.out.map fun o => .fabricRequestArrival o.req }

/-- DESTINATION_UNREACHABLE (R105): requests to it are no longer delivered. -/
def execDestinationUnreachable (dest : Nat) (s : State) : Out :=
  .next (countHeld s { s with fabric := { s.fabric with unreachable := insertOnce dest s.fabric.unreachable } })

/-- LINK_LEVEL_RETRY (R103): an unacknowledged request is resent as it was stored, unless the link has failed. -/
def execLinkLevelRetry (link : Nat) (r : FabReq) (s : State) : Out :=
  if !(link ∈ s.fabric.failedLinks) && s.fabric.out.any fun o => o.req == r then
    .next { s with work := s.work ++ [.fabricRequestArrival r] }
  else .next s

/-- FABRIC_ACKNOWLEDGEMENT (R105): a performed request leaves the port, unless its destination is lost. -/
def execFabricAcknowledgement (dest lane seq : Nat) (s : State) : Out := .next (acknowledge s dest lane seq)

end Sys2Proof.Machine
end

