-- ==== Sys2Proof/Machine/Ring.lean ====
section
/-! DEFINITION. The delivery of the records that rings hold (R303, R306 to R308). -/

namespace Sys2Proof.Machine

/-- Number under which the requests of ring k are sent: no context's. -/
def ringAgent (k : Nat) : Nat := 2 ^ 30 + k

/-- The saved context under key n is parked no more. -/
def unparkSaved (s : State) (n : Nat) : State :=
  let s1 := s.setCtxOf n (s.ctxOf n).resumeTask
  { s1 with images := s1.images.map fun p => if savedKey p.1 = n then (p.1, { p.2 with parked := false }) else p }

/-- The context that runs or holds this task, parked for a record that was held, goes on (R303, R306): of a gang all
ranks. A saved context is parked no more, and a saved gang's ranks with it. -/
def resumeDelivered (s : State) (t : Nat × Nat) : State :=
  match s.ctxs.find? fun p => p.2.life ≠ .idle && p.2.parked && p.2.launch == t.1 && p.2.task == t.2 with
  | none => s
  | some p =>
    if p.1 < 2 ^ 20 then ctlResume s (if p.2.gang then p.1 / 64 * 64 else p.1)
    else
      let mates := (s.ctxs.filter fun q => decide (2 ^ 20 ≤ q.1) && q.2.gang && q.2.parked && q.2.launch == p.2.launch
        && q.2.levels.drop 1 == p.2.levels.drop 1).map Prod.fst
      (if p.2.gang then mates else [p.1]).foldl unparkSaved s

/-- The oldest entry of ring k has been delivered. -/
def ringDelivered (s : State) (k : Nat) (e : HeldEntry) : State :=
  let s1 := { s with rings := amMod Ring.reset s.rings k fun r => { r with held := r.held.drop 1, stage := 0, sent := [] } }
  match e.resume with | some t => resumeDelivered s1 t | none => s1

/-- A request of ring k that has not been performed and acknowledged at the peer. -/
def ringPending (s : State) (r : Ring) : Bool :=
  s.fabric.out.any fun o => r.sent.any fun q => o.req.dest == q.1 && o.req.lane == q.2.1 && o.req.seq == q.2.2

/-- Requests that stand in the port and did not before. -/
def newRequests (s s1 : State) : List (Nat × Nat × Nat) :=
  (s1.fabric.out.drop s.fabric.out.length).map fun o => (o.req.dest, o.req.lane, o.req.seq)

/-- Ring k's next step with its oldest held entry: written here, or through the fabric window, first the entry, then, once
it has been performed at the peer, the advance of TAIL by a fabric atomic add (R307, R308). -/
def ringStep (s : State) (k : Nat) : State :=
  let r := amGet Ring.reset s.rings k
  match r.held with
  | [] => s
  | e :: _ =>
    if !r.remote then (if ringTakes s r e.bytes then ringDelivered (ringPut s k r e.bytes) k e else s)
    else if r.stage = 0 then
      (if r.open_ s.mem && reachable s (fabModule r.base) then
         let s1 := fabStore s (ringAgent k) 6 0 (cellsAt r.place e.bytes)
         { s1 with rings := amSet s1.rings k { r with stage := 1, sent := newRequests s s1 } }
       else s)
    else if ringPending s r then s
    else if r.stage = 1 then
      let s1 := fabSend s (ringAgent k) 6 0 r.base (.atomic 0 .z64 (bitsOf r.base 0 40) 1 0)
      { s1 with rings := amSet s1.rings k { r with stage := 2, tail := r.tail + 1, sent := newRequests s s1 } }
    else ringDelivered s k e

/-- Rings move on by one step each, once HBM is usable (R70). -/
def ringsStep (s : State) : State :=
  if !s.hbmReady || s.rings.all fun p => p.2.held.isEmpty then s
  else (s.rings.filter fun p => p.1 ≤ 8 && !p.2.held.isEmpty).foldl (fun s p => ringStep s p.1) s

end Sys2Proof.Machine
end

