-- ==== Sys2Proof/WellFormed.lean ====
section
/-! DEFINITION. Well-formed instructions: the operand values that the encodings of chapters 8 to 13 admit. -/

namespace Sys2Proof

/-- An instruction whose unused fields are zero (REASON 0x08), whose register codes and types its entry admits
(REASON 0x09), and whose operands lie in the range its entry states (REASON 0x0E). Window limits, gang limits and the
class of the bundle are checked at issue, on the state. -/
abbrev Instr.WellFormed (i : Instr) : Prop :=
  i.fieldsOk = true ∧ i.codeOk = true ∧ i.rangeOk = true

end Sys2Proof
end

