-- ==== Sys2Proof/Decode.lean ====
section
/-! DEFINITION. Decoding: the bundle's header and slot words, the operation of a slot word, total and rejecting by
name; then the encoder. A slot word and a bundle are natural numbers, bit b of the number being bit b of the word
(R152). -/

namespace Sys2Proof

/-- Why a slot word is no operation; the code is the REASON of Table 8-16. -/
inductive Reject where
  /-- Unassigned opcode, 0xFF, or a V1-only opcode in V0 (R163). Safe: the operation traps. -/
  | unassigned
  /-- A non-zero reserved, zero or unused field; a NOP with a non-zero bit (R156, R159). Safe: it traps. -/
  | reservedBits
  /-- A reserved or wrong-kind register code, element type, class, rc or register number (R160 to R162). Safe: it
  traps. -/
  | reservedCode
deriving DecidableEq, Repr

/-- REASON of a rejection (Table 8-16). -/
def Reject.reason : Reject → Nat
  | .unassigned => 0x07 | .reservedBits => 0x08 | .reservedCode => 0x09

/-- The m-bit field of w whose lowest bit is k. -/
def fld (w k m : Nat) : Nat := w / 2^k % 2^m

/-- The field of w from bit k upward, as wide as its operand. -/
def bv {n : Nat} (w k : Nat) : BitVec n := BitVec.ofNat n (w / 2^k)

/-- Bit k of w. -/
def bit (w k : Nat) : Bool := w / 2^k % 2 == 1

/-- Guard of a 64-bit slot word (R159). -/
def guard64 (w : Nat) : Guard := { neg := bit w 55, pred := bv w 51 }

/-- Guard of a 48-bit slot word (R159). -/
def guard48 (w : Nat) : Guard := { neg := bit w 39, pred := bv w 35 }

/-- Element type at bit k. -/
def tyAt (w k : Nat) : Option Ty := Ty.ofCode (fld w k 4)
/-- Integer condition at bit k. -/
def icondAt (w k : Nat) : Option ICond := ICond.ofCode (fld w k 4)
/-- Floating-point condition at bit k. -/
def fcondAt (w k : Nat) : Option FCond := FCond.ofCode (fld w k 4)
/-- Rounding at bit k. -/
def rmAt (w k : Nat) : Rm := Rm.ofCode (fld w k 2)
/-- Type of an atomic at bit k. -/
def atyAt (w k : Nat) : ATy := ATy.ofCode (fld w k 2)
/-- Target of rdsp and wrsp (format E). -/
def spRegAt (w : Nat) : Option SpReg := SpReg.ofCode (fld w 41 4) (fld w 29 12)

/-- Fields of mma, mmaz and mmam (R215); a reserved class has none. -/
def mmaAt (w : Nat) : Option MmaOp := do
  let ca ← Cls.ofCode (fld w 20 4)
  let cb ← Cls.ofCode (fld w 16 4)
  some { acc := bv w 39, ta := bv w 36, tb := bv w 33, v := bv w 24, ca := ca, cb := cb, taT := bit w 15,
         tbT := bit w 14, al := bit w 13, mr := if bit w 12 then some (bv w 8) else none }

/-- One operation: its zero fields are checked first (REASON 0x08), then its codes (REASON 0x09), as R165 orders
them. gaps lists the zero fields as lowest bit and width; fixOk is the check of a field with one legal value. -/
def arm (w : Nat) (gaps : List (Nat × Nat)) (fixOk : Bool) (op : Option Instr) : Except Reject Instr :=
  if gaps.all (fun p => fld w p.1 p.2 == 0) && fixOk then
    match op with
    | none => .error .reservedCode
    | some i => if !i.fieldsOk then .error .reservedBits else if i.codeOk then .ok i else .error .reservedCode
  else .error .reservedBits

/-- The S slot (R163, Table 8-8). -/
def decodeS (w : Nat) : Except Reject Instr :=
  let g := guard64 w
  match w / 2^56 % 256 with
  | 0x00 => if w = 0 then .ok (.nop .s) else .error .reservedBits
  | 0x01 => arm w [(0, 33)] true (some (.add g (bv w 45) (bv w 39) (bv w 33)))
  | 0x02 => arm w [(0, 33)] true (some (.sub g (bv w 45) (bv w 39) (bv w 33)))
  | 0x03 => arm w [(0, 33)] true (some (.mul g (bv w 45) (bv w 39) (bv w 33)))
  | 0x04 => arm w [(0, 19), (20, 13)] true (some (.mulh g (bit w 19) (bv w 45) (bv w 39) (bv w 33)))
  | 0x05 => arm w [(0, 19), (20, 13)] true (some (.div g (bit w 19) (bv w 45) (bv w 39) (bv w 33)))
  | 0x06 => arm w [(0, 19), (20, 13)] true (some (.rem g (bit w 19) (bv w 45) (bv w 39) (bv w 33)))
  | 0x07 => arm w [(0, 33)] true (some (.and g (bv w 45) (bv w 39) (bv w 33)))
  | 0x08 => arm w [(0, 33)] true (some (.or g (bv w 45) (bv w 39) (bv w 33)))
  | 0x09 => arm w [(0, 33)] true (some (.xor g (bv w 45) (bv w 39) (bv w 33)))
  | 0x0A => arm w [(0, 33)] true (some (.andn g (bv w 45) (bv w 39) (bv w 33)))
  | 0x0B => arm w [(0, 33)] true (some (.shl g (bv w 45) (bv w 39) (bv w 33)))
  | 0x0C => arm w [(0, 19), (20, 13)] true (some (.shr g (bit w 19) (bv w 45) (bv w 39) (bv w 33)))
  | 0x0D => arm w [(0, 19), (20, 13)] true (some (.min g (bit w 19) (bv w 45) (bv w 39) (bv w 33)))
  | 0x0E => arm w [(0, 19), (20, 13)] true (some (.max g (bit w 19) (bv w 45) (bv w 39) (bv w 33)))
  | 0x10 => arm w [(32, 7)] true (some (.addi g (bv w 45) (bv w 39) (bv w 0)))
  | 0x11 => arm w [(32, 7)] true (some (.andi g (bv w 45) (bv w 39) (bv w 0)))
  | 0x12 => arm w [(32, 7)] true (some (.ori g (bv w 45) (bv w 39) (bv w 0)))
  | 0x13 => arm w [(32, 7)] true (some (.xori g (bv w 45) (bv w 39) (bv w 0)))
  | 0x14 => arm w [(32, 7)] true (some (.shli g (bv w 45) (bv w 39) (bv w 0)))
  | 0x15 => arm w [(33, 6)] true (some (.shri g (bit w 32) (bv w 45) (bv w 39) (bv w 0)))
  | 0x16 => arm w [(32, 13)] true (some (.movi g (bv w 45) (bv w 0)))
  | 0x17 => arm w [(32, 7)] true (some (.movhi g (bv w 45) (bv w 39) (bv w 0)))
  | 0x18 => arm w [(35, 4)] true (some (.lea g (bv w 32) (bv w 45) (bv w 39) (bv w 0)))
  | 0x20 => arm w [(0, 27)] true (do let cc ← icondAt w 27; some (.cmp g cc (bv w 47) (bv w 43) (bv w 37) (bv w 31)))
  | 0x21 => arm w [(20, 7), (31, 6)] true (do let cc ← icondAt w 27; some (.cmpi g cc (bv w 47) (bv w 43) (bv w 37) (bv w 0)))
  | 0x22 => arm w [(0, 27)] true (do let fc ← fcondAt w 27; some (.fcmp g fc (bv w 47) (bv w 43) (bv w 37) (bv w 31)))
  | 0x23 => arm w [(0, 20), (24, 7), (35, 2), (41, 2)] true (some (.plog g (bv w 47) (bv w 43) (bv w 37) (bv w 31) (bv w 20)))
  | 0x30 => arm w [(0, 33)] true (some (.fadd g (bv w 45) (bv w 39) (bv w 33)))
  | 0x31 => arm w [(0, 33)] true (some (.fsub g (bv w 45) (bv w 39) (bv w 33)))
  | 0x32 => arm w [(0, 33)] true (some (.fmul g (bv w 45) (bv w 39) (bv w 33)))
  | 0x33 => arm w [(0, 27)] true (some (.ffma g (bv w 45) (bv w 39) (bv w 33) (bv w 27)))
  | 0x34 => arm w [(0, 33)] true (some (.fdiv g (bv w 45) (bv w 39) (bv w 33)))
  | 0x35 => arm w [(0, 39)] true (some (.fsqrt g (bv w 45) (bv w 39)))
  | 0x36 => arm w [(0, 33)] true (some (.fmin g (bv w 45) (bv w 39) (bv w 33)))
  | 0x37 => arm w [(0, 33)] true (some (.fmax g (bv w 45) (bv w 39) (bv w 33)))
  | 0x38 => arm w [(0, 19), (27, 12)] true (some (.fcvt g (bv w 23) (bit w 22) (rmAt w 20) (bit w 19) (bv w 45) (bv w 39)))
  | 0x40 => arm w [(0, 26)] true (some (.br g (bv w 26)))
  | 0x41 => arm w [(0, 14), (20, 6)] true (some (.call g (bv w 14) (bv w 26)))
  | 0x42 => arm w [(0, 20), (26, 25)] true (some (.jmp g (bv w 20)))
  | 0x43 => arm w [(0, 14), (26, 25)] true (some (.calli g (bv w 14) (bv w 20)))
  | 0x44 => arm w [(0, 20), (26, 25)] true (some (.ret g (bv w 20)))
  | 0x45 => arm w [(0, 14), (20, 6)] true (some (.loop g (bv w 14) (bv w 26)))
  | 0x48 => arm w [(0, 51)] true (some (.tret g))
  | 0x50 => arm w [(0, 29)] true (do let r ← spRegAt w; some (.rdsp g (bv w 45) r))
  | 0x51 => arm w [(0, 29)] true (do let r ← spRegAt w; some (.wrsp g (bv w 45) r))
  | _ => .error .unassigned

/-- The V0 or V1 slot (R163, Table 8-9). -/
def decodeV (v1 : Bool) (w : Nat) : Except Reject Instr :=
  let g := guard64 w
  match w / 2^56 % 256 with
  | 0x00 => if w = 0 then .ok (.nop (vSlot v1)) else .error .reservedBits
  | 0x01 => arm w [(1, 7), (15, 9)] true (do let ty ← tyAt w 8; some (.vadd g v1 ty (bit w 0) (bv w 42) (bv w 33) (bv w 24) (bv w 12)))
  | 0x02 => arm w [(1, 7), (15, 9)] true (do let ty ← tyAt w 8; some (.vsub g v1 ty (bit w 0) (bv w 42) (bv w 33) (bv w 24) (bv w 12)))
  | 0x03 => arm w [(1, 7), (15, 9)] true (do let ty ← tyAt w 8; some (.vmul g v1 ty (bit w 0) (bv w 42) (bv w 33) (bv w 24) (bv w 12)))
  | 0x04 => arm w [(0, 8), (15, 9)] true (do let ty ← tyAt w 8; some (.vmulh g v1 ty (bv w 42) (bv w 33) (bv w 24) (bv w 12)))
  | 0x05 => arm w [(0, 8), (15, 9)] true (do let ty ← tyAt w 8; some (.vmin g v1 ty (bv w 42) (bv w 33) (bv w 24) (bv w 12)))
  | 0x06 => arm w [(0, 8), (15, 9)] true (do let ty ← tyAt w 8; some (.vmax g v1 ty (bv w 42) (bv w 33) (bv w 24) (bv w 12)))
  | 0x07 => arm w [(1, 7), (15, 18)] true (do let ty ← tyAt w 8; some (.vabs g v1 ty (bit w 0) (bv w 42) (bv w 33) (bv w 12)))
  | 0x08 => arm w [(1, 7), (15, 18)] true (do let ty ← tyAt w 8; some (.vneg g v1 ty (bit w 0) (bv w 42) (bv w 33) (bv w 12)))
  | 0x09 => arm w [(0, 8), (15, 9)] true (do let ty ← tyAt w 8; some (.vand g v1 ty (bv w 42) (bv w 33) (bv w 24) (bv w 12)))
  | 0x0A => arm w [(0, 8), (15, 9)] true (do let ty ← tyAt w 8; some (.vor g v1 ty (bv w 42) (bv w 33) (bv w 24) (bv w 12)))
  | 0x0B => arm w [(0, 8), (15, 9)] true (do let ty ← tyAt w 8; some (.vxor g v1 ty (bv w 42) (bv w 33) (bv w 24) (bv w 12)))
  | 0x0C => arm w [(0, 8), (15, 9)] true (do let ty ← tyAt w 8; some (.vandn g v1 ty (bv w 42) (bv w 33) (bv w 24) (bv w 12)))
  | 0x0D => arm w [(0, 8), (15, 9)] true (do let ty ← tyAt w 8; some (.vshl g v1 ty (bv w 42) (bv w 33) (bv w 24) (bv w 12)))
  | 0x0E => arm w [(0, 8), (15, 9)] true (do let ty ← tyAt w 8; some (.vshr g v1 ty (bv w 42) (bv w 33) (bv w 24) (bv w 12)))
  | 0x0F => arm w [(0, 8), (15, 9)] true (do let ty ← tyAt w 8; some (.vsel g v1 ty (bv w 42) (bv w 33) (bv w 24) (bv w 12)))
  | 0x10 => arm w [(17, 9)] true (do let ty ← tyAt w 26; some (.vaddi g v1 ty (bit w 16) (bv w 42) (bv w 33) (bv w 30) (bv w 0)))
  | 0x11 => arm w [(16, 10)] true (do let ty ← tyAt w 26; some (.vandi g v1 ty (bv w 42) (bv w 33) (bv w 30) (bv w 0)))
  | 0x12 => arm w [(16, 4)] true (do let ty ← tyAt w 26; some (.vshli g v1 ty (bv w 42) (bv w 33) (bv w 30) (bv w 20) (bv w 0)))
  | 0x13 => arm w [(16, 4)] true (do let ty ← tyAt w 26; some (.vshri g v1 ty (bv w 42) (bv w 33) (bv w 30) (bv w 20) (bv w 0)))
  | 0x14 => arm w [(16, 10), (33, 9)] true (do let ty ← tyAt w 26; some (.vmovi g v1 ty (bv w 42) (bv w 30) (bv w 0)))
  | 0x20 => arm w [(0, 8), (15, 9)] true (do let ty ← tyAt w 8; some (.vfadd g v1 ty (bv w 42) (bv w 33) (bv w 24) (bv w 12)))
  | 0x21 => arm w [(0, 8), (15, 9)] true (do let ty ← tyAt w 8; some (.vfsub g v1 ty (bv w 42) (bv w 33) (bv w 24) (bv w 12)))
  | 0x22 => arm w [(0, 8), (15, 9)] true (do let ty ← tyAt w 8; some (.vfmul g v1 ty (bv w 42) (bv w 33) (bv w 24) (bv w 12)))
  | 0x23 => arm w [(0, 8)] true (do let ty ← tyAt w 8; some (.vffma g v1 ty (bv w 42) (bv w 33) (bv w 24) (bv w 15) (bv w 12)))
  | 0x24 => arm w [(0, 8)] true (do let ty ← tyAt w 8; some (.vfnma g v1 ty (bv w 42) (bv w 33) (bv w 24) (bv w 15) (bv w 12)))
  | 0x25 => arm w [(0, 8), (15, 9)] true (do let ty ← tyAt w 8; some (.vfdiv g v1 ty (bv w 42) (bv w 33) (bv w 24) (bv w 12)))
  | 0x26 => arm w [(0, 8), (15, 18)] true (do let ty ← tyAt w 8; some (.vfsqrt g v1 ty (bv w 42) (bv w 33) (bv w 12)))
  | 0x27 => arm w [(0, 8), (15, 9)] true (do let ty ← tyAt w 8; some (.vfmin g v1 ty (bv w 42) (bv w 33) (bv w 24) (bv w 12)))
  | 0x28 => arm w [(0, 8), (15, 9)] true (do let ty ← tyAt w 8; some (.vfmax g v1 ty (bv w 42) (bv w 33) (bv w 24) (bv w 12)))
  | 0x29 => arm w [(0, 8), (15, 18)] true (do let ty ← tyAt w 8; some (.vfabs g v1 ty (bv w 42) (bv w 33) (bv w 12)))
  | 0x2A => arm w [(0, 8), (15, 18)] true (do let ty ← tyAt w 8; some (.vfneg g v1 ty (bv w 42) (bv w 33) (bv w 12)))
  | 0x30 => arm w [(3, 2), (15, 9), (28, 5)] true (do let dt ← tyAt w 8; let st ← tyAt w 24; some (.vcvt g v1 dt st (bv w 5) (bit w 2) (rmAt w 0) (bv w 42) (bv w 33) (bv w 12)))
  | 0x31 => arm w [(3, 2), (15, 9)] true (do let dt ← tyAt w 8; some (.vcvts g v1 dt (bv w 5) (bit w 2) (rmAt w 0) (bv w 42) (bv w 33) (bv w 24) (bv w 12)))
  | 0x32 => arm w [(15, 18)] true (if fld w 8 4 ≠ 8 then none else some (.vsbpk g v1 (bv w 3) (bv w 5) (bit w 2) (rmAt w 0) (bv w 42) (bv w 33) (bv w 12)))
  | 0x33 => arm w [(15, 18)] true (if fld w 8 4 ≠ 8 then none else some (.vsbun g v1 (bv w 3) (bv w 5) (bit w 2) (rmAt w 0) (bv w 42) (bv w 33) (bv w 12)))
  | 0x40 => arm w [(1, 7), (15, 9)] true (do let ty ← tyAt w 8; some (.vperm g v1 ty (bit w 0) (bv w 42) (bv w 33) (bv w 24) (bv w 12)))
  | 0x41 => arm w [(16, 4)] true (do let ty ← tyAt w 26; some (.vrot g v1 ty (bv w 42) (bv w 33) (bv w 30) (bv w 20) (bv w 0)))
  | 0x42 => arm w [(16, 4)] true (do let ty ← tyAt w 26; some (.vbcl g v1 ty (bv w 42) (bv w 33) (bv w 30) (bv w 20) (bv w 0)))
  | 0x43 => arm w [(1, 7), (15, 9)] true (do let ty ← tyAt w 8; some (.vzip g v1 ty (bit w 0) (bv w 42) (bv w 33) (bv w 24) (bv w 12)))
  | 0x44 => arm w [(1, 7), (15, 9)] true (do let ty ← tyAt w 8; some (.vuzp g v1 ty (bit w 0) (bv w 42) (bv w 33) (bv w 24) (bv w 12)))
  | 0x45 => arm w [(0, 8), (15, 18)] true (do let ty ← tyAt w 8; some (.vcomp g v1 ty (bv w 42) (bv w 33) (bv w 12)))
  | 0x46 => arm w [(0, 8), (15, 18)] true (do let ty ← tyAt w 8; some (.vexpd g v1 ty (bv w 42) (bv w 33) (bv w 12)))
  | 0x47 => arm w [(17, 3)] true (do let ty ← tyAt w 26; some (.vslide g v1 ty (bit w 16) (bv w 42) (bv w 33) (bv w 30) (bv w 20) (bv w 0)))
  | 0x50 => arm w [(1, 7), (15, 18)] true (do let ty ← tyAt w 8; some (.vsum g v1 ty (bit w 0) (bv w 42) (bv w 33) (bv w 12)))
  | 0x51 => arm w [(0, 8), (15, 18)] true (do let ty ← tyAt w 8; some (.vrmax g v1 ty (bv w 42) (bv w 33) (bv w 12)))
  | 0x52 => arm w [(0, 8), (15, 18)] true (do let ty ← tyAt w 8; some (.vrmin g v1 ty (bv w 42) (bv w 33) (bv w 12)))
  | 0x53 => arm w [(0, 8), (15, 18)] true (do let ty ← tyAt w 8; some (.vfsum g v1 ty (bv w 42) (bv w 33) (bv w 12)))
  | 0x54 => arm w [(0, 8), (15, 18)] true (do let ty ← tyAt w 8; some (.vfrmax g v1 ty (bv w 42) (bv w 33) (bv w 12)))
  | 0x55 => arm w [(0, 8), (15, 18)] true (do let ty ← tyAt w 8; some (.vfrmin g v1 ty (bv w 42) (bv w 33) (bv w 12)))
  | 0x58 => arm w ([(5, 3), (15, 9)] ++ (if fld w 4 1 = 0 then [(45, 6)] else [])) true (do let cc ← icondAt w 0; let ty ← tyAt w 8; some (.vcmp g v1 cc ty (bit w 4) (bv w 42) (bv w 33) (bv w 24) (bv w 12)))
  | 0x59 => arm w ([(5, 3), (15, 9)] ++ (if fld w 4 1 = 0 then [(45, 6)] else [])) true (do let fc ← fcondAt w 0; let ty ← tyAt w 8; some (.vfcmp g v1 fc ty (bit w 4) (bv w 42) (bv w 33) (bv w 24) (bv w 12)))
  | 0x5A => arm w [(4, 20), (27, 6), (36, 6), (45, 6)] true (some (.mlog g v1 (bv w 42) (bv w 33) (bv w 24) (bv w 0)))
  | 0x60 => arm w [(6, 2), (15, 9)] true (do let ty ← tyAt w 8; some (.vtmask g v1 ty (bit w 5) (bv w 0) (bv w 42) (bv w 33) (bv w 24) (bv w 12)))
  | 0x68 => arm w [(20, 6)] true (do let ty ← tyAt w 26; some (.psqz g v1 ty (bv w 16) (bv w 0) (bv w 42) (bv w 33) (bv w 30)))
  | 0x69 => arm w [(0, 12), (15, 9)] true (some (.plut g v1 (bv w 42) (bv w 33) (bv w 24) (bv w 12)))
  | 0x6A => arm w [(0, 12)] true (some (.pmix g v1 (bv w 42) (bv w 33) (bv w 24) (bv w 15) (bv w 12)))
  | 0x80 => if v1 then arm w [(2, 10), (15, 18)] true (some (.cdec g (bv w 0) (bv w 42) (bv w 33) (bv w 12))) else .error .unassigned
  | 0x81 => if v1 then arm w [(2, 10), (15, 9), (42, 9)] true (some (.cenc g (bv w 0) (bv w 33) (bv w 24) (bv w 12))) else .error .unassigned
  | 0x82 => if v1 then arm w [(2, 10), (15, 18)] true (some (.cdecm g (bv w 0) (bv w 42) (bv w 33) (bv w 12))) else .error .unassigned
  | 0x83 => if v1 then arm w [(2, 10), (15, 9), (42, 9)] true (some (.cencm g (bv w 0) (bv w 33) (bv w 24) (bv w 12))) else .error .unassigned
  | 0x84 => if v1 then arm w [(3, 9), (42, 9)] true (some (.cinit g (bit w 2) (bv w 0) (bv w 33) (bv w 24) (bv w 15) (bv w 12))) else .error .unassigned
  | 0x85 => if v1 then arm w [(2, 10), (15, 36)] true (some (.cflush g (bv w 0) (bv w 12))) else .error .unassigned
  | 0x86 => if v1 then arm w [(2, 10), (15, 27)] true (some (.csave g (bv w 0) (bv w 42) (bv w 12))) else .error .unassigned
  | 0x87 => if v1 then arm w [(2, 10), (15, 18), (42, 9)] true (some (.cload g (bv w 0) (bv w 33) (bv w 12))) else .error .unassigned
  | 0x88 => if v1 then arm w [(5, 7), (15, 27), (45, 6)] true (some (.cstat g (bv w 2) (bv w 0) (bv w 42) (bv w 12))) else .error .unassigned
  | _ => .error .unassigned

/-- The M slot (R163, Table 8-10). -/
def decodeM (w : Nat) : Except Reject Instr :=
  let g := guard64 w
  match w / 2^56 % 256 with
  | 0x00 => if w = 0 then .ok (.nop .m) else .error .reservedBits
  | 0x01 => arm w ([(0, 8)] ++ (if fld w 13 1 = 1 then [(36, 3)] else []) ++ (if fld w 12 1 = 0 then [(8, 4)] else []) ++ (if isSbCode (fld w 20 4) || isSbCode (fld w 16 4) then [] else [(24, 9)])) true (do let o ← mmaAt w; some (.mma g o))
  | 0x02 => arm w ([(0, 8)] ++ (if fld w 13 1 = 1 then [(36, 3)] else []) ++ (if fld w 12 1 = 0 then [(8, 4)] else []) ++ (if isSbCode (fld w 20 4) || isSbCode (fld w 16 4) then [] else [(24, 9)])) true (do let o ← mmaAt w; some (.mmaz g o))
  | 0x03 => arm w ([(0, 2)] ++ (if fld w 13 1 = 1 then [(36, 3)] else []) ++ (if fld w 12 1 = 0 then [(8, 4)] else []) ++ (if isSbCode (fld w 20 4) || isSbCode (fld w 16 4) then [] else [(24, 9)])) true (do let o ← mmaAt w; some (.mmam g o (bv w 5) (bv w 2)))
  | 0x04 => arm w [(0, 13), (20, 31)] true (some (.mcall g (bv w 13)))
  | 0x05 => arm w [(0, 51)] true (some (.mret g))
  | 0x06 => arm w [(0, 36), (39, 12)] true (some (.mcb g (bv w 36)))
  | 0x07 => arm w [(0, 36), (39, 12)] true (some (.mzb g (bv w 36)))
  | 0x08 => arm w [(0, 17), (20, 4), (33, 18)] true (some (.mrgat g (bv w 24) (bv w 17)))
  | 0x09 => arm w [(0, 3), (20, 19), (48, 3)] true (some (.mrule g (bv w 39) (bv w 18) (bit w 17) (bv w 15) (bv w 11) (bv w 3)))
  | 0x0A => arm w [(0, 14), (20, 16), (39, 12)] true (some (.mrtab g (bv w 36) (bv w 14)))
  | 0x0B => arm w [(12, 27)] true (some (.aclr g (bv w 39) (bv w 0)))
  | 0x0C => arm w [(0, 3), (20, 16), (39, 12)] true (some (.mpld g (bv w 36) (bv w 13) (bv w 7) (bv w 3)))
  | _ => .error .unassigned

/-- The L slot (R163, Table 8-11). -/
def decodeL (w : Nat) : Except Reject Instr :=
  let g := guard64 w
  match w / 2^56 % 256 with
  | 0x00 => if w = 0 then .ok (.nop .l) else .error .reservedBits
  | 0x01 => arm w [(10, 4), (18, 3), (27, 9), (48, 3)] true (do let ty ← tyAt w 14; some (.lds g ty (bv w 42) (bv w 36) (bv w 0) (bv w 21)))
  | 0x02 => arm w [(10, 4), (27, 9)] true (do let ty ← tyAt w 14; some (.ldv g ty (bv w 42) (bv w 36) (bv w 0) (bv w 21) (bv w 18)))
  | 0x03 => arm w [(10, 4), (33, 3)] true (do let ty ← tyAt w 14; some (.ldvs g ty (bv w 42) (bv w 36) (bv w 27) (bv w 0) (bv w 21) (bv w 18)))
  | 0x04 => arm w [(11, 3)] true (do let ty ← tyAt w 14; some (.ldg g ty (bit w 10) (bv w 42) (bv w 36) (bv w 27) (bv w 0) (bv w 21) (bv w 18)))
  | 0x05 => arm w [(10, 4), (27, 9)] true (do let ty ← tyAt w 14; some (.ldb g ty (bv w 42) (bv w 36) (bv w 0) (bv w 21) (bv w 18)))
  | 0x06 => arm w [(14, 7), (27, 9), (45, 6)] true (some (.ldt g (bv w 42) (bv w 10) (bv w 36) (bv w 0) (bv w 21)))
  | 0x07 => arm w [(0, 3), (10, 4), (33, 3)] (fld w 14 4 == 8) (some (.ldp g (bv w 4) (bv w 6) (bit w 3) (bv w 42) (bv w 36) (bv w 27) (bv w 21) (bv w 18)))
  | 0x08 => arm w [(0, 18), (27, 15), (44, 7)] true (some (.ldc g (bv w 42) (bv w 21) (bv w 18)))
  | _ => .error .unassigned

/-- The ST slot (R163, Table 8-12). -/
def decodeSt (w : Nat) : Except Reject Instr :=
  let g := guard64 w
  match w / 2^56 % 256 with
  | 0x00 => if w = 0 then .ok (.nop .st) else .error .reservedBits
  | 0x01 => arm w [(10, 4), (18, 18), (48, 3)] true (do let ty ← tyAt w 14; some (.sts g ty (bv w 42) (bv w 36) (bv w 0)))
  | 0x02 => arm w [(10, 4), (21, 15)] true (do let ty ← tyAt w 14; some (.stv g ty (bv w 42) (bv w 36) (bv w 0) (bv w 18)))
  | 0x03 => arm w [(10, 4), (21, 6), (33, 3)] true (do let ty ← tyAt w 14; some (.stvs g ty (bv w 42) (bv w 36) (bv w 27) (bv w 0) (bv w 18)))
  | 0x04 => arm w [(11, 3), (21, 6)] true (do let ty ← tyAt w 14; some (.stsc g ty (bit w 10) (bv w 42) (bv w 36) (bv w 27) (bv w 0) (bv w 18)))
  | 0x05 => arm w [(14, 22), (45, 6)] true (some (.stt g (bv w 42) (bv w 10) (bv w 36) (bv w 0)))
  | 0x06 => arm w [(0, 27), (36, 6), (45, 6)] true (some (.stq g (bv w 42) (bv w 27)))
  | 0x07 => arm w [(10, 26), (42, 9)] true (some (.stz g (bv w 36) (bv w 0)))
  | _ => .error .unassigned

/-- The X slot (R163, Table 8-13). -/
def decodeX (w : Nat) : Except Reject Instr :=
  let g := guard48 w
  match w / 2^40 % 256 with
  | 0x00 => if w = 0 then .ok (.nop .x) else .error .reservedBits
  | 0x01 => arm w [(8, 2), (20, 6)] true (do let ty ← tyAt w 10; some (.xsv g ty (bv w 0) (bv w 26) (bv w 14)))
  | 0x02 => arm w [(0, 10), (20, 6)] true (do let ty ← tyAt w 10; some (.xsvb g ty (bv w 26) (bv w 14)))
  | 0x03 => arm w [(8, 2), (20, 6)] true (do let ty ← tyAt w 10; some (.xvs g ty (bv w 0) (bv w 14) (bv w 26)))
  | 0x04 => arm w [(0, 14)] true (some (.xvt g (bv w 26) (bv w 23) (bit w 22) (bv w 16) (bv w 14)))
  | 0x05 => arm w [(0, 14)] true (some (.xtv g (bv w 26) (bv w 23) (bit w 22) (bv w 16) (bv w 14)))
  | 0x06 => arm w [(0, 14)] true (some (.xav g (bv w 26) (bv w 14)))
  | 0x07 => arm w [(0, 14)] true (some (.xva g (bv w 26) (bv w 14)))
  | 0x10 => arm w [(0, 11)] true (some (.xcopy g (bv w 11) (bv w 29) (bv w 23)))
  | 0x11 => arm w [(0, 17)] true (some (.xpack g (bv w 20) (rmAt w 18) (bit w 17) (bv w 29) (bv w 23)))
  | 0x12 => arm w [(0, 20)] true (some (.xunpk g (bv w 20) (bv w 29) (bv w 23)))
  | 0x13 => arm w [(0, 23)] true (some (.xdec g (bv w 29) (bv w 23)))
  | 0x14 => arm w [(0, 22)] true (some (.xzs g (bit w 22) (bv w 29) (bv w 23)))
  | 0x15 => arm w [(0, 11)] true (some (.xcrc g (bv w 11) (bv w 29) (bv w 23)))
  | 0x18 => arm w [(0, 16)] true (some (.xnest g (bv w 16) (bv w 29) (bv w 23)))
  | 0x20 => arm w [(0, 29)] true (some (.xbcast g (bv w 29)))
  | 0x21 => arm w [(0, 29)] true (some (.xgath g (bv w 29)))
  | 0x22 => arm w [(0, 29)] true (some (.xsend g (bv w 29)))
  | 0x23 => arm w [(0, 29)] true (some (.xrecv g (bv w 29)))
  | 0x24 => arm w [(0, 29)] true (some (.xrscat g (bv w 29)))
  | 0x25 => arm w [(0, 29)] true (some (.xallred g (bv w 29)))
  | 0x26 => arm w [(0, 23)] true (some (.xcancel g (bv w 29) (bv w 23)))
  | _ => .error .unassigned

/-- The Y slot (R163, Table 8-14). -/
def decodeY (w : Nat) : Except Reject Instr :=
  let g := guard48 w
  match w / 2^40 % 256 with
  | 0x00 => if w = 0 then .ok (.nop .y) else .error .reservedBits
  | 0x01 => arm w [(0, 23)] true (some (.twait g (bv w 29) (bv w 23)))
  | 0x02 => arm w [(0, 23), (29, 6)] true (some (.tsig g (bv w 23)))
  | 0x03 => arm w [(0, 11), (17, 6)] true (some (.tread g (bv w 29) (bv w 23) (bv w 11)))
  | 0x08 => arm w [(0, 20), (23, 12)] true (some (.fence g (bv w 20)))
  | 0x10 => arm w ([(0, 8)] ++ (if fld w 10 1 = 0 then [(29, 6), (11, 6)] else [])) true (some (.aadd g (atyAt w 8) (bit w 10) (bv w 29) (bv w 23) (bv w 17) (bv w 11)))
  | 0x11 => arm w ([(0, 8)] ++ (if fld w 10 1 = 0 then [(29, 6), (11, 6)] else [])) true (some (.aand g (atyAt w 8) (bit w 10) (bv w 29) (bv w 23) (bv w 17) (bv w 11)))
  | 0x12 => arm w ([(0, 8)] ++ (if fld w 10 1 = 0 then [(29, 6), (11, 6)] else [])) true (some (.aor g (atyAt w 8) (bit w 10) (bv w 29) (bv w 23) (bv w 17) (bv w 11)))
  | 0x13 => arm w ([(0, 8)] ++ (if fld w 10 1 = 0 then [(29, 6), (11, 6)] else [])) true (some (.axor g (atyAt w 8) (bit w 10) (bv w 29) (bv w 23) (bv w 17) (bv w 11)))
  | 0x14 => arm w ([(0, 8)] ++ (if fld w 10 1 = 0 then [(29, 6), (11, 6)] else [])) true (some (.amin g (atyAt w 8) (bit w 10) (bv w 29) (bv w 23) (bv w 17) (bv w 11)))
  | 0x15 => arm w ([(0, 8)] ++ (if fld w 10 1 = 0 then [(29, 6), (11, 6)] else [])) true (some (.amax g (atyAt w 8) (bit w 10) (bv w 29) (bv w 23) (bv w 17) (bv w 11)))
  | 0x16 => arm w ([(0, 8)] ++ (if fld w 10 1 = 0 then [(29, 6), (11, 6)] else [])) true (some (.aswp g (atyAt w 8) (bit w 10) (bv w 29) (bv w 23) (bv w 17) (bv w 11)))
  | 0x17 => arm w ([(0, 8)] ++ (if fld w 10 1 = 0 then [(29, 6), (11, 6)] else [])) true (some (.acas g (atyAt w 8) (bit w 10) (bv w 29) (bv w 23) (bv w 17) (bv w 11)))
  | 0x18 => arm w ([(0, 8)] ++ (if fld w 10 1 = 0 then [(29, 6), (11, 6)] else [])) true (if fld w 8 2 ≠ 0 then none else some (.afadd g (bit w 10) (bv w 29) (bv w 23) (bv w 17) (bv w 11)))
  | 0x20 => arm w [(0, 29)] true (some (.mred g (bv w 29)))
  | 0x28 => arm w [(0, 18), (23, 12)] true (some (.arrive g (bv w 18)))
  | 0x29 => arm w [(0, 18), (23, 12)] true (some (.bwait g (bv w 18)))
  | 0x2A => arm w [(0, 18), (23, 12)] true (some (.drop g (bv w 18)))
  | 0x30 => arm w [(0, 23)] true (some (.qpush g (bv w 29) (bv w 23)))
  | 0x31 => arm w [(0, 11), (17, 6)] true (some (.qpop g (bv w 29) (bv w 23) (bv w 11)))
  | 0x38 => arm w [(0, 23)] true (some (.launch g (bv w 29) (bv w 23)))
  | 0x40 => arm w [(0, 11), (17, 6)] true (some (.cvclaim g (bv w 29) (bv w 23) (bv w 11)))
  | 0x41 => arm w [(0, 23)] true (some (.cvdone g (bv w 29) (bv w 23)))
  | 0x48 => arm w [(0, 23)] true (some (.pwait g (bv w 29) (bv w 23)))
  | 0x50 => arm w [(8, 21)] true (some (.trap g (bv w 29) (bv w 0)))
  | 0x51 => arm w [(0, 35)] true (some (.halt g))
  | 0x52 => arm w [(0, 35)] true (some (.ffence g))
  | 0xE0 => arm w [(0, 20)] true (some (.tinvPage g (bv w 29) (bv w 23) (bv w 20)))
  | 0xE1 => arm w [(0, 20), (29, 6)] true (some (.tinvAsid g (bv w 23) (bv w 20)))
  | 0xE2 => arm w [(0, 20), (23, 12)] true (some (.tinvAll g (bv w 20)))
  | 0xE4 => arm w [(0, 18)] true (some (.smap g (bv w 18) (bv w 26) (bv w 20)))
  | 0xE5 => arm w [(0, 18), (20, 6)] true (some (.sdrain g (bv w 18) (bv w 26)))
  | 0xE8 => arm w [(0, 35)] true (some (.phase g))
  | _ => .error .unassigned

/-- The operation of slot word w in a slot (R163). -/
def decodeSlot (sl : Slot) (w : Nat) : Except Reject Instr :=
  match sl with
  | .s => decodeS w
  | .v0 => decodeV false w
  | .v1 => decodeV true w
  | .m => decodeM w
  | .l => decodeL w
  | .st => decodeSt w
  | .x => decodeX w
  | .y => decodeY w

/-- Position of a slot: lowest bit and width in the bundle (Table 8-1). -/
def Slot.pos : Slot → Nat × Nat
  | .s => (32, 64) | .v0 => (96, 64) | .v1 => (160, 64) | .m => (224, 64) | .l => (288, 64) | .st => (352, 64)
  | .x => (416, 48) | .y => (464, 48)

/-- Number of a slot in slot order, as EMPTY and sr.fault.SLOT count (Tables 8-2, 8-15). -/
def Slot.index : Slot → Nat
  | .s => 0 | .v0 => 1 | .v1 => 2 | .m => 3 | .l => 4 | .st => 5 | .x => 6 | .y => 7

/-- The slots in slot order (R152). -/
def Slot.all : List Slot := [.s, .v0, .v1, .m, .l, .st, .x, .y]

/-- The word of a slot in bundle b. -/
def slotWord (b : Nat) (sl : Slot) : Nat := fld b sl.pos.1 sl.pos.2

/-- Bundle header (R153, Table 8-2). -/
structure Header where
  ckpt : Bool
  safe : Bool
  cls : BitVec 2
  pv0 : BitVec 2
  pv1 : BitVec 2
  pm : BitVec 1
  pl : BitVec 1
  pst : BitVec 1
  px : BitVec 1
  empty : BitVec 8
  rsv : BitVec 12
deriving DecidableEq, Repr

/-- Header fields of bundle b. -/
def headerOf (b : Nat) : Header :=
  { ckpt := bit b 0, safe := bit b 1, cls := bv b 2, pv0 := bv b 4, pv1 := bv b 6, pm := bv b 8, pl := bv b 9,
    pst := bv b 10, px := bv b 11, empty := bv b 12, rsv := bv b 20 }

/-- The slot is marked empty (R155). -/
def Header.isEmpty (h : Header) (sl : Slot) : Bool := h.empty.getLsbD sl.index

/-- Vector read ports allotted to a slot (R154); S and Y have none. -/
def Header.ports (h : Header) : Slot → Nat
  | .v0 => h.pv0.toNat | .v1 => h.pv1.toNat | .m => h.pm.toNat | .l => h.pl.toNat | .st => h.pst.toNat
  | .x => h.px.toNat | .s => 0 | .y => 0

/-- Vector fields that an operation reads, by its opcode and, for mma, its classes (R154, R218); the index of stsc
is counted at L. The coder opcodes of V1 count in V0 too, where they are unassigned (R163; DESIGN CHOICE, log 131). -/
def portReads (sl : Slot) (w : Nat) : Nat :=
  match sl with
  | .v0 | .v1 =>
    match w / 2^56 % 256 with
    | 0x07 | 0x08 | 0x10 | 0x11 | 0x12 | 0x13 | 0x26 | 0x29 | 0x2A | 0x30 | 0x32 | 0x33 | 0x41 | 0x42 | 0x45 | 0x46
    | 0x47 | 0x50 | 0x51 | 0x52 | 0x53 | 0x54 | 0x55 | 0x68 | 0x80 | 0x82 | 0x87 => 1
    | 0x01 | 0x02 | 0x03 | 0x04 | 0x05 | 0x06 | 0x09 | 0x0A | 0x0B | 0x0C | 0x0D | 0x0E | 0x0F | 0x20 | 0x21 | 0x22
    | 0x25 | 0x27 | 0x28 | 0x31 | 0x40 | 0x43 | 0x44 | 0x58 | 0x59 | 0x60 | 0x69 | 0x81 | 0x83 => 2
    | 0x23 | 0x24 | 0x6A | 0x84 => 3
    | _ => 0
  | .m =>
    match w / 2^56 % 256 with
    | 0x01 | 0x02 | 0x03 => if isSbCode (fld w 20 4) || isSbCode (fld w 16 4) then 1 else 0
    | 0x08 => 1
    | _ => 0
  | .l => if w / 2^56 % 256 = 0x04 then 1 else 0
  | .st =>
    match w / 2^56 % 256 with
    | 0x02 | 0x03 | 0x04 => 1
    | _ => 0
  | .x =>
    match w / 2^40 % 256 with
    | 0x03 | 0x04 | 0x07 => 1
    | _ => 0
  | .s | .y => 0

/-- Codes in the fields that the opcode of a slot word gives to vector registers, whatever else the word holds (R136; a coder
opcode in V0: log 131). -/
def vecCodes (sl : Slot) (w : Nat) : List Nat :=
  let o := w / 2^56 % 256
  let dest := match sl with
    | .v0 | .v1 =>
      (match o with
       | 0x00 | 0x5A | 0x81 | 0x83 | 0x84 | 0x85 | 0x87 | 0x88 => []
       | 0x58 | 0x59 => if fld w 4 1 = 1 then [42] else []
       | 0x14 | 0x86 => [42]
       | _ => if portReads sl w = 0 then [] else [42])
    | .l => (match o with | 0x02 | 0x03 | 0x04 | 0x05 | 0x07 => [42] | _ => [])
    | .st => (match o with | 0x02 | 0x03 | 0x04 => [42] | _ => [])
    | .x => (match w / 2^40 % 256 with | 0x01 | 0x02 | 0x03 | 0x04 | 0x05 | 0x06 | 0x07 => [26] | _ => [])
    | _ => []
  let sources := match sl with
    | .v0 | .v1 => [33, 24, 15].take (portReads sl w)
    | .m => [24].take (portReads sl w)
    | .l | .st => if o = 0x04 then [27] else []
    | _ => []
  (dest ++ sources).map fun k => fld w k 9

/-- The word in ST is a scatter, which borrows the L port (R154). -/
def isScatter (w : Nat) : Bool := w / 2^56 % 256 == 0x04

/-! The encoder: the slot and the word of an operation (R159 and the entries' encoding tables). -/

/-- The word whose fields have the given values and lowest bits. -/
def packFields : List (Nat × Nat) → Nat
  | [] => 0
  | (x, k) :: fs => x * 2 ^ k + packFields fs

/-- A 64-bit slot word: opcode, guard and fields. -/
def word64 (opc : Nat) (g : Guard) (fs : List (Nat × Nat)) : Nat :=
  packFields ((opc, 56) :: (g.neg.toNat, 55) :: (g.pred.toNat, 51) :: fs)

/-- A 48-bit slot word: opcode, guard and fields. -/
def word48 (opc : Nat) (g : Guard) (fs : List (Nat × Nat)) : Nat :=
  packFields ((opc, 40) :: (g.neg.toNat, 39) :: (g.pred.toNat, 35) :: fs)

/-- Slot and word of an operation; the whole steps of the machine and the empty bundle have none. -/
def encode : Instr → Option (Slot × Nat)
  | .nop sl => some (sl, 0)
  | .add g sd sa sb => some (.s, word64 0x01 g [(sd.toNat, 45), (sa.toNat, 39), (sb.toNat, 33)])
  | .sub g sd sa sb => some (.s, word64 0x02 g [(sd.toNat, 45), (sa.toNat, 39), (sb.toNat, 33)])
  | .mul g sd sa sb => some (.s, word64 0x03 g [(sd.toNat, 45), (sa.toNat, 39), (sb.toNat, 33)])
  | .mulh g sg sd sa sb => some (.s, word64 0x04 g [(sd.toNat, 45), (sa.toNat, 39), (sb.toNat, 33), (sg.toNat, 19)])
  | .div g sg sd sa sb => some (.s, word64 0x05 g [(sd.toNat, 45), (sa.toNat, 39), (sb.toNat, 33), (sg.toNat, 19)])
  | .rem g sg sd sa sb => some (.s, word64 0x06 g [(sd.toNat, 45), (sa.toNat, 39), (sb.toNat, 33), (sg.toNat, 19)])
  | .and g sd sa sb => some (.s, word64 0x07 g [(sd.toNat, 45), (sa.toNat, 39), (sb.toNat, 33)])
  | .or g sd sa sb => some (.s, word64 0x08 g [(sd.toNat, 45), (sa.toNat, 39), (sb.toNat, 33)])
  | .xor g sd sa sb => some (.s, word64 0x09 g [(sd.toNat, 45), (sa.toNat, 39), (sb.toNat, 33)])
  | .andn g sd sa sb => some (.s, word64 0x0A g [(sd.toNat, 45), (sa.toNat, 39), (sb.toNat, 33)])
  | .shl g sd sa sb => some (.s, word64 0x0B g [(sd.toNat, 45), (sa.toNat, 39), (sb.toNat, 33)])
  | .shr g sg sd sa sb => some (.s, word64 0x0C g [(sd.toNat, 45), (sa.toNat, 39), (sb.toNat, 33), (sg.toNat, 19)])
  | .min g sg sd sa sb => some (.s, word64 0x0D g [(sd.toNat, 45), (sa.toNat, 39), (sb.toNat, 33), (sg.toNat, 19)])
  | .max g sg sd sa sb => some (.s, word64 0x0E g [(sd.toNat, 45), (sa.toNat, 39), (sb.toNat, 33), (sg.toNat, 19)])
  | .addi g sd sa imm => some (.s, word64 0x10 g [(sd.toNat, 45), (sa.toNat, 39), (imm.toNat, 0)])
  | .andi g sd sa imm => some (.s, word64 0x11 g [(sd.toNat, 45), (sa.toNat, 39), (imm.toNat, 0)])
  | .ori g sd sa imm => some (.s, word64 0x12 g [(sd.toNat, 45), (sa.toNat, 39), (imm.toNat, 0)])
  | .xori g sd sa imm => some (.s, word64 0x13 g [(sd.toNat, 45), (sa.toNat, 39), (imm.toNat, 0)])
  | .shli g sd sa imm => some (.s, word64 0x14 g [(sd.toNat, 45), (sa.toNat, 39), (imm.toNat, 0)])
  | .shri g sg sd sa imm => some (.s, word64 0x15 g [(sd.toNat, 45), (sa.toNat, 39), (sg.toNat, 32), (imm.toNat, 0)])
  | .movi g sd imm => some (.s, word64 0x16 g [(sd.toNat, 45), (imm.toNat, 0)])
  | .movhi g sd sa imm => some (.s, word64 0x17 g [(sd.toNat, 45), (sa.toNat, 39), (imm.toNat, 0)])
  | .lea g k sd sa imm => some (.s, word64 0x18 g [(sd.toNat, 45), (sa.toNat, 39), (k.toNat, 32), (imm.toNat, 0)])
  | .cmp g cc pt pf sa sb => some (.s, word64 0x20 g [(pt.toNat, 47), (pf.toNat, 43), (sa.toNat, 37), (sb.toNat, 31), (cc.code, 27)])
  | .cmpi g cc pt pf sa imm => some (.s, word64 0x21 g [(pt.toNat, 47), (pf.toNat, 43), (sa.toNat, 37), (cc.code, 27), (imm.toNat, 0)])
  | .fcmp g fc pt pf sa sb => some (.s, word64 0x22 g [(pt.toNat, 47), (pf.toNat, 43), (sa.toNat, 37), (sb.toNat, 31), (fc.code, 27)])
  | .plog g pt pf pa pb tt => some (.s, word64 0x23 g [(pt.toNat, 47), (pf.toNat, 43), (pa.toNat, 37), (pb.toNat, 31), (tt.toNat, 20)])
  | .fadd g sd sa sb => some (.s, word64 0x30 g [(sd.toNat, 45), (sa.toNat, 39), (sb.toNat, 33)])
  | .fsub g sd sa sb => some (.s, word64 0x31 g [(sd.toNat, 45), (sa.toNat, 39), (sb.toNat, 33)])
  | .fmul g sd sa sb => some (.s, word64 0x32 g [(sd.toNat, 45), (sa.toNat, 39), (sb.toNat, 33)])
  | .ffma g sd sa sb sc => some (.s, word64 0x33 g [(sd.toNat, 45), (sa.toNat, 39), (sb.toNat, 33), (sc.toNat, 27)])
  | .fdiv g sd sa sb => some (.s, word64 0x34 g [(sd.toNat, 45), (sa.toNat, 39), (sb.toNat, 33)])
  | .fsqrt g sd sa => some (.s, word64 0x35 g [(sd.toNat, 45), (sa.toNat, 39)])
  | .fmin g sd sa sb => some (.s, word64 0x36 g [(sd.toNat, 45), (sa.toNat, 39), (sb.toNat, 33)])
  | .fmax g sd sa sb => some (.s, word64 0x37 g [(sd.toNat, 45), (sa.toNat, 39), (sb.toNat, 33)])
  | .fcvt g ty toF32 rm inf sd sa => some (.s, word64 0x38 g [(sd.toNat, 45), (sa.toNat, 39), (ty.toNat, 23), (toF32.toNat, 22), (rm.code, 20), (inf.toNat, 19)])
  | .br g off => some (.s, word64 0x40 g [(off.toNat, 26)])
  | .call g sd off => some (.s, word64 0x41 g [(off.toNat, 26), (sd.toNat, 14)])
  | .jmp g sa => some (.s, word64 0x42 g [(sa.toNat, 20)])
  | .calli g sd sa => some (.s, word64 0x43 g [(sa.toNat, 20), (sd.toNat, 14)])
  | .ret g sa => some (.s, word64 0x44 g [(sa.toNat, 20)])
  | .loop g sd off => some (.s, word64 0x45 g [(off.toNat, 26), (sd.toNat, 14)])
  | .tret g => some (.s, word64 0x48 g [])
  | .rdsp g sd r => some (.s, word64 0x50 g [(sd.toNat, 45), (r.code, 29)])
  | .wrsp g ss r => some (.s, word64 0x51 g [(ss.toNat, 45), (r.code, 29)])
  | .vadd g v1 ty sat vd va vb m => some ((vSlot v1), word64 0x01 g [(vd.toNat, 42), (va.toNat, 33), (vb.toNat, 24), (m.toNat, 12), (ty.code, 8), (sat.toNat, 0)])
  | .vsub g v1 ty sat vd va vb m => some ((vSlot v1), word64 0x02 g [(vd.toNat, 42), (va.toNat, 33), (vb.toNat, 24), (m.toNat, 12), (ty.code, 8), (sat.toNat, 0)])
  | .vmul g v1 ty sat vd va vb m => some ((vSlot v1), word64 0x03 g [(vd.toNat, 42), (va.toNat, 33), (vb.toNat, 24), (m.toNat, 12), (ty.code, 8), (sat.toNat, 0)])
  | .vmulh g v1 ty vd va vb m => some ((vSlot v1), word64 0x04 g [(vd.toNat, 42), (va.toNat, 33), (vb.toNat, 24), (m.toNat, 12), (ty.code, 8)])
  | .vmin g v1 ty vd va vb m => some ((vSlot v1), word64 0x05 g [(vd.toNat, 42), (va.toNat, 33), (vb.toNat, 24), (m.toNat, 12), (ty.code, 8)])
  | .vmax g v1 ty vd va vb m => some ((vSlot v1), word64 0x06 g [(vd.toNat, 42), (va.toNat, 33), (vb.toNat, 24), (m.toNat, 12), (ty.code, 8)])
  | .vabs g v1 ty sat vd va m => some ((vSlot v1), word64 0x07 g [(vd.toNat, 42), (va.toNat, 33), (m.toNat, 12), (ty.code, 8), (sat.toNat, 0)])
  | .vneg g v1 ty sat vd va m => some ((vSlot v1), word64 0x08 g [(vd.toNat, 42), (va.toNat, 33), (m.toNat, 12), (ty.code, 8), (sat.toNat, 0)])
  | .vand g v1 ty vd va vb m => some ((vSlot v1), word64 0x09 g [(vd.toNat, 42), (va.toNat, 33), (vb.toNat, 24), (m.toNat, 12), (ty.code, 8)])
  | .vor g v1 ty vd va vb m => some ((vSlot v1), word64 0x0A g [(vd.toNat, 42), (va.toNat, 33), (vb.toNat, 24), (m.toNat, 12), (ty.code, 8)])
  | .vxor g v1 ty vd va vb m => some ((vSlot v1), word64 0x0B g [(vd.toNat, 42), (va.toNat, 33), (vb.toNat, 24), (m.toNat, 12), (ty.code, 8)])
  | .vandn g v1 ty vd va vb m => some ((vSlot v1), word64 0x0C g [(vd.toNat, 42), (va.toNat, 33), (vb.toNat, 24), (m.toNat, 12), (ty.code, 8)])
  | .vshl g v1 ty vd va vb m => some ((vSlot v1), word64 0x0D g [(vd.toNat, 42), (va.toNat, 33), (vb.toNat, 24), (m.toNat, 12), (ty.code, 8)])
  | .vshr g v1 ty vd va vb m => some ((vSlot v1), word64 0x0E g [(vd.toNat, 42), (va.toNat, 33), (vb.toNat, 24), (m.toNat, 12), (ty.code, 8)])
  | .vsel g v1 ty vd va vb m => some ((vSlot v1), word64 0x0F g [(vd.toNat, 42), (va.toNat, 33), (vb.toNat, 24), (m.toNat, 12), (ty.code, 8)])
  | .vaddi g v1 ty sat vd va m imm => some ((vSlot v1), word64 0x10 g [(vd.toNat, 42), (va.toNat, 33), (m.toNat, 30), (ty.code, 26), (sat.toNat, 16), (imm.toNat, 0)])
  | .vandi g v1 ty vd va m imm => some ((vSlot v1), word64 0x11 g [(vd.toNat, 42), (va.toNat, 33), (m.toNat, 30), (ty.code, 26), (imm.toNat, 0)])
  | .vshli g v1 ty vd va m sa imm => some ((vSlot v1), word64 0x12 g [(vd.toNat, 42), (va.toNat, 33), (m.toNat, 30), (ty.code, 26), (sa.toNat, 20), (imm.toNat, 0)])
  | .vshri g v1 ty vd va m sa imm => some ((vSlot v1), word64 0x13 g [(vd.toNat, 42), (va.toNat, 33), (m.toNat, 30), (ty.code, 26), (sa.toNat, 20), (imm.toNat, 0)])
  | .vmovi g v1 ty vd m imm => some ((vSlot v1), word64 0x14 g [(vd.toNat, 42), (m.toNat, 30), (ty.code, 26), (imm.toNat, 0)])
  | .vfadd g v1 ty vd va vb m => some ((vSlot v1), word64 0x20 g [(vd.toNat, 42), (va.toNat, 33), (vb.toNat, 24), (m.toNat, 12), (ty.code, 8)])
  | .vfsub g v1 ty vd va vb m => some ((vSlot v1), word64 0x21 g [(vd.toNat, 42), (va.toNat, 33), (vb.toNat, 24), (m.toNat, 12), (ty.code, 8)])
  | .vfmul g v1 ty vd va vb m => some ((vSlot v1), word64 0x22 g [(vd.toNat, 42), (va.toNat, 33), (vb.toNat, 24), (m.toNat, 12), (ty.code, 8)])
  | .vffma g v1 ty vd va vb vc m => some ((vSlot v1), word64 0x23 g [(vd.toNat, 42), (va.toNat, 33), (vb.toNat, 24), (vc.toNat, 15), (m.toNat, 12), (ty.code, 8)])
  | .vfnma g v1 ty vd va vb vc m => some ((vSlot v1), word64 0x24 g [(vd.toNat, 42), (va.toNat, 33), (vb.toNat, 24), (vc.toNat, 15), (m.toNat, 12), (ty.code, 8)])
  | .vfdiv g v1 ty vd va vb m => some ((vSlot v1), word64 0x25 g [(vd.toNat, 42), (va.toNat, 33), (vb.toNat, 24), (m.toNat, 12), (ty.code, 8)])
  | .vfsqrt g v1 ty vd va m => some ((vSlot v1), word64 0x26 g [(vd.toNat, 42), (va.toNat, 33), (m.toNat, 12), (ty.code, 8)])
  | .vfmin g v1 ty vd va vb m => some ((vSlot v1), word64 0x27 g [(vd.toNat, 42), (va.toNat, 33), (vb.toNat, 24), (m.toNat, 12), (ty.code, 8)])
  | .vfmax g v1 ty vd va vb m => some ((vSlot v1), word64 0x28 g [(vd.toNat, 42), (va.toNat, 33), (vb.toNat, 24), (m.toNat, 12), (ty.code, 8)])
  | .vfabs g v1 ty vd va m => some ((vSlot v1), word64 0x29 g [(vd.toNat, 42), (va.toNat, 33), (m.toNat, 12), (ty.code, 8)])
  | .vfneg g v1 ty vd va m => some ((vSlot v1), word64 0x2A g [(vd.toNat, 42), (va.toNat, 33), (m.toNat, 12), (ty.code, 8)])
  | .vcvt g v1 dt st part inf rm vd va m => some ((vSlot v1), word64 0x30 g [(vd.toNat, 42), (va.toNat, 33), (st.code, 24), (m.toNat, 12), (dt.code, 8), (part.toNat, 5), (inf.toNat, 2), (rm.code, 0)])
  | .vcvts g v1 dt part inf rm vd va vb m => some ((vSlot v1), word64 0x31 g [(vd.toNat, 42), (va.toNat, 33), (vb.toNat, 24), (m.toNat, 12), (dt.code, 8), (part.toNat, 5), (inf.toNat, 2), (rm.code, 0)])
  | .vsbpk g v1 f part inf rm vd va m => some ((vSlot v1), word64 0x32 g [(vd.toNat, 42), (va.toNat, 33), (m.toNat, 12), (8, 8), (part.toNat, 5), (f.toNat, 3), (inf.toNat, 2), (rm.code, 0)])
  | .vsbun g v1 f part inf rm vd va m => some ((vSlot v1), word64 0x33 g [(vd.toNat, 42), (va.toNat, 33), (m.toNat, 12), (8, 8), (part.toNat, 5), (f.toNat, 3), (inf.toNat, 2), (rm.code, 0)])
  | .vperm g v1 ty zero vd va vb m => some ((vSlot v1), word64 0x40 g [(vd.toNat, 42), (va.toNat, 33), (vb.toNat, 24), (m.toNat, 12), (ty.code, 8), (zero.toNat, 0)])
  | .vrot g v1 ty vd va m sa imm => some ((vSlot v1), word64 0x41 g [(vd.toNat, 42), (va.toNat, 33), (m.toNat, 30), (ty.code, 26), (sa.toNat, 20), (imm.toNat, 0)])
  | .vbcl g v1 ty vd va m sa imm => some ((vSlot v1), word64 0x42 g [(vd.toNat, 42), (va.toNat, 33), (m.toNat, 30), (ty.code, 26), (sa.toNat, 20), (imm.toNat, 0)])
  | .vzip g v1 ty hi vd va vb m => some ((vSlot v1), word64 0x43 g [(vd.toNat, 42), (va.toNat, 33), (vb.toNat, 24), (m.toNat, 12), (ty.code, 8), (hi.toNat, 0)])
  | .vuzp g v1 ty odd vd va vb m => some ((vSlot v1), word64 0x44 g [(vd.toNat, 42), (va.toNat, 33), (vb.toNat, 24), (m.toNat, 12), (ty.code, 8), (odd.toNat, 0)])
  | .vcomp g v1 ty vd va m => some ((vSlot v1), word64 0x45 g [(vd.toNat, 42), (va.toNat, 33), (m.toNat, 12), (ty.code, 8)])
  | .vexpd g v1 ty vd va m => some ((vSlot v1), word64 0x46 g [(vd.toNat, 42), (va.toNat, 33), (m.toNat, 12), (ty.code, 8)])
  | .vslide g v1 ty down vd va m sa imm => some ((vSlot v1), word64 0x47 g [(vd.toNat, 42), (va.toNat, 33), (m.toNat, 30), (ty.code, 26), (sa.toNat, 20), (down.toNat, 16), (imm.toNat, 0)])
  | .vsum g v1 ty sat vd va m => some ((vSlot v1), word64 0x50 g [(vd.toNat, 42), (va.toNat, 33), (m.toNat, 12), (ty.code, 8), (sat.toNat, 0)])
  | .vrmax g v1 ty vd va m => some ((vSlot v1), word64 0x51 g [(vd.toNat, 42), (va.toNat, 33), (m.toNat, 12), (ty.code, 8)])
  | .vrmin g v1 ty vd va m => some ((vSlot v1), word64 0x52 g [(vd.toNat, 42), (va.toNat, 33), (m.toNat, 12), (ty.code, 8)])
  | .vfsum g v1 ty vd va m => some ((vSlot v1), word64 0x53 g [(vd.toNat, 42), (va.toNat, 33), (m.toNat, 12), (ty.code, 8)])
  | .vfrmax g v1 ty vd va m => some ((vSlot v1), word64 0x54 g [(vd.toNat, 42), (va.toNat, 33), (m.toNat, 12), (ty.code, 8)])
  | .vfrmin g v1 ty vd va m => some ((vSlot v1), word64 0x55 g [(vd.toNat, 42), (va.toNat, 33), (m.toNat, 12), (ty.code, 8)])
  | .vcmp g v1 cc ty vec vd va vb m => some ((vSlot v1), word64 0x58 g [(vd.toNat, 42), (va.toNat, 33), (vb.toNat, 24), (m.toNat, 12), (ty.code, 8), (vec.toNat, 4), (cc.code, 0)])
  | .vfcmp g v1 fc ty vec vd va vb m => some ((vSlot v1), word64 0x59 g [(vd.toNat, 42), (va.toNat, 33), (vb.toNat, 24), (m.toNat, 12), (ty.code, 8), (vec.toNat, 4), (fc.code, 0)])
  | .mlog g v1 md ma mb tt => some ((vSlot v1), word64 0x5A g [(md.toNat, 42), (ma.toNat, 33), (mb.toNat, 24), (tt.toNat, 0)])
  | .vtmask g v1 ty fill kb vd va vb m => some ((vSlot v1), word64 0x60 g [(vd.toNat, 42), (va.toNat, 33), (vb.toNat, 24), (m.toNat, 12), (ty.code, 8), (fill.toNat, 5), (kb.toNat, 0)])
  | .psqz g v1 ty k pmin vd va m => some ((vSlot v1), word64 0x68 g [(vd.toNat, 42), (va.toNat, 33), (m.toNat, 30), (ty.code, 26), (k.toNat, 16), (pmin.toNat, 0)])
  | .plut g v1 vd va vb m => some ((vSlot v1), word64 0x69 g [(vd.toNat, 42), (va.toNat, 33), (vb.toNat, 24), (m.toNat, 12)])
  | .pmix g v1 vd va vb vc m => some ((vSlot v1), word64 0x6A g [(vd.toNat, 42), (va.toNat, 33), (vb.toNat, 24), (vc.toNat, 15), (m.toNat, 12)])
  | .cdec g cs vd va m => some (.v1, word64 0x80 g [(vd.toNat, 42), (va.toNat, 33), (m.toNat, 12), (cs.toNat, 0)])
  | .cenc g cs va vb m => some (.v1, word64 0x81 g [(va.toNat, 33), (vb.toNat, 24), (m.toNat, 12), (cs.toNat, 0)])
  | .cdecm g cs vd va m => some (.v1, word64 0x82 g [(vd.toNat, 42), (va.toNat, 33), (m.toNat, 12), (cs.toNat, 0)])
  | .cencm g cs va vb m => some (.v1, word64 0x83 g [(va.toNat, 33), (vb.toNat, 24), (m.toNat, 12), (cs.toNat, 0)])
  | .cinit g enc cs va vb vc m => some (.v1, word64 0x84 g [(va.toNat, 33), (vb.toNat, 24), (vc.toNat, 15), (m.toNat, 12), (enc.toNat, 2), (cs.toNat, 0)])
  | .cflush g cs m => some (.v1, word64 0x85 g [(m.toNat, 12), (cs.toNat, 0)])
  | .csave g cs vd m => some (.v1, word64 0x86 g [(vd.toNat, 42), (m.toNat, 12), (cs.toNat, 0)])
  | .cload g cs va m => some (.v1, word64 0x87 g [(va.toNat, 33), (m.toNat, 12), (cs.toNat, 0)])
  | .cstat g sel cs md m => some (.v1, word64 0x88 g [(md.toNat, 42), (m.toNat, 12), (sel.toNat, 2), (cs.toNat, 0)])
  | .mma g o => some (.m, word64 0x01 g [(o.code, 8)])
  | .mmaz g o => some (.m, word64 0x02 g [(o.code, 8)])
  | .mmam g o rmk cmk => some (.m, word64 0x03 g [(o.code, 8), (rmk.toNat, 5), (cmk.toNat, 2)])
  | .mcall g entry => some (.m, word64 0x04 g [(entry.toNat, 13)])
  | .mret g => some (.m, word64 0x05 g [])
  | .mcb g t => some (.m, word64 0x06 g [(t.toNat, 36)])
  | .mzb g t => some (.m, word64 0x07 g [(t.toNat, 36)])
  | .mrgat g vx mk => some (.m, word64 0x08 g [(vx.toNat, 24), (mk.toNat, 17)])
  | .mrule g qt mode chk bnd fix gens => some (.m, word64 0x09 g [(qt.toNat, 39), (mode.toNat, 18), (chk.toNat, 17), (bnd.toNat, 15), (fix.toNat, 11), (gens.toNat, 3)])
  | .mrtab g t row => some (.m, word64 0x0A g [(t.toNat, 36), (row.toNat, 14)])
  | .aclr g acc cntm1 => some (.m, word64 0x0B g [(acc.toNat, 39), (cntm1.toNat, 0)])
  | .mpld g t entry row nrm1 => some (.m, word64 0x0C g [(t.toNat, 36), (entry.toNat, 13), (row.toNat, 7), (nrm1.toNat, 3)])
  | .lds g ty sd sa imm land => some (.l, word64 0x01 g [(sd.toNat, 42), (sa.toNat, 36), (land.toNat, 21), (ty.code, 14), (imm.toNat, 0)])
  | .ldv g ty vd sa imm land m => some (.l, word64 0x02 g [(vd.toNat, 42), (sa.toNat, 36), (land.toNat, 21), (m.toNat, 18), (ty.code, 14), (imm.toNat, 0)])
  | .ldvs g ty vd sa sx imm land m => some (.l, word64 0x03 g [(vd.toNat, 42), (sa.toNat, 36), (sx.toNat, 27), (land.toNat, 21), (m.toNat, 18), (ty.code, 14), (imm.toNat, 0)])
  | .ldg g ty scaled vd sa vx imm land m => some (.l, word64 0x04 g [(vd.toNat, 42), (sa.toNat, 36), (vx.toNat, 27), (land.toNat, 21), (m.toNat, 18), (ty.code, 14), (scaled.toNat, 10), (imm.toNat, 0)])
  | .ldb g ty vd sa imm land m => some (.l, word64 0x05 g [(vd.toNat, 42), (sa.toNat, 36), (land.toNat, 21), (m.toNat, 18), (ty.code, 14), (imm.toNat, 0)])
  | .ldt g t grp sa imm land => some (.l, word64 0x06 g [(t.toNat, 42), (sa.toNat, 36), (land.toNat, 21), (grp.toNat, 10), (imm.toNat, 0)])
  | .ldp g f k mid vd sa sx land m => some (.l, word64 0x07 g [(vd.toNat, 42), (sa.toNat, 36), (sx.toNat, 27), (land.toNat, 21), (m.toNat, 18), (8, 14), (k.toNat, 6), (f.toNat, 4), (mid.toNat, 3)])
  | .ldc g cs land m => some (.l, word64 0x08 g [(cs.toNat, 42), (land.toNat, 21), (m.toNat, 18)])
  | .sts g ty ss sa imm => some (.st, word64 0x01 g [(ss.toNat, 42), (sa.toNat, 36), (ty.code, 14), (imm.toNat, 0)])
  | .stv g ty vs sa imm m => some (.st, word64 0x02 g [(vs.toNat, 42), (sa.toNat, 36), (m.toNat, 18), (ty.code, 14), (imm.toNat, 0)])
  | .stvs g ty vs sa sx imm m => some (.st, word64 0x03 g [(vs.toNat, 42), (sa.toNat, 36), (sx.toNat, 27), (m.toNat, 18), (ty.code, 14), (imm.toNat, 0)])
  | .stsc g ty scaled vs sa vx imm m => some (.st, word64 0x04 g [(vs.toNat, 42), (sa.toNat, 36), (vx.toNat, 27), (m.toNat, 18), (ty.code, 14), (scaled.toNat, 10), (imm.toNat, 0)])
  | .stt g t grp sa imm => some (.st, word64 0x05 g [(t.toNat, 42), (sa.toNat, 36), (grp.toNat, 10), (imm.toNat, 0)])
  | .stq g t q => some (.st, word64 0x06 g [(t.toNat, 42), (q.toNat, 27)])
  | .stz g sa imm => some (.st, word64 0x07 g [(sa.toNat, 36), (imm.toNat, 0)])
  | .xsv g ty lane vd sa => some (.x, word48 0x01 g [(vd.toNat, 26), (sa.toNat, 14), (ty.code, 10), (lane.toNat, 0)])
  | .xsvb g ty vd sa => some (.x, word48 0x02 g [(vd.toNat, 26), (sa.toNat, 14), (ty.code, 10)])
  | .xvs g ty lane sd va => some (.x, word48 0x03 g [(va.toNat, 26), (sd.toNat, 14), (ty.code, 10), (lane.toNat, 0)])
  | .xvt g va t col idx w => some (.x, word48 0x04 g [(va.toNat, 26), (t.toNat, 23), (col.toNat, 22), (idx.toNat, 16), (w.toNat, 14)])
  | .xtv g vd t col idx w => some (.x, word48 0x05 g [(vd.toNat, 26), (t.toNat, 23), (col.toNat, 22), (idx.toNat, 16), (w.toNat, 14)])
  | .xav g vd acc => some (.x, word48 0x06 g [(vd.toNat, 26), (acc.toNat, 14)])
  | .xva g va acc => some (.x, word48 0x07 g [(va.toNat, 26), (acc.toNat, 14)])
  | .xcopy g lenm1 sa sb => some (.x, word48 0x10 g [(sa.toNat, 29), (sb.toNat, 23), (lenm1.toNat, 11)])
  | .xpack g f rm inf sa sb => some (.x, word48 0x11 g [(sa.toNat, 29), (sb.toNat, 23), (f.toNat, 20), (rm.code, 18), (inf.toNat, 17)])
  | .xunpk g f sa sb => some (.x, word48 0x12 g [(sa.toNat, 29), (sb.toNat, 23), (f.toNat, 20)])
  | .xdec g sa sb => some (.x, word48 0x13 g [(sa.toNat, 29), (sb.toNat, 23)])
  | .xzs g exp sa sb => some (.x, word48 0x14 g [(sa.toNat, 29), (sb.toNat, 23), (exp.toNat, 22)])
  | .xcrc g lenm1 sa sb => some (.x, word48 0x15 g [(sa.toNat, 29), (sb.toNat, 23), (lenm1.toNat, 11)])
  | .xnest g entry sa sb => some (.x, word48 0x18 g [(sa.toNat, 29), (sb.toNat, 23), (entry.toNat, 16)])
  | .xbcast g sa => some (.x, word48 0x20 g [(sa.toNat, 29)])
  | .xgath g sa => some (.x, word48 0x21 g [(sa.toNat, 29)])
  | .xsend g sa => some (.x, word48 0x22 g [(sa.toNat, 29)])
  | .xrecv g sa => some (.x, word48 0x23 g [(sa.toNat, 29)])
  | .xrscat g sa => some (.x, word48 0x24 g [(sa.toNat, 29)])
  | .xallred g sa => some (.x, word48 0x25 g [(sa.toNat, 29)])
  | .xcancel g sa sb => some (.x, word48 0x26 g [(sa.toNat, 29), (sb.toNat, 23)])
  | .twait g sa sb => some (.y, word48 0x01 g [(sa.toNat, 29), (sb.toNat, 23)])
  | .tsig g sb => some (.y, word48 0x02 g [(sb.toNat, 23)])
  | .tread g sd sa land => some (.y, word48 0x03 g [(sd.toNat, 29), (sa.toNat, 23), (land.toNat, 11)])
  | .fence g sc => some (.y, word48 0x08 g [(sc.toNat, 20)])
  | .aadd g ty ret sd sa sb land => some (.y, word48 0x10 g [(sd.toNat, 29), (sa.toNat, 23), (sb.toNat, 17), (land.toNat, 11), (ret.toNat, 10), (ty.code, 8)])
  | .aand g ty ret sd sa sb land => some (.y, word48 0x11 g [(sd.toNat, 29), (sa.toNat, 23), (sb.toNat, 17), (land.toNat, 11), (ret.toNat, 10), (ty.code, 8)])
  | .aor g ty ret sd sa sb land => some (.y, word48 0x12 g [(sd.toNat, 29), (sa.toNat, 23), (sb.toNat, 17), (land.toNat, 11), (ret.toNat, 10), (ty.code, 8)])
  | .axor g ty ret sd sa sb land => some (.y, word48 0x13 g [(sd.toNat, 29), (sa.toNat, 23), (sb.toNat, 17), (land.toNat, 11), (ret.toNat, 10), (ty.code, 8)])
  | .amin g ty ret sd sa sb land => some (.y, word48 0x14 g [(sd.toNat, 29), (sa.toNat, 23), (sb.toNat, 17), (land.toNat, 11), (ret.toNat, 10), (ty.code, 8)])
  | .amax g ty ret sd sa sb land => some (.y, word48 0x15 g [(sd.toNat, 29), (sa.toNat, 23), (sb.toNat, 17), (land.toNat, 11), (ret.toNat, 10), (ty.code, 8)])
  | .aswp g ty ret sd sa sb land => some (.y, word48 0x16 g [(sd.toNat, 29), (sa.toNat, 23), (sb.toNat, 17), (land.toNat, 11), (ret.toNat, 10), (ty.code, 8)])
  | .acas g ty ret sd sa sb land => some (.y, word48 0x17 g [(sd.toNat, 29), (sa.toNat, 23), (sb.toNat, 17), (land.toNat, 11), (ret.toNat, 10), (ty.code, 8)])
  | .afadd g ret sd sa sb land => some (.y, word48 0x18 g [(sd.toNat, 29), (sa.toNat, 23), (sb.toNat, 17), (land.toNat, 11), (ret.toNat, 10)])
  | .mred g sa => some (.y, word48 0x20 g [(sa.toNat, 29)])
  | .arrive g bar => some (.y, word48 0x28 g [(bar.toNat, 18)])
  | .bwait g bar => some (.y, word48 0x29 g [(bar.toNat, 18)])
  | .drop g bar => some (.y, word48 0x2A g [(bar.toNat, 18)])
  | .qpush g sa sb => some (.y, word48 0x30 g [(sa.toNat, 29), (sb.toNat, 23)])
  | .qpop g sd sa land => some (.y, word48 0x31 g [(sd.toNat, 29), (sa.toNat, 23), (land.toNat, 11)])
  | .launch g sa sb => some (.y, word48 0x38 g [(sa.toNat, 29), (sb.toNat, 23)])
  | .cvclaim g sd sa land => some (.y, word48 0x40 g [(sd.toNat, 29), (sa.toNat, 23), (land.toNat, 11)])
  | .cvdone g sa sb => some (.y, word48 0x41 g [(sa.toNat, 29), (sb.toNat, 23)])
  | .pwait g sa sb => some (.y, word48 0x48 g [(sa.toNat, 29), (sb.toNat, 23)])
  | .trap g sa code => some (.y, word48 0x50 g [(sa.toNat, 29), (code.toNat, 0)])
  | .halt g => some (.y, word48 0x51 g [])
  | .ffence g => some (.y, word48 0x52 g [])
  | .tinvPage g sa sb sc => some (.y, word48 0xE0 g [(sa.toNat, 29), (sb.toNat, 23), (sc.toNat, 20)])
  | .tinvAsid g sb sc => some (.y, word48 0xE1 g [(sb.toNat, 23), (sc.toNat, 20)])
  | .tinvAll g sc => some (.y, word48 0xE2 g [(sc.toNat, 20)])
  | .smap g op q sa => some (.y, word48 0xE4 g [(q.toNat, 26), (sa.toNat, 20), (op.toNat, 18)])
  | .sdrain g op q => some (.y, word48 0xE5 g [(q.toNat, 26), (op.toNat, 18)])
  | .phase g => some (.y, word48 0xE8 g [])
  | .emptyBundle .. | .blockedBundleRetry .. | .tableWalk .. | .loadDataArrival .. | .tinvComplete .. | .stashLineFill ..
  | .stashDrainComplete .. | .accumulatorWriteFinish .. | .ruleGeneration .. | .engineCommandAccept .. | .fenceComplete .. | .copyPoint ..
  | .spillReplay .. | .nestPoint .. | .planeLanding .. | .cancelPropagation .. | .mredArrival .. | .msuReductionLine ..
  | .msuAccess .. | .phaseMerge .. | .taskHaltComplete .. | .partitionSelection .. | .queueAged .. | .contextSave ..
  | .contextRestore .. | .watchdogExpiry .. | .eresume .. | .save .. | .resume .. | .contain ..
  | .fwd .. | .park .. | .ringEnable .. | .tokenQueueEnable .. | .tokenQueueDisable .. | .registerWrite ..
  | .fabricRequestArrival .. | .linkFailure .. | .destinationUnreachable .. | .softErrorCorrected .. | .softErrorUncorrectable .. | .coldReset ..
  | .hbmZeroComplete .. | .lifecycleTransition .. | .fusectrAdvance .. | .attestationRequest .. | .objectLoad .. | .textPageIn ..
  | .qtailDoorbell .. | .commandQueueEnable .. | .errClear .. | .controlEventDispatch .. | .nopPacket .. | .launchPacket ..
  | .ibcallPacket .. | .ibretPacket .. | .predPacket .. | .loopPacket .. | .writePacket .. | .twaitPacket ..
  | .tsigPacket .. | .ffencePacket .. | .wakearmPacket .. | .controlCoreGate .. | .wakeFrame .. | .hostMemoryWrite ..
  | .linkLevelRetry .. | .fabricAcknowledgement .. | .millraceDelivery .. | .collectiveDelivery .. | .ringHeadAdvance .. => none

/-- The EMPTY field with all slots empty but one. -/
def emptyBut (sl : Slot) : Nat := (0xFF - 2 ^ sl.index)

/-- Header ports for one operation alone in its bundle (R154). -/
def portField (sl : Slot) (w : Nat) : Nat :=
  let n := portReads sl w
  match sl with
  | .v0 => n * 2^4 | .v1 => n * 2^6 | .m => n * 2^8 | .l => n * 2^9
  | .st => n * 2^10 + (if isScatter w then 2^9 else 0)
  | .x => n * 2^11 | .s => 0 | .y => 0

/-- A native checkpoint bundle that holds one operation alone (R152 to R155). -/
def bundleOf (sl : Slot) (w : Nat) : Nat :=
  1 + portField sl w + emptyBut sl * 2^12 + w * 2 ^ sl.pos.1

/-- The bundle whose slots are all empty (R155), a native checkpoint bundle. -/
def emptyBundleWord : Nat := 1 + 0xFF * 2^12

/-- The bundle of one instruction alone. -/
def encodeBundle : Instr → Option Nat
  | .emptyBundle => some emptyBundleWord
  | i => (encode i).map fun p => bundleOf p.1 p.2

/-- The slots of a bundle that hold an operation, in slot order (R155). -/
def usedSlots (b : Nat) : List Slot := Slot.all.filter fun sl => !(headerOf b).isEmpty sl

/-- The slot word is a NOP (R156). -/
def slotIsNop (b : Nat) (sl : Slot) : Bool := slotWord b sl == 0

/-- The slot whose operation a bundle is read for: the first used slot that holds more than a NOP, else the first
used slot. -/
def mainSlot (b : Nat) : Option Slot :=
  match (usedSlots b).filter fun sl => !slotIsNop b sl with
  | sl :: _ => some sl
  | [] => (usedSlots b).head?

/-- The instruction a bundle stands for as a row of the opcode table: the operation of its main slot, or the
empty bundle; none where the slot holds no operation or the header is illegal (R153). -/
def decodeBundleWord (b : Nat) : Option Instr :=
  let h := headerOf b
  if h.cls.toNat ≥ 2 || h.rsv ≠ 0 || (h.safe && !h.ckpt) then none
  else match mainSlot b with
    | none => some .emptyBundle
    | some sl => (decodeSlot sl (slotWord b sl)).toOption

/-- The instruction read from a row's bits (the bits above nbits are zero): a bundle is 512 bits, stored
little-endian, bit 0 the lowest of its first byte (R152). -/
def decodeTableWord (nbits w : Nat) : Option Instr := decodeBundleWord (w % 2 ^ nbits % 2 ^ 512)

end Sys2Proof
end

