-- ==== Sys2Proof/Machine/Flags.lean ====
section
/-! DEFINITION. The conditions of the compares and the truth tables of the logic operations (R174, R175, R200). -/

namespace Sys2Proof.Machine

/-- An integer condition of Table 9-3 on two w-bit patterns. -/
def icondHolds (c : ICond) (w a b : Nat) : Bool :=
  match c with
  | .eq => a % 2 ^ w == b % 2 ^ w
  | .ne => a % 2 ^ w != b % 2 ^ w
  | .ltS => signedOf w a < signedOf w b
  | .leS => signedOf w a ≤ signedOf w b
  | .gtS => signedOf w b < signedOf w a
  | .geS => signedOf w b ≤ signedOf w a
  | .ltZ => a % 2 ^ w < b % 2 ^ w
  | .leZ => a % 2 ^ w ≤ b % 2 ^ w
  | .gtZ => b % 2 ^ w < a % 2 ^ w
  | .geZ => b % 2 ^ w ≤ a % 2 ^ w

/-- tt[2·a + b] of a four-bit truth table (R175, R200). -/
def truthAt (tt : BitVec 4) (a b : Bool) : Bool := tt.getLsbD (2 * a.toNat + b.toNat)

/-- Word whose bit j is tt[2·a[j] + b[j]] (R200). -/
def truthWord (tt : BitVec 4) (a b : Word) : Word :=
  BitVec.ofNat 64 (packElems 1 (fun j => (truthAt tt (a.getLsbD j) (b.getLsbD j)).toNat) 64)

end Sys2Proof.Machine
end

