-- ==== Sys2Proof/Machine/Scalar.lean ====
section
/-! DEFINITION. The S slot: integer register and immediate operations, compares and predicate logic
(R167 to R176). -/

namespace Sys2Proof.Machine

/-- A two-register integer operation with its result and latency (R169). -/
def intOp (g : Guard) (sd sa sb : SCode) (f : Word → Word → Word) (l : Nat) (s : State) : Out :=
  guarded g s (readingS s 0 [sa, sb] (finishS s sd (f (s.readS sa) (s.readS sb)) l))

/-- An immediate operation (R172). -/
def immOp (g : Guard) (sd sa : SCode) (f : Word → Word) (s : State) : Out :=
  guarded g s (readingS s 0 [sa] (finishS s sd (f (s.readS sa)) 1))

/-- Two predicates take a truth value and its complement (R174, R175). -/
def predPair (s : State) (pt pf : PCode) (t : Bool) : Out := .next ((s.writeP pt t).writeP pf (!t))

/-- A register read as SG says: signed or unsigned. -/
def sgValue (sg : Bool) (x : Word) : Int := if sg then x.toInt else (x.toNat : Int)

/-- Bits [127:64] of the exact product (R169). -/
def mulHigh (sg : Bool) (a b : Word) : Word := BitVec.ofInt 64 (sgValue sg a * sgValue sg b / 2 ^ 64)

/-- The quotient of R170. -/
def quotOf (sg : Bool) (a b : Word) : Word :=
  if b = 0 then BitVec.allOnes 64 else BitVec.ofInt 64 ((sgValue sg a).tdiv (sgValue sg b))

/-- The remainder of R170. -/
def remOf (sg : Bool) (a b : Word) : Word :=
  if b = 0 then a else BitVec.ofInt 64 ((sgValue sg a).tmod (sgValue sg b))

/-- a shifted left by the count's bits [5:0]. -/
def shlOf (a b : Word) : Word := a <<< (b.toNat % 64)

/-- a shifted right by the count's bits [5:0]. -/
def shrOf (sg : Bool) (a b : Word) : Word := if sg then a.sshiftRight (b.toNat % 64) else a >>> (b.toNat % 64)

/-- The smaller of two registers. -/
def minOf (sg : Bool) (a b : Word) : Word := if sgValue sg a ≤ sgValue sg b then a else b

/-- The larger of two registers. -/
def maxOf (sg : Bool) (a b : Word) : Word := if sgValue sg a ≤ sgValue sg b then b else a

/-- sext(imm, 32). -/
def sext32 (imm : BitVec 32) : Word := imm.signExtend 64

/-- ADD (R169). -/
def execAdd (g : Guard) (sd sa sb : SCode) (s : State) : Out := intOp g sd sa sb (· + ·) 1 s

/-- SUB (R169). -/
def execSub (g : Guard) (sd sa sb : SCode) (s : State) : Out := intOp g sd sa sb (· - ·) 1 s

/-- MUL (R169). -/
def execMul (g : Guard) (sd sa sb : SCode) (s : State) : Out := intOp g sd sa sb (· * ·) 3 s

/-- MULH (R169). -/
def execMulh (g : Guard) (sg : Bool) (sd sa sb : SCode) (s : State) : Out := intOp g sd sa sb (mulHigh sg) 3 s

/-- DIV (R170). -/
def execDiv (g : Guard) (sg : Bool) (sd sa sb : SCode) (s : State) : Out := intOp g sd sa sb (quotOf sg) 20 s

/-- REM (R170). -/
def execRem (g : Guard) (sg : Bool) (sd sa sb : SCode) (s : State) : Out := intOp g sd sa sb (remOf sg) 20 s

/-- AND (R169). -/
def execAnd (g : Guard) (sd sa sb : SCode) (s : State) : Out := intOp g sd sa sb (· &&& ·) 1 s

/-- OR (R169). -/
def execOr (g : Guard) (sd sa sb : SCode) (s : State) : Out := intOp g sd sa sb (· ||| ·) 1 s

/-- XOR (R169). -/
def execXor (g : Guard) (sd sa sb : SCode) (s : State) : Out := intOp g sd sa sb (· ^^^ ·) 1 s

/-- ANDN (R169). -/
def execAndn (g : Guard) (sd sa sb : SCode) (s : State) : Out := intOp g sd sa sb (fun a b => a &&& ~~~b) 1 s

/-- SHL (R169). -/
def execShl (g : Guard) (sd sa sb : SCode) (s : State) : Out := intOp g sd sa sb shlOf 1 s

/-- SHR (R169). -/
def execShr (g : Guard) (sg : Bool) (sd sa sb : SCode) (s : State) : Out := intOp g sd sa sb (shrOf sg) 1 s

/-- MIN (R169). -/
def execMin (g : Guard) (sg : Bool) (sd sa sb : SCode) (s : State) : Out := intOp g sd sa sb (minOf sg) 1 s

/-- MAX (R169). -/
def execMax (g : Guard) (sg : Bool) (sd sa sb : SCode) (s : State) : Out := intOp g sd sa sb (maxOf sg) 1 s

/-- ADDI (R172). -/
def execAddi (g : Guard) (sd sa : SCode) (imm : BitVec 32) (s : State) : Out := immOp g sd sa (fun a => a + sext32 imm) s

/-- ANDI (R172). -/
def execAndi (g : Guard) (sd sa : SCode) (imm : BitVec 32) (s : State) : Out := immOp g sd sa (fun a => a &&& sext32 imm) s

/-- ORI (R172). -/
def execOri (g : Guard) (sd sa : SCode) (imm : BitVec 32) (s : State) : Out := immOp g sd sa (fun a => a ||| sext32 imm) s

/-- XORI (R172). -/
def execXori (g : Guard) (sd sa : SCode) (imm : BitVec 32) (s : State) : Out := immOp g sd sa (fun a => a ^^^ sext32 imm) s

/-- SHLI (R172). -/
def execShli (g : Guard) (sd sa : SCode) (imm : BitVec 32) (s : State) : Out := immOp g sd sa (fun a => shlOf a (sext32 imm)) s

/-- SHRI (R172). -/
def execShri (g : Guard) (sg : Bool) (sd sa : SCode) (imm : BitVec 32) (s : State) : Out :=
  immOp g sd sa (fun a => shrOf sg a (sext32 imm)) s

/-- MOVI (R172). -/
def execMovi (g : Guard) (sd : SCode) (imm : BitVec 32) (s : State) : Out := guarded g s (finishS s sd (sext32 imm) 1)

/-- MOVHI (R172). -/
def execMovhi (g : Guard) (sd sa : SCode) (imm : BitVec 32) (s : State) : Out :=
  immOp g sd sa (fun a => (imm.setWidth 64 <<< 32) ||| (a &&& 0xFFFFFFFF#64)) s

/-- LEA (R172). -/
def execLea (g : Guard) (k : BitVec 3) (sd sa : SCode) (imm : BitVec 32) (s : State) : Out :=
  immOp g sd sa (fun a => a + (sext32 imm <<< k.toNat)) s

/-- CMP (R174). -/
def execCmp (g : Guard) (cc : ICond) (pt pf : PCode) (sa sb : SCode) (s : State) : Out :=
  guarded g s (readingS s 0 [sa, sb]
    (predPair s pt pf (icondHolds cc 64 (s.readS sa).toNat (s.readS sb).toNat)))

/-- CMPI (R174). -/
def execCmpi (g : Guard) (cc : ICond) (pt pf : PCode) (sa : SCode) (imm : BitVec 20) (s : State) : Out :=
  guarded g s (readingS s 0 [sa]
    (predPair s pt pf (icondHolds cc 64 (s.readS sa).toNat (imm.signExtend 64).toNat)))

/-- FCMP (R174). -/
def execFcmp (g : Guard) (fc : FCond) (pt pf : PCode) (sa sb : SCode) (s : State) : Out :=
  guarded g s (readingS s 0 [sa, sb]
    (predPair s pt pf (fcondHolds fc (Fmt.fp32.value (s.readS sa).toNat) (Fmt.fp32.value (s.readS sb).toNat))))

/-- PLOG (R175). -/
def execPlog (g : Guard) (pt pf pa pb : PCode) (tt : BitVec 4) (s : State) : Out :=
  guarded g s (predPair s pt pf (truthAt tt (s.readP pa) (s.readP pb)))

/-- NOP (R156). -/
def execNop (_slot : Slot) (s : State) : Out := .next s

end Sys2Proof.Machine
end

