-- ==== Sys2Proof/Machine/Vector.lean ====
section
/-! DEFINITION. The V slots: lanewise integer operations, compares into masks and lanes, mask logic, the tree mask
(R188 to R192, R200 to R202). -/

namespace Sys2Proof.Machine

/-- Slot number of a V slot. -/
def vNum (v1 : Bool) : Nat := if v1 then 2 else 1

/-- Lane l of vector field c as an integer of type t. -/
def State.laneInt (s : State) (c : VCode) (t : Ty) (l : Nat) : Int := intOf t (lane (s.readV c) t l)

/-- Lane l of vector field c as a bit pattern. -/
def State.laneBits (s : State) (c : VCode) (t : Ty) (l : Nat) : Nat := lane (s.readV c) t l

/-- A lanewise operation with a write mask: the vector fields it reads, the lanes of its result, its latency
(R188). -/
def laneOp (g : Guard) (v1 : Bool) (t : Ty) (srcs : List VCode) (vd : VCode) (m : MCode) (f : Nat → Nat) (l : Nat)
    (s : State) : Out :=
  guarded g s (readingV s (vNum v1) srcs (writeV s (vNum v1) vd t m (ofLanes t f) l))

/-- A lanewise operation that reads a scalar register too (R191, R198). -/
def wideOp (g : Guard) (v1 : Bool) (t : Ty) (srcs : List VCode) (vd : VCode) (m : MCode) (sa : SCode) (f : Nat → Nat)
    (l : Nat) (s : State) : Out :=
  guarded g s (readingS s (vNum v1) [sa]
    (readingV s (vNum v1) srcs (writeV s (vNum v1) vd t m (ofLanes t f) l)))

/-- An exact lane result, wrapped or saturated to the type (R191). -/
def narrow (t : Ty) (sat : Bool) (x : Int) : Nat := if sat then satTy t x else wrapTy t x

/-- A two-operand integer form (R191). -/
def vint2 (g : Guard) (v1 : Bool) (t : Ty) (sat : Bool) (vd va vb : VCode) (m : MCode) (f : Int → Int → Int)
    (s : State) : Out :=
  laneOp g v1 t [va, vb] vd m (fun l => narrow t sat (f (s.laneInt va t l) (s.laneInt vb t l))) 2 s

/-- A two-operand form on bit patterns (R191). -/
def vbit2 (g : Guard) (v1 : Bool) (t : Ty) (vd va vb : VCode) (m : MCode) (f : Nat → Nat → Nat) (s : State) : Out :=
  laneOp g v1 t [va, vb] vd m (fun l => f (s.laneBits va t l) (s.laneBits vb t l)) 2 s

/-- The immediate operand of a W form: wrap(sext(imm, 16), t) (R191). -/
def wImm (t : Ty) (imm : BitVec 16) : Nat := wrapTy t imm.toInt

/-- The scalar count of a W form: s[sa] + sext(imm, 16), wrapped to 64 bits (R191, R198). -/
def State.wCount (s : State) (sa : SCode) (imm : BitVec 16) : Nat := (s.readS sa + imm.signExtend 64).toNat

/-- A lane shifted left by the low bits of a count (R191). -/
def laneShl (t : Ty) (a k : Nat) : Nat := a * 2 ^ (k % t.bits) % 2 ^ t.bits

/-- A lane shifted right by the low bits of a count; sign bits enter for .s types (R191). -/
def laneShr (t : Ty) (a k : Nat) : Nat := wrapTy t (intOf t a / ((2 ^ (k % t.bits) : Nat) : Int))

/-- VADD (R191). -/
def execVadd (g : Guard) (v1 : Bool) (ty : Ty) (sat : Bool) (vd va vb : VCode) (m : MCode) (s : State) : Out :=
  vint2 g v1 ty sat vd va vb m (· + ·) s

/-- VSUB (R191). -/
def execVsub (g : Guard) (v1 : Bool) (ty : Ty) (sat : Bool) (vd va vb : VCode) (m : MCode) (s : State) : Out :=
  vint2 g v1 ty sat vd va vb m (· - ·) s

/-- VMUL (R191). -/
def execVmul (g : Guard) (v1 : Bool) (ty : Ty) (sat : Bool) (vd va vb : VCode) (m : MCode) (s : State) : Out :=
  vint2 g v1 ty sat vd va vb m (· * ·) s

/-- VMULH (R191). -/
def execVmulh (g : Guard) (v1 : Bool) (ty : Ty) (vd va vb : VCode) (m : MCode) (s : State) : Out :=
  vint2 g v1 ty false vd va vb m (fun a b => a * b / ((2 ^ ty.bits : Nat) : Int)) s

/-- VMIN (R191). -/
def execVmin (g : Guard) (v1 : Bool) (ty : Ty) (vd va vb : VCode) (m : MCode) (s : State) : Out :=
  vint2 g v1 ty false vd va vb m (fun a b => if a ≤ b then a else b) s

/-- VMAX (R191). -/
def execVmax (g : Guard) (v1 : Bool) (ty : Ty) (vd va vb : VCode) (m : MCode) (s : State) : Out :=
  vint2 g v1 ty false vd va vb m (fun a b => if a ≤ b then b else a) s

/-- VABS (R191). -/
def execVabs (g : Guard) (v1 : Bool) (ty : Ty) (sat : Bool) (vd va : VCode) (m : MCode) (s : State) : Out :=
  laneOp g v1 ty [va] vd m (fun l => narrow ty sat (s.laneInt va ty l).natAbs) 2 s

/-- VNEG (R191). -/
def execVneg (g : Guard) (v1 : Bool) (ty : Ty) (sat : Bool) (vd va : VCode) (m : MCode) (s : State) : Out :=
  laneOp g v1 ty [va] vd m (fun l => narrow ty sat (-(s.laneInt va ty l))) 2 s

/-- VAND (R191). -/
def execVand (g : Guard) (v1 : Bool) (ty : Ty) (vd va vb : VCode) (m : MCode) (s : State) : Out :=
  vbit2 g v1 ty vd va vb m (· &&& ·) s

/-- VOR (R191). -/
def execVor (g : Guard) (v1 : Bool) (ty : Ty) (vd va vb : VCode) (m : MCode) (s : State) : Out :=
  vbit2 g v1 ty vd va vb m (· ||| ·) s

/-- VXOR (R191). -/
def execVxor (g : Guard) (v1 : Bool) (ty : Ty) (vd va vb : VCode) (m : MCode) (s : State) : Out :=
  vbit2 g v1 ty vd va vb m (· ^^^ ·) s

/-- VANDN (R191). -/
def execVandn (g : Guard) (v1 : Bool) (ty : Ty) (vd va vb : VCode) (m : MCode) (s : State) : Out :=
  vbit2 g v1 ty vd va vb m (fun a b => a ^^^ (a &&& b)) s

/-- VSHL (R191). -/
def execVshl (g : Guard) (v1 : Bool) (ty : Ty) (vd va vb : VCode) (m : MCode) (s : State) : Out :=
  vbit2 g v1 ty vd va vb m (laneShl ty) s

/-- VSHR (R191). -/
def execVshr (g : Guard) (v1 : Bool) (ty : Ty) (vd va vb : VCode) (m : MCode) (s : State) : Out :=
  vbit2 g v1 ty vd va vb m (laneShr ty) s

/-- VSEL (R191): the mask selects va, and every lane is written. -/
def execVsel (g : Guard) (v1 : Bool) (ty : Ty) (vd va vb : VCode) (m : MCode) (s : State) : Out :=
  guarded g s (readingV s (vNum v1) [va, vb]
    (storeV s (vNum v1) vd true (mergeLanes ty (s.readM m) (s.readV vb) (s.readV va)) (s.due 2)))

/-- VADDI (R191). -/
def execVaddi (g : Guard) (v1 : Bool) (ty : Ty) (sat : Bool) (vd va : VCode) (m : MCode) (imm : BitVec 16) (s : State) :
    Out :=
  laneOp g v1 ty [va] vd m (fun l => narrow ty sat (s.laneInt va ty l + intOf ty (wImm ty imm))) 2 s

/-- VANDI (R191). -/
def execVandi (g : Guard) (v1 : Bool) (ty : Ty) (vd va : VCode) (m : MCode) (imm : BitVec 16) (s : State) : Out :=
  laneOp g v1 ty [va] vd m (fun l => s.laneBits va ty l &&& wImm ty imm) 2 s

/-- VSHLI (R191). -/
def execVshli (g : Guard) (v1 : Bool) (ty : Ty) (vd va : VCode) (m : MCode) (sa : SCode) (imm : BitVec 16) (s : State) :
    Out :=
  wideOp g v1 ty [va] vd m sa (fun l => laneShl ty (s.laneBits va ty l) (s.wCount sa imm)) 2 s

/-- VSHRI (R191). -/
def execVshri (g : Guard) (v1 : Bool) (ty : Ty) (vd va : VCode) (m : MCode) (sa : SCode) (imm : BitVec 16) (s : State) :
    Out :=
  wideOp g v1 ty [va] vd m sa (fun l => laneShr ty (s.laneBits va ty l) (s.wCount sa imm)) 2 s

/-- VMOVI (R191). -/
def execVmovi (g : Guard) (v1 : Bool) (ty : Ty) (vd : VCode) (m : MCode) (imm : BitVec 16) (s : State) : Out :=
  laneOp g v1 ty [] vd m (fun _ => wImm ty imm) 2 s

/-! ### Compares -/

/-- A compare into lane mask md: bits of active lanes take the results (R200). -/
def maskCompare (s : State) (md : VCode) (m : MCode) (f : Nat → Bool) : Out :=
  .next (s.writeM (BitVec.ofNat 3 md.toNat) (s.readM m) (BitVec.ofNat 64 (packElems 1 (fun l => (f l).toNat) 64)) 2)

/-- A compare's result: lane mask, or lanes of ones and zeros (R200). -/
def compareOp (g : Guard) (v1 : Bool) (ty : Ty) (vec : Bool) (vd va vb : VCode) (m : MCode) (f : Nat → Bool)
    (s : State) : Out :=
  guarded g s (readingV s (vNum v1) [va, vb]
    (if vec then writeV s (vNum v1) vd ty m (ofLanes ty fun l => if f l then 2 ^ ty.bits - 1 else 0) 2
     else maskCompare s vd m f))

/-- VCMP (R200). -/
def execVcmp (g : Guard) (v1 : Bool) (cc : ICond) (ty : Ty) (vec : Bool) (vd va vb : VCode) (m : MCode) (s : State) :
    Out :=
  compareOp g v1 ty vec vd va vb m (fun l => icondHolds cc ty.bits (s.laneBits va ty l) (s.laneBits vb ty l)) s

/-- VFCMP (R200). -/
def execVfcmp (g : Guard) (v1 : Bool) (fc : FCond) (ty : Ty) (vec : Bool) (vd va vb : VCode) (m : MCode) (s : State) :
    Out :=
  compareOp g v1 ty vec vd va vb m
    (fun l => fcondHolds fc (valueOf ty (s.laneBits va ty l)) (valueOf ty (s.laneBits vb ty l))) s

/-- MLOG (R200). -/
def execMlog (g : Guard) (_v1 : Bool) (md ma mb : MCode) (tt : BitVec 4) (s : State) : Out :=
  guarded g s (.next (s.writeM md (BitVec.allOnes 64) (truthWord tt (s.readM ma) (s.readM mb)) 2))

/-- VTMASK (R202). -/
def execVtmask (g : Guard) (v1 : Bool) (ty : Ty) (fill : Bool) (kb : BitVec 5) (vd va vb : VCode) (m : MCode)
    (s : State) : Out :=
  let rest := if fill then 0 else match fmtOf ty with | some f => f.sign true + f.infinity | none => 0
  laneOp g v1 ty [va, vb] vd m
    (fun l => if (s.readV vb).getLsbD (kb.toNat * ty.lanes + l) then s.laneBits va ty l else rest) 2 s

end Sys2Proof.Machine
end

