-- ==== Sys2Proof/Machine/Coder.lean ====
section
/-! DEFINITION. The range coder: stream lanes, the coding arithmetic, the coder operations of V1 and the byte fetch
(R228 to R240). -/

namespace Sys2Proof.Machine

/-! ### One lane (Table 12-1) -/

/-- The state of one stream lane. -/
structure Lane where
  low : Nat
  range : Nat
  code : Nat
  cur : Nat
  lim : Nat
  budget : Nat
  pend : Nat
  fl : Bool
  prime : Bool
  enc : Bool
  first : Bool
  carry : Bool
  cache : Nat
  q : LaneQueue
deriving DecidableEq, Repr

/-- A lane from its words and its window. -/
def Lane.ofWords (w : Nat) (q : LaneQueue) : Lane :=
  { low := elem w 32 0, range := elem w 32 1, code := elem w 32 2, cur := elem w 32 3, lim := elem w 32 4,
    budget := elem w 32 5, pend := bitsOf w 208 16, fl := bitsOf w 204 1 == 1, prime := bitsOf w 203 1 == 1,
    enc := bitsOf w 202 1 == 1, first := bitsOf w 201 1 == 1, carry := bitsOf w 200 1 == 1, cache := bitsOf w 192 8,
    q := q }

/-- Flags and CACHE in the places of Table 12-5, without the status bits. -/
def Lane.flagWord (x : Lane) : Nat :=
  x.fl.toNat * 2 ^ 12 + x.prime.toNat * 2 ^ 11 + x.enc.toNat * 2 ^ 10 + x.first.toNat * 2 ^ 9 + x.carry.toNat * 2 ^ 8
    + x.cache

/-- The lane's words. -/
def Lane.words (x : Lane) : BitVec 224 :=
  BitVec.ofNat 224 (packElems 32 (fun i => match i with
    | 0 => x.low | 1 => x.range | 2 => x.code | 3 => x.cur | 4 => x.lim | 5 => x.budget
    | _ => x.pend * 65536 + x.flagWord) 7)

/-- ENDED or ERROR is set (R231). -/
def Lane.inert (x : Lane) : Bool := x.q.ended || x.q.error

/-- Bits of the words between bit k and bit k + n. -/
def wordMask (k n : Nat) : BitVec 224 := BitVec.ofNat 224 ((2 ^ n - 1) * 2 ^ k)

/-- RANGE, CODE, BUDGET and PRIME (Table 12-2). -/
def decodeMask : BitVec 224 := wordMask 32 64 ||| wordMask 160 32 ||| wordMask 203 1
/-- LOW, RANGE, BUDGET, CUR, PEND, FIRST, C and CACHE (Table 12-2). -/
def encodeMask : BitVec 224 := wordMask 0 64 ||| wordMask 160 32 ||| wordMask 96 32 ||| wordMask 208 16 ||| wordMask 192 10
/-- LOW, CUR, PEND, FL, FIRST, C and CACHE (Table 12-2). -/
def flushMask : BitVec 224 := wordMask 0 32 ||| wordMask 96 32 ||| wordMask 208 16 ||| wordMask 204 1 ||| wordMask 192 10

/-! ### The coding arithmetic -/

/-- F[0] to F[16] of a binary model; none outside 1 to 32,767 (R232). -/
def binTable (p0 : Nat) : Option (List Nat) :=
  if 1 ≤ p0 && p0 ≤ 32767 then some (0 :: p0 :: List.replicate 15 32768) else none

/-- The list never falls. -/
def rises : List Nat → Bool
  | a :: b :: xs => a ≤ b && rises (b :: xs)
  | _ => true

/-- F[0] to F[16] of a cumulative table; none when it is invalid. -/
def checkTable (f : List Nat) : Option (List Nat) :=
  if f.head? = some 0 && rises f && f.all (· ≤ 32768) then some (f ++ [32768]) else none

/-- F[i]. -/
def freqAt (f : List Nat) (i : Nat) : Nat := (f.drop i).head?.getD 32768

/-- The cut point b(i) of a range (R232). -/
def cutAt (range : Nat) (f : List Nat) (i : Nat) : Nat :=
  if freqAt f i = 32768 then range else range / 2 ^ 15 * freqAt f i

/-- A decode's renormalisation: code, range, bytes needed, OVERRUN (R232). -/
def renorm (win : List (Byte × Bool)) : Nat → Nat → Nat → Nat → Bool → Nat × Nat × Nat × Bool
  | 0, code, range, need, ovr => (code, range, need, ovr)
  | fuel + 1, code, range, need, ovr =>
    if range < 2 ^ 24 then
      let b := (win.drop need).head?.getD (0, false)
      renorm win fuel ((code * 256 + b.1.toNat) % 2 ^ 32) (range * 256) (need + 1) (ovr || b.2)
    else (code, range, need, ovr)

/-- What a decode does to a lane: symbol, new lane, bytes removed, OVERRUN; none sets ERROR and changes nothing else
(R232). -/
def decodeLane (f : Option (List Nat)) (x : Lane) : Option (Nat × Lane × Nat × Bool) :=
  match f with
  | none => none
  | some f =>
    if x.enc then none
    else
      let head := (upto 4).foldl (fun a i => a * 256 + ((x.q.win.drop i).head?.getD (0, false)).1.toNat) 0
      let code := if x.prime then head else x.code
      let range := if x.prime then 0xFFFFFFFF else x.range
      if range ≤ code then none
      else
        match (upto 16).find? fun s => cutAt range f s ≤ code && code < cutAt range f (s + 1) with
        | none => none
        | some s =>
          let r := renorm x.q.win 4 (code - cutAt range f s) (cutAt range f (s + 1) - cutAt range f s)
            (if x.prime then 4 else 0) false
          if x.q.win.length < r.2.2.1 then none
          else
            some (s, { x with code := r.1, range := r.2.1 % 2 ^ 32, prime := false,
                              budget := (x.budget + 2 ^ 32 - 1) % 2 ^ 32 }, r.2.2.1, r.2.2.2)

/-- A lane in the course of encoding: bytes stored (offset, byte), OVERRUN. -/
structure Emit where
  lane : Lane
  out : List (Nat × Byte)
  overrun : Bool
deriving DecidableEq, Repr

/-- emit(x); top: end of the stash window (R233). -/
def Emit.emit (top : Nat) (e : Emit) (b : Nat) : Emit :=
  let c := e.lane.cur
  let ok := c < e.lane.lim && c < top
  { lane := { e.lane with cur := (c + 1) % 2 ^ 32 },
    out := if ok then e.out ++ [(c, BitVec.ofNat 8 b)] else e.out, overrun := e.overrun || !ok }

/-- The same byte emitted n times. -/
def Emit.repeat_ (top b : Nat) : Nat → Emit → Emit
  | 0, e => e
  | n + 1, e => Emit.repeat_ top b n (e.emit top b)

/-- shift_low; none when PEND is at its greatest (R233). -/
def Emit.shift (top : Nat) (e : Emit) : Option Emit :=
  let x := e.lane
  let c := x.carry.toNat
  let moved := fun (e : Emit) => { e with lane := { e.lane with carry := false, low := e.lane.low * 256 % 2 ^ 32 } }
  if x.low < 0xFF000000 || x.carry then
    let e1 := if x.first then e else e.emit top ((x.cache + c) % 256)
    let e2 := e1.repeat_ top ((0xFF + c) % 256) x.pend
    some (moved { e2 with lane := { e2.lane with pend := 0, cache := x.low / 2 ^ 24, first := false } })
  else if x.pend = 0xFFFF then none
  else some (moved { e with lane := { x with pend := x.pend + 1 } })

/-- An encode's renormalisation. -/
def Emit.renorm (top : Nat) : Nat → Emit → Option Emit
  | 0, e => some e
  | fuel + 1, e =>
    if e.lane.range < 2 ^ 24 then
      match e.shift top with
      | none => none
      | some e1 => Emit.renorm top fuel { e1 with lane := { e1.lane with range := e1.lane.range * 256 } }
    else some e

/-- What an encode of symbol s does to a lane; none sets ERROR and changes nothing else (R233). -/
def encodeLane (top s : Nat) (f : Option (List Nat)) (x : Lane) : Option Emit :=
  match f with
  | none => none
  | some f =>
    if !x.enc || 15 < s || freqAt f s = freqAt f (s + 1) then none
    else
      let t := x.low + cutAt x.range f s
      let y : Lane := { x with low := t % 2 ^ 32, carry := x.carry || 2 ^ 32 ≤ t,
                               range := cutAt x.range f (s + 1) - cutAt x.range f s }
      match Emit.renorm top 4 { lane := y, out := [], overrun := false } with
      | none => none
      | some e => some { e with lane := { e.lane with range := e.lane.range % 2 ^ 32,
                                                      budget := (e.lane.budget + 2 ^ 32 - 1) % 2 ^ 32 } }

/-- n shifts. -/
def Emit.shifts (top : Nat) : Nat → Emit → Option Emit
  | 0, e => some e
  | n + 1, e => match e.shift top with | none => none | some e1 => Emit.shifts top n e1

/-! ### Lanes in the machine -/

/-- Entry of lane l of stream register n. -/
def laneKey (cs : BitVec 2) (l : Nat) : Nat := 64 * cs.toNat + l

/-- A lane as an operation of this bundle reads it (R230). -/
def State.lane (s : State) (cs : BitVec 2) (l : Nat) : Lane :=
  let k := laneKey cs l
  Lane.ofWords (s.ctx.arch.str.words.read k s.now (s.undef 224 (700 + k))).toNat
    (amGet LaneQueue.launch s.ctx.arch.str.queues k)

/-- Bits mask of a lane's words take w's at the cycle due. -/
def putWords (s : State) (key : Nat) (mask w : BitVec 224) (due : Nat) : State :=
  s.modArch fun a => { a.reach due with str := { a.str with words := a.str.words.write key mask w due s.now } }

/-- A change of a lane's window or status on its way. -/
def putQueue (s : State) (o : QueueOp) : State :=
  s.modArch fun a => { a.reach o.due with str := { a.str with ops := insertQueueOp o a.str.ops } }

/-- A change that sets status bits. -/
def statusOp (key due : Nat) (ended overrun error : Bool) (remove : Nat) : QueueOp :=
  { key := key, due := due, remove := remove, ended := ended, overrun := overrun, error := error, append := [],
    replace := none }

/-- Byte offsets end where the stash window ends (R229, R233). -/
def windowTop (s : State) : Nat := s.ctx.swinCount * 4096

/-- The tile that holds offset o of the stash window. -/
def offsetTile (s : State) (o : Nat) : StashTile := s.tile (tileIx s s.cur (o / 4096))

/-- Physical address of an offset: the address that the tile keeps (R56, R229). -/
def offsetPa (s : State) (o : Nat) : Nat := (offsetTile s o).base + o % 4096

/-- Virtual address of an offset. -/
def offsetVa (s : State) (o : Nat) : Nat := (offsetTile s o).va * 4096 + o % 4096

/-- An offset as its tile gives it: one of a tile that maps a zero page reads as zeros (R15, R62). -/
def offsetPhys (s : State) (o : Nat) : Phys :=
  { pa := offsetPa s o, kind := if (offsetTile s o).zeroPage then .zero else .coherent }

/-- Offsets that an operation accesses: their tiles are mapped, and their lines begin to fetch (R53, R229). An access to
a tile that drains or is in a rule step waits (R57, R247). -/
def offsets (s : State) (sl : Nat) (os : List Nat) (k : State → Out) : Out :=
  if os.any fun o => (offsetTile s o).state = .empty then stashFault s sl
  else if os.any fun o => (offsetTile s o).state = .draining || (offsetTile s o).rule.isSome then interlockNow s
  else k (os.foldl (fun s o => requestLine s s.cur (tileIx s s.cur (o / 4096)) (o % 4096 / 64)) s)

/-- Lanes of an operation: those that mask m selects. -/
def codeLanes (s : State) (m : MCode) : List Nat := (upto 64).filter fun l => (s.readM m).getLsbD l

/-- A decoding operation (R232, R235). -/
def decodeOp (g : Guard) (cs : BitVec 2) (vd : VCode) (srcs : List VCode) (m : MCode) (tab : Nat → Option (List Nat))
    (s : State) : Out :=
  guarded g s (readingV s 2 srcs
    (let due := s.due 6
     let run := fun l => decodeLane (tab l) (s.lane cs l)
     let s1 := (codeLanes s m).foldl (fun t l =>
       let k := laneKey cs l
       if (s.lane cs l).inert then t
       else match run l with
         | none => putQueue t (statusOp k due false false true 0)
         | some r => putQueue (putWords t k decodeMask r.2.1.words due)
             (statusOp k due (r.2.1.budget == 0) r.2.2.2 false r.2.2.1)) s
     let y := fun l => if (s.lane cs l).inert then 0 else match run l with | none => 0 | some r => r.1
     storeV s1 2 vd (s.readM m == BitVec.allOnes 64) (mergeLanes .z32 (s.readM m) (s.keptV vd) (ofLanes .z32 y)) due))

/-- The stores of an encoding operation, each a lane, an offset and a byte: offsets checked, pages translated for a
write in the order of the lanes, bytes withheld (R20, R229, R233). -/
def emitStores (s : State) (out : List (Nat × Nat × Byte)) : Out :=
  if out.isEmpty then .next s
  else offsets s 2 (out.map fun o => o.2.1) fun s2 =>
    match translatePages s2 (ctxXlat s2 s2.cur) .vectorStore true false
        (distinctPages (out.map fun o => (offsetVa s o.2.1 / 65536, o.1)) []) [] [] with
    | (s3, _, []) => withhold s3 2 (.store (out.map fun o => (offsetPa s o.2.1, o.2.2)))
    | (s3, _, fs) => pageFaultNow s3 2 .vectorStore fs

/-- An encoding operation: what it does to each lane that it reaches, the fields it writes (R233 to R235). -/
def encodeOp (g : Guard) (cs : BitVec 2) (srcs : List VCode) (m : MCode) (mask : BitVec 224)
    (reach : Lane → Bool) (run : Nat → Lane → Option Emit) (ends : Lane → Bool) (s : State) : Out :=
  guarded g s (readingV s 2 srcs
    (let due := s.due 6
     let ls := (codeLanes s m).filter fun l => reach (s.lane cs l)
     let s1 := ls.foldl (fun t l =>
       let k := laneKey cs l
       match run l (s.lane cs l) with
       | none => putQueue t (statusOp k due false false true 0)
       | some e =>
         putQueue (if e.lane.enc then putWords t k mask e.lane.words due else t)
           (statusOp k due (ends e.lane) e.overrun false 0)) s
     emitStores s1 (ls.flatMap fun l =>
       match run l (s.lane cs l) with | none => [] | some e => e.out.map fun o => (l, o))))

/-- The registers of a group. -/
def groupFields (v : VCode) (n : Nat) : List VCode := (upto n).map fun i => v + BitVec.ofNat 9 i

/-- Table of lane l in a group of eight registers (R235). -/
def groupTable (s : State) (v : VCode) (l : Nat) : Option (List Nat) :=
  checkTable ((groupFields v 8).flatMap fun f =>
    let x := s.laneBits f .z32 l
    [bitsOf x 0 16, bitsOf x 16 16])

/-- CDEC (R232, R235). -/
def execCdec (g : Guard) (cs : BitVec 2) (vd va : VCode) (m : MCode) (s : State) : Out :=
  decodeOp g cs vd [va] m (fun l => binTable (s.laneBits va .z32 l)) s

/-- CDECM (R232, R235). -/
def execCdecm (g : Guard) (cs : BitVec 2) (vd va : VCode) (m : MCode) (s : State) : Out :=
  decodeOp g cs vd (groupFields va 8) m (fun l => groupTable s va l) s

/-- A coding lane: not inert (R231). -/
def Lane.live (x : Lane) : Bool := !x.inert

/-- The symbol brought BUDGET to 0 (R231). -/
def Lane.spent (x : Lane) : Bool := x.budget == 0

/-- CENC (R233, R235). -/
def execCenc (g : Guard) (cs : BitVec 2) (va vb : VCode) (m : MCode) (s : State) : Out :=
  encodeOp g cs [va, vb] m encodeMask Lane.live
    (fun l x => encodeLane (windowTop s) (s.laneBits va .z32 l) (binTable (s.laneBits vb .z32 l)) x) Lane.spent s

/-- CENCM (R233, R235). -/
def execCencm (g : Guard) (cs : BitVec 2) (va vb : VCode) (m : MCode) (s : State) : Out :=
  encodeOp g cs (va :: groupFields vb 8) m encodeMask Lane.live
    (fun l x => encodeLane (windowTop s) (s.laneBits va .z32 l) (groupTable s vb l) x) Lane.spent s

/-- What a flush does to a lane (R234). -/
def flushLane (top : Nat) (x : Lane) : Option Emit :=
  if x.enc then
    match Emit.shifts top 5 { lane := x, out := [], overrun := false } with
    | none => none
    | some e => some { e with lane := { e.lane with fl := true } }
  else some { lane := x, out := [], overrun := false }

/-- CFLUSH (R234). A decoder lane only sets ENDED. -/
def execCflush (g : Guard) (cs : BitVec 2) (m : MCode) (s : State) : Out :=
  encodeOp g cs [] m flushMask (fun x => !x.enc || (!x.q.error && !x.fl)) (fun _ x => flushLane (windowTop s) x)
    (fun _ => true) s

/-- Every field of a lane is replaced at the cycle due; appends of earlier fetches are dropped (R230). -/
def replaceLane (s : State) (key due : Nat) (x : Lane) : State :=
  let s1 := s.modArch fun a =>
    { a with str := { a.str with ops := a.str.ops.filter fun o => !(o.key == key && !o.append.isEmpty) } }
  putQueue (putWords s1 key (BitVec.allOnes 224) x.words due)
    { statusOp key due false false false 0 with replace := some x.q }

/-- The lane that cinit makes (R236): TAG is 0, and the bytes of Window are not given (DESIGN CHOICE, log 17). -/
def initLane (s : State) (enc : Bool) (cur lim budget : Nat) : Lane :=
  { low := 0, range := 0xFFFFFFFF, code := 0, cur := cur, lim := lim, budget := budget, pend := 0, fl := false,
    prime := !enc, enc := enc, first := enc, carry := false, cache := 0,
    q := { win := [], rest := BitVec.ofNat 144 (Config.openBits 144 % 2 ^ 128), ended := budget == 0, overrun := false, error := windowTop s < lim || lim < cur } }

/-- CINIT (R236). -/
def execCinit (g : Guard) (enc : Bool) (cs : BitVec 2) (va vb vc : VCode) (m : MCode) (s : State) : Out :=
  guarded g s (readingV s 2 [va, vb, vc]
    (.next ((codeLanes s m).foldl (fun t l =>
      replaceLane t (laneKey cs l) (s.due 6)
        (initLane s enc (s.laneBits va .z32 l) (s.laneBits vb .z32 l) (s.laneBits vc .z32 l))) s)))

/-- Bits of a list of truths, the first the lowest. -/
def truthBits : List Bool → Nat
  | [] => 0
  | b :: bs => b.toNat + 2 * truthBits bs

/-- The words of Table 12-5. Window bytes and tags past WCNT are those that the lane holds there. -/
def Lane.image (x : Lane) : List Nat :=
  let n := Nat.min x.q.win.length 16
  let rest := x.q.rest.toNat
  let tags := truthBits ((x.q.win.take 16).map Prod.snd) + bitsOf rest 128 16 / 2 ^ n * 2 ^ n
  let bytes := leNat ((x.q.win.take 16).map Prod.fst) + bitsOf rest 0 128 / 2 ^ (8 * n) * 2 ^ (8 * n)
  [x.low, x.range, x.code, x.cur, x.lim, x.budget,
   x.q.win.length % 32 * 65536 + x.q.error.toNat * 2 ^ 15 + x.q.overrun.toNat * 2 ^ 14 + x.q.ended.toNat * 2 ^ 13 + x.flagWord,
   tags % 65536 * 65536 + x.pend] ++ (upto 4).map fun j => elem bytes 32 j

/-- CSAVE (R237). -/
def execCsave (g : Guard) (cs : BitVec 2) (vd : VCode) (m : MCode) (s : State) : Out :=
  guarded g s
    (let im := fun l => (s.lane cs l).image
     storeGroup s 2 vd (s.readM m == BitVec.allOnes 64) ((groupFields vd 12).zipIdx.map fun p =>
       mergeLanes .z32 (s.readM m) (s.keptV p.1) (ofLanes .z32 fun l => ((im l).drop p.2).head?.getD 0)) (s.due 6))

/-- The lane of an image; it is restored with ERROR where R237 says so. -/
def Lane.ofImage (top : Nat) (w : Nat → Nat) : Lane :=
  let f := w 6
  let n := bitsOf f 16 5
  let bytes := packElems 32 (fun j => w (8 + j)) 4
  let win := (upto n).map fun i => (BitVec.ofNat 8 (elem bytes 8 i), bitsOf (w 7) (16 + i) 1 == 1)
  let ended := bitsOf f 13 1 == 1
  let error := bitsOf f 15 1 == 1
  { low := w 0, range := w 1, code := w 2, cur := w 3, lim := w 4, budget := w 5, pend := bitsOf (w 7) 0 16,
    fl := bitsOf f 12 1 == 1, prime := bitsOf f 11 1 == 1, enc := bitsOf f 10 1 == 1, first := bitsOf f 9 1 == 1,
    carry := bitsOf f 8 1 == 1, cache := bitsOf f 0 8,
    q := { win := win, rest := BitVec.ofNat 144 (bytes + bitsOf (w 7) 16 16 * 2 ^ 128), ended := ended,
           overrun := bitsOf f 14 1 == 1,
           error := error || 16 < n || top < w 4 || (!(ended || error) && w 1 < 2 ^ 24) } }

/-- CLOAD (R237). -/
def execCload (g : Guard) (cs : BitVec 2) (va : VCode) (m : MCode) (s : State) : Out :=
  guarded g s (readingV s 2 (groupFields va 12)
    (.next ((codeLanes s m).foldl (fun t l =>
      replaceLane t (laneKey cs l) (s.due 6)
        (Lane.ofImage (windowTop s) fun j => s.laneBits (va + BitVec.ofNat 9 j) .z32 l)) s)))

/-- The condition that SEL selects (R238). -/
def statHolds (sel : BitVec 3) (x : Lane) : Bool :=
  match sel.toNat with
  | 0 => !x.inert
  | 1 => x.q.ended
  | 2 => x.q.overrun
  | 3 => x.q.error
  | _ => !x.enc && x.q.win.length ≤ 8

/-- CSTAT (R238). -/
def execCstat (g : Guard) (sel : BitVec 3) (cs : BitVec 2) (md m : MCode) (s : State) : Out :=
  guarded g s (.next (s.writeM md (s.readM m)
    (BitVec.ofNat 64 (packElems 1 (fun l => (statHolds sel (s.lane cs l)).toNat) 64)) 6))

/-! ### The byte fetch -/

/-- Lanes that an ldc fetches for (R240). -/
def fetchLanes (s : State) (cs : BitVec 2) (m : MCode) : List Nat :=
  (codeLanes s m).filter fun l => !(s.lane cs l).enc && !(s.lane cs l).inert

/-- Offset o of a lane lies inside its stream and the stash window. -/
def Lane.holds (x : Lane) (top o : Nat) : Bool := o < x.lim && o < top

/-- LDC (R240). The fetch is one access (R76). -/
def execLdc (g : Guard) (cs : BitVec 2) (land : BitVec 6) (m : MCode) (s : State) : Out :=
  if !s.guardOn g then holdLanding s land
  else
    let ls := fetchLanes s cs m
    let top := windowTop s
    let os := ls.flatMap fun l =>
      ((upto 8).map fun j => (s.lane cs l).cur + j).filter fun o => (s.lane cs l).holds top o
    offsets s 4 os fun s1 =>
      match os.find? fun o => !(offsetTile s o).zeroPage && decide (offsetPa s o / 64 ∈ s.poison) with
      | some o => machineCheck s 4 (offsetPa s o / 64)
      | none =>
        let seen := os.zip (viewPhys s s.cur (os.map (offsetPhys s)))
        let s2 := noteRead (takeLanding s1 land false (!os.isEmpty)) (os.map fun o => (offsetPa s o, 1))
        .next (ls.foldl (fun t l =>
          let x := s.lane cs l
          let k := laneKey cs l
          let bs := (upto 8).map fun j =>
            if x.holds top (x.cur + j) then (((seen.find? fun p => p.1 == x.cur + j).map Prod.snd).getD 0, false) else (0, true)
          putQueue (putWords t k (wordMask 96 32) { x with cur := (x.cur + 8) % 2 ^ 32 }.words (s.now + 1))
            { statusOp k (s.due land.toNat) false false false 0 with append := bs }) s2)

end Sys2Proof.Machine
end

