-- ==== Sys2Proof/Machine/WriteSet.lean ====
section
/-! DEFINITION. Write sets of phased tasks, and a context's stores performed: into the write set, the memory of the
module, or the fabric (R77, R84, R111 to R113, R116, R120). -/

namespace Sys2Proof.Machine

/-- The claim under which the context writes: its latest that is not done. R274 has the writes between a claim and its cvdone
carry the tag; the model takes the claim current when a write is performed, also for an engine command's (R120; DESIGN
CHOICE, log 118). -/
def Ctx.claim (c : Ctx) : Option Claim := c.claims.getLast?

/-- Tag of the writes that context c makes now. -/
def Ctx.tag (c : Ctx) : Option (Nat × Nat) := c.claim.map fun k => (k.mapPa, k.tag)

/-- Writes under a released claim are dropped as they are made (R296). -/
def Ctx.dropsWrites (c : Ctx) : Bool := match c.claim with | some k => k.dropped | none => false

/-- Byte b of a line. -/
def byteMask (b : Nat) : BitVec 512 := BitVec.ofNat 512 (255 * 2 ^ (8 * b))

/-- The entry without byte b. -/
def WLine.without (w : WLine) (b : Nat) : WLine := { w with mask := w.mask &&& ~~~(1#64 <<< b) }

/-- The entry with byte b set to x. -/
def WLine.put (w : WLine) (b : Nat) (x : Byte) : WLine :=
  { w with mask := w.mask ||| (1#64 <<< b),
           data := (w.data &&& ~~~byteMask b) ||| BitVec.ofNat 512 (x.toNat * 2 ^ (8 * b)) }

/-- An entry of this line, kind and tag. -/
def WLine.isFor (w : WLine) (line : Nat) (kind : WKind) (tag : Option (Nat × Nat)) : Bool :=
  w.line == line && w.kind == kind && w.tag == tag

/-- A write set with f applied to the entry of a line, kind and tag, which is made when it is absent (R111). -/
def wsUpdate (ws : List WLine) (line : Nat) (kind : WKind) (tag : Option (Nat × Nat)) (f : WLine → WLine) : List WLine :=
  if ws.any fun w => w.isFor line kind tag then ws.map fun w => if w.isFor line kind tag then f w else w
  else ws ++ [f { line := line, mask := 0, data := 0, kind := kind, tag := tag }]

/-- A plain store of one byte: it replaces an earlier plain store of the byte (R111), one under another claim for good, also
when its own claim is released later (DESIGN CHOICE, log 117). -/
def wsByte (ws : List WLine) (tag : Option (Nat × Nat)) (pa : Nat) (x : Byte) : List WLine :=
  let ws1 := ws.map fun w =>
    if w.line = pa / 64 && w.kind = .plain && w.tag ≠ tag then w.without (pa % 64) else w
  (wsUpdate ws1 (pa / 64) .plain tag fun w => w.put (pa % 64) x).filter fun w => w.mask ≠ 0

/-- Plain stores of cells. -/
def wsCells (ws : List WLine) (tag : Option (Nat × Nat)) (cells : List (Nat × Byte)) : List WLine :=
  cells.foldl (fun ws c => wsByte ws tag c.1 c.2) ws

/-- The first of the entries that satisfy p changed by f. -/
def mapFirst (p : WLine → Bool) (f : WLine → WLine) : List WLine → List WLine
  | [] => []
  | w :: ws => if p w then f w :: ws else w :: mapFirst p f ws

/-- The entry with a contribution to the 4-byte element at byte b: taken exactly, or added to the one it holds (R116). -/
def WLine.contribute (w : WLine) (fp : Bool) (b x : Nat) : WLine :=
  let old := elem w.data.toNat 32 (b / 4)
  let new := if w.mask.getLsbD b then (if fp then Fmt.fp32.sum old x else (old + x) % 2 ^ 32) else x
  (upto 4).foldl (fun w i => w.put (b + i) (BitVec.ofNat 8 (new / 2 ^ (8 * i)))) w

/-- A merge-add of a contribution to a 4-byte element (R111, R116). A task's contributions under several tags stand in
program order, since a tag's may still be dropped (R120): only those of one tag alone are summed as they come. -/
def wsMerge (ws : List WLine) (tag : Option (Nat × Nat)) (fp : Bool) (pa x : Nat) : List WLine :=
  let kind : WKind := if fp then .addF32 else .addS32
  let has := fun (w : WLine) => w.line == pa / 64 && w.kind == kind && w.mask.getLsbD (pa % 64)
  let fresh : WLine := { line := pa / 64, mask := 0, data := 0, kind := kind, tag := tag }
  let add := fun (w : WLine) => w.contribute fp (pa % 64) x
  match ws.filter has with
  | [] =>
    if ws.any fun w => w.isFor (pa / 64) kind tag then mapFirst (fun w => w.isFor (pa / 64) kind tag) add ws
    else ws ++ [add fresh]
  | [w] => if w.tag = tag then mapFirst has add ws else ws ++ [add fresh]
  | _ => ws ++ [add fresh]

/-- Entries of a write set: a line, a kind and a tag make one (R111, R120). -/
def wsCount : List WLine → Nat
  | [] => 0
  | w :: ws => wsCount ws + if ws.any fun u => u.isFor w.line w.kind w.tag then 0 else 1

/-- Entries that the write set of a launch's task may hold: 48 for each write-set tile, then the merge log (R113). The log's
memory at MLOG keeps its bytes: no rule gives the form of an entry there (DESIGN CHOICE, log 119). -/
def wsRoom (c : Ctx) (record : List Byte) : Nat := 48 * c.wstiles + recWord record 0x28 / Config.mergeLogEntry

/-- The write set after one withheld operation. -/
def wsOp (ws : List WLine) (tag : Option (Nat × Nat)) : WithheldOp → List WLine
  | .store cells => wsCells ws tag cells
  | .zeroLine pa _ => wsCells ws tag (cellsAt pa (List.replicate 64 0))
  | .mergeAdd fp pa x => wsMerge ws tag fp pa x.toNat
  | .atomic _ _ _ _ => ws
  | .arrive _ => ws
  | .drop _ => ws

/-- The withheld operations with more would fill the write set past its room (R113). -/
def wsOverflows (s : State) (n : Nat) (ops : List WithheldOp) : Bool :=
  let c := s.ctxOf n
  c.phased && !c.dropsWrites &&
    decide (wsRoom c (s.launchOf c.launch).record < wsCount (ops.foldl (fun ws o => wsOp ws c.tag o) c.writeSet))

/-- The stash after a phased task's private store: the tiles of its own window alone (R110). -/
def storedOwn (s : State) (n : Nat) (cells : List (Nat × Byte)) : AMap StashTile :=
  let all := storedTiles s (some n) false cells
  all.map fun p => if servedBy s n p.1 then p else (p.1, amGet StashTile.empty s.stash p.1)

/-- Stores of context n performed now (R77): a phased task's enter its write set, those through the fabric window
leave as requests, the others take one point of the module order. eng and num name the engine command that makes them,
eng = 6 for the context itself, 7 for its store to a device page. A write that is no commit's is entered past the room too:
R113 speaks of a commit's writes alone, and the next commit traps (DESIGN CHOICE, log 93). -/
def performStores (s : State) (n eng num : Nat) (cells : List (Nat × Byte)) : State :=
  let c := s.ctxOf n
  if c.phased then
    if c.dropsWrites then s
    else
      let s1 := s.setCtxOf n { c with writeSet := wsCells c.writeSet c.tag cells }
      { s1 with stash := storedOwn s1 n cells }
  else
    let far := cells.filter fun x => rangeOf x.1 = .fabric
    let near := cells.filter fun x => rangeOf x.1 ≠ .fabric
    let s1 := if near.isEmpty then s else s.perform (if 6 ≤ eng then some n else none) near
    if far.isEmpty then s1 else fabStore s1 n eng num far

/-- Cells at the addresses where memory keeps them. -/
def homeCells (cells : List (Nat × Byte)) : List (Nat × Byte) := cells.map fun c => (homePa c.1, c.2)

end Sys2Proof.Machine
end

