-- ==== Sys2Proof/Machine/LoadStore.lean ====
section
/-! DEFINITION. The L and ST slots: loads, stores, the tile store by name, the arrival of a load's data (R134, R203 to
R207). -/

namespace Sys2Proof.Machine

/-! ### Addresses and elements (R203) -/

/-- ea = s[sa] + sext(imm, 10)·u. -/
def effAddr (s : State) (sa : SCode) (imm : BitVec 10) (u : Nat) : Nat :=
  (s.readS sa + BitVec.ofInt 64 (imm.toInt * u)).toNat

/-- The type whose lanes are the accessed elements: bytes for .i4. -/
def memTy (t : Ty) : Ty := if t = .i4 then .z8 else t

/-- Active elements of type t below n, element i at address f i. -/
def laneElems (t : Ty) (k : Word) (n : Nat) (f : Nat → Nat) : List Elem :=
  ((upto n).filter fun l => activeIn k l t).map fun l => { va := f l % 2 ^ 64, n := t.bits / 8, lane := l }

/-- Elements of a gather or scatter. -/
def gatherCount (t : Ty) : Nat := Nat.min 64 t.lanes

/-- Address of element i of a gather or scatter. -/
def gatherAddr (s : State) (t : Ty) (scaled : Bool) (ea : Nat) (vx : VCode) (i : Nat) : Nat :=
  (BitVec.ofInt 64 ((ea : Int) + s.laneInt vx .s32 i * (if scaled then (t.unit : Int) else 1))).toNat

/-- Address of element i of a strided access. -/
def strideAddr (s : State) (ea : Nat) (sx : SCode) (i : Nat) : Nat :=
  (BitVec.ofNat 64 (ea + i * (s.readS sx).toNat)).toNat

/-- The number that element l holds. -/
def elemVal (xs : List (Nat × List Byte)) (l : Nat) : Nat :=
  match xs.find? fun p => p.1 == l with | some p => leNat p.2 | none => 0

/-! ### Loads (R205) -/

/-- A scalar access there is a device access: a device page, or the register range (R79); a zero page's ADDR does not
count (R15). -/
def Phys.isDevice (p : Phys) : Bool := p.kind == .device || (p.kind != .zero && rangeOf p.pa == .device)

/-- Bytes that the elements access, where memory keeps them. -/
def readRanges (pages : List (Nat × Phys)) (es : List Elem) : List (Nat × Nat) :=
  es.map fun e => (homePa (physOf pages e.va).pa, e.n)

/-- The operation continued with the landing entry waiting for requests. -/
def withAsks (s0 : State) (form : LoadForm) (known : List (Nat × Nat)) (asks : List Ask) (own : List WithheldOp) (o : Out) :
    Out :=
  match o with
  | .next s1 => if s1.issue = .ok then .next (awaitAsks s0 s1 form known asks own) else o
  | o => o

/-- The request sent last on the lane of pa, as what element 0 of n bytes waits for. -/
def askOf (s : State) (pa n : Nat) : Ask :=
  { elem := 0, off := 0, skip := 0, n := n, pa := pa, dest := fabModule pa, lane := fabLane pa, seq := lastSeq s pa }

/-- n bytes at a translated address as a device access reads them at its commit: a register, memory behind a device
page, or a request through the fabric window, which is a device access that a fence waits for (R79, R82, R84). Device stores
of the core come first. -/
def devRead (s : State) (p : Phys) (n : Nat) (form : LoadForm) (k : State → Nat → Out) : Out :=
  let s0 := drainOf s s.cur
  if rangeOf p.pa = .device then k s0 (deviceLoad s0 (some s0.cur) p.pa n)
  else if rangeOf p.pa = .fabric then
    let s1 := fabSend s0 s0.cur 7 0 p.pa (.read (bitsOf p.pa 0 40) n)
    withAsks s0 form [] [askOf s1 p.pa n] [] (k s1 0)
  else k s0 (memNat s0.mem p.pa n)

/-- n bytes of x stored at a translated address by a device access at its commit. -/
def devWrite (s : State) (p : Phys) (n x : Nat) : State :=
  if rangeOf p.pa = .device then deviceCommit s s.cur p.pa n x
  else performStores s s.cur 7 0 (cellsAt p.pa (leBytes n x))

/-- A withheld operation of the context on a line that is no store: its result is not known before it is performed. -/
def changesLine (s : State) (line : Nat) : Bool :=
  s.ctx.withheld.any fun o => match o with
    | .atomic _ _ pa _ => pa / 64 == line
    | _ => false

/-- Bytes of an element that leave through the fabric window. A byte of an own withheld store is that store's (R77), unless an
own withheld atomic may change it. -/
def farBytes (s : State) (pages : List (Nat × Phys)) (e : Elem) : List FarByte :=
  let own := s.ctx.withheld.flatMap fun o => match o with
    | .store cells => cells.map Prod.fst
    | .zeroLine pa _ => (upto 64).map fun i => pa + i
    | _ => []
  (upto e.n).filterMap fun i =>
    let p := physOf pages ((e.va + i) % 2 ^ 64)
    if p.kind ≠ .zero && rangeOf p.pa = .fabric && (p.pa ∉ own || changesLine s (p.pa / 64)) then
      some { elem := e.lane, off := i, pa := p.pa }
    else none

/-- The context's withheld operations on the lines of these bytes, under which what requests bring passes (R77). -/
def ownOps (s : State) (bytes : List FarByte) : List WithheldOp :=
  s.ctx.withheld.filter fun o => o.lines.any fun l => bytes.any fun b => b.pa / 64 == l

/-- The elements' numbers with zeros in the bytes that requests bring. -/
def nearNums (s : State) (pages : List (Nat × Phys)) (es : List Elem) (far : List FarByte) : List (Nat × Nat) :=
  let near := viewMem s s.cur
  es.map fun e => (e.lane, leNat ((addrsFrom e.va e.n).zipIdx.map fun p =>
    if far.any fun b => b.elem == e.lane && b.off == p.2 then 0 else viewByte s s.cur near (physOf pages p.1)))

/-- A load's one access (R76): fin writes the destination from the elements' numbers at its landing cycle, or once the
requests that leave through the fabric window have brought them (R84). What the numbers raise is taken here, or at the
landing (R265). -/
def readElems (land : BitVec 6) (es : List Elem) (form : LoadForm) (fin : State → (Nat → Nat) → Out) (s : State)
    (pages : List (Nat × Phys)) : Out :=
  let far := es.flatMap (farBytes s pages)
  if far.isEmpty then
    let v := elemVal (elemBytes s pages es)
    match form.fails v with
    | some b => trapNow s 4 b.1 b.2
    | none => fin (noteRead (takeLanding s land false true) (readRanges pages es)) v
  else
    let x := askLines s far
    withAsks x.1 form (nearNums s pages es far) x.2 (ownOps s far)
      (fin (noteRead (takeLanding x.1 land false false) (readRanges pages es)) fun _ => 0)

/-- A load: alignment, every page, then one access (R19, R204, R205). A scalar device access reads at the commit (R79); of a
vector access R79 says nothing, and the bytes that it reads in the register range are free (DESIGN CHOICE, log 91). -/
def loadOp (g : Guard) (land : BitVec 6) (cls : Access) (u : Nat) (es : List Elem) (form : LoadForm)
    (fin : State → (Nat → Nat) → Out) (s : State) : Out :=
  match s.stage with
  | .commit =>
    if !s.guardOn g then .next s
    else match pagesAt s 4, es with
      | p :: ps, e :: _ => devRead s (physOf (p :: ps) e.va) e.n form fun s1 v => fin s1 fun _ => v
      | _, _ => .next s
  | .issue =>
    if !s.guardOn g then holdLanding s land
    else if es.isEmpty then fin (takeLanding s land false false) fun _ => 0
    else accessing s 4 cls false false u es fun s1 pages =>
      let device := cls = .scalarLoad && es.any fun e => (physOf pages e.va).isDevice
      let lines := linesOf pages (es.flatMap fun e => addrsFrom e.va e.n)
      if device && !s.bundle.ckpt then illegal s1 4 0x0B
      else match lines.find? fun l => decide (l ∈ s1.poison) with
        | some l => machineCheck s1 4 l
        | none =>
          if device then .next (takeLanding (notePages s1 4 pages) land false true)
          else touching s1 lines fun s2 => readElems land es form fin s2 pages

/-- LDS (R203, R205). -/
def execLds (g : Guard) (ty : Ty) (sd sa : SCode) (imm : BitVec 10) (land : BitVec 6) (s : State) : Out :=
  readingS s 4 (if s.guardOn g then [sa] else [])
    (loadOp g land .scalarLoad ty.unit [{ va := effAddr s sa imm ty.unit, n := ty.unit, lane := 0 }]
      (.scalar ty.bits ty.isSigned)
      (fun s1 v => finishS s1 sd (if ty.isSigned then sext64 ty.bits (v 0) else zext64 ty.bits (v 0)) land.toNat) s)

/-- Reads of the addresses of an access: poison checked (R65). -/
def vecAddr (g : Guard) (sl : Nat) (ss : List SCode) (vs : List VCode) (s : State) (k : Out) : Out :=
  if s.guardOn g then readingS s sl ss (readingV s sl vs k) else k

/-- The same for an access under a mask: with no active lane nothing is accessed and no fault arises (R205, R206). -/
def laneAddr (g : Guard) (sl : Nat) (active : Bool) (ss : List SCode) (vs : List VCode) (s : State) (k : Out) : Out :=
  if active then vecAddr g sl ss vs s k else k

/-- Lanes of type t that mask m selects take the numbers loaded (R188). -/
def landV (vd : VCode) (t : Ty) (m : MCode) (land : BitVec 6) (s1 : State) (v : Nat → Nat) : Out :=
  writeV s1 4 vd t m (ofLanes t v) land.toNat

/-- The form of a load of lanes; same: the one element that every lane takes. -/
def lanesForm (s : State) (vd : VCode) (t : Ty) (m : MCode) (n : Nat) (same : Option Nat) : LoadForm :=
  .lanes t (s.readM m) n same (s.keptV vd)

/-- LDV (R205). -/
def execLdv (g : Guard) (ty : Ty) (vd : VCode) (sa : SCode) (imm : BitVec 10) (land : BitVec 6) (m : MCode) (s : State) :
    Out :=
  let t := memTy ty
  let ea := effAddr s sa imm ty.unit
  let es := laneElems t (s.readM m) t.lanes fun l => ea + l * t.unit
  laneAddr g 4 (!es.isEmpty) [sa] [] s
    (loadOp g land .vectorLoad ty.unit es (lanesForm s vd t m t.lanes none) (landV vd t m land) s)

/-- LDVS (R205). -/
def execLdvs (g : Guard) (ty : Ty) (vd : VCode) (sa sx : SCode) (imm : BitVec 10) (land : BitVec 6) (m : MCode)
    (s : State) : Out :=
  let ea := effAddr s sa imm ty.unit
  let es := laneElems ty (s.readM m) ty.lanes (strideAddr s ea sx)
  laneAddr g 4 (!es.isEmpty) [sa, sx] [] s
    (loadOp g land .vectorLoad ty.unit es (lanesForm s vd ty m ty.lanes none) (landV vd ty m land) s)

/-- LDG (R205): zeros above the last element. -/
def execLdg (g : Guard) (ty : Ty) (scaled : Bool) (vd : VCode) (sa : SCode) (vx : VCode) (imm : BitVec 10)
    (land : BitVec 6) (m : MCode) (s : State) : Out :=
  let ea := effAddr s sa imm ty.unit
  let n := gatherCount ty
  let es := laneElems ty (s.readM m) n (gatherAddr s ty scaled ea vx)
  laneAddr g 4 (!es.isEmpty) [sa] [vx] s
    (loadOp g land .vectorLoad ty.unit es (lanesForm s vd ty m n none)
      (fun s1 v =>
        storeV s1 4 vd (s.readM m == BitVec.allOnes 64)
          (ofLanes ty fun l => if n ≤ l then 0 else if activeIn (s.readM m) l ty then v l else lane (s.keptV vd) ty l)
          (s1.due land.toNat)) s)

/-- The lowest active lane. -/
def lowestLane (s : State) (ty : Ty) (m : MCode) : Option Nat := (upto ty.lanes).find? fun l => activeIn (s.readM m) l ty

/-- LDB (R205): its one element is accessed when a lane is active. ELEM of an Alignment Fault and LANE of a record are the
lowest active lane, since lanes that are masked off touch nothing (R19; DESIGN CHOICE, log 120). -/
def execLdb (g : Guard) (ty : Ty) (vd : VCode) (sa : SCode) (imm : BitVec 10) (land : BitVec 6) (m : MCode) (s : State) :
    Out :=
  let ea := effAddr s sa imm ty.unit
  let low := lowestLane s ty m
  laneAddr g 4 low.isSome [sa] [] s
    (loadOp g land .vectorLoad ty.unit (low.toList.map fun l => { va := ea, n := ty.unit, lane := l })
      (lanesForm s vd ty m ty.lanes (some (low.getD 0))) (fun s1 v => landV vd ty m land s1 fun _ => v (low.getD 0)) s)

/-- The 256 bytes of row group g of a tile register as a mask. -/
def groupMask (g : Nat) : TReg := atRowGroup g (BitVec.allOnes 2048)

/-- LDT (R203, R205). -/
def execLdt (g : Guard) (t : TCode) (grp : BitVec 4) (sa : SCode) (imm : BitVec 10) (land : BitVec 6) (s : State) : Out :=
  vecAddr g 4 [sa] [] s
    (loadOp g land .vectorLoad 64 [{ va := effAddr s sa imm 64, n := 256, lane := 0 }] (.rows grp.toNat)
      (fun s1 v => storeT s1 4 t [grp.toNat] (groupMask grp.toNat)
        (atRowGroup grp.toNat (BitVec.ofNat 2048 (v 0))) (s1.due land.toNat)) s)

/-- Lowest active lane of block b of sixteen. -/
def firstLane (s : State) (m : MCode) (b : Nat) : Option Nat :=
  ((upto 16).map fun i => 16 * b + i).find? fun l => activeIn (s.readM m) l .f32

/-- The elements that ldp accesses: the blocks with an active lane (R19), each under the number of its lowest active lane,
and the counter word under 256. In a record the pages of a block stand with that lane, also the second page of a block that
crosses into one, and the counter's page stands last with lane 0 (Table 1-8 gives neither: DESIGN CHOICE, log 92). -/
def ldpElems (s : State) (f : BitVec 2) (sa sx : SCode) (m : MCode) : List Elem :=
  let n := sbBytes (sbMag f)
  let blocks : List Elem := (upto 4).filterMap fun b => (firstLane s m b).map fun i =>
    { va := ((s.readS sa).toNat + n * b) % 2 ^ 64, n := n, lane := i }
  if blocks.isEmpty then [] else blocks ++ [{ va := (s.readS sx).toNat, n := 8, lane := 256 }]

/-- The number of the element that holds each of the four blocks of a plane load. -/
def blockElems (s : State) (m : MCode) : List Nat := (upto 4).map fun b => (firstLane s m b).getD 0

/-- LDP (R265): the prefix of k planes of each element; k = 0 takes the planes that have landed. -/
def execLdp (g : Guard) (f : BitVec 2) (k : BitVec 4) (mid : Bool) (vd : VCode) (sa sx : SCode) (land : BitVec 6)
    (m : MCode) (s : State) : Out :=
  let es := ldpElems s f sa sx m
  let mag := sbMag f
  laneAddr g 4 (!es.isEmpty) [sa, sx] [] s
    (loadOp g land .vectorLoad 1 es (.planes mag k.toNat mid (s.readM m) (blockElems s m) (s.keptV vd))
      (fun s1 v => landV vd .f32 m land s1 fun l =>
        planeLane mag (planesTaken k.toNat v) mid (v ((firstLane s m (l / 16)).getD 0)) l) s)

/-- LOAD_DATA_ARRIVAL (R134): the data of a landing entry arrives; those that requests bring come with their results
(R84). -/
def execLoadDataArrival (c id : Nat) (s : State) : Out :=
  let x := s.ctxOf c
  .next (s.setCtxOf c { x with landings := x.landings.map fun l =>
    if l.id = id && l.asks.isEmpty then { l with arrived := true } else l })

/-! ### Stores (R206) -/

/-- Cells of the elements' data, lowest element first. -/
def storeCells (pages : List (Nat × Phys)) (es : List (Elem × List Byte)) : List (Nat × Byte) :=
  es.flatMap fun e => physCells pages e.1.va e.2

/-- A store: its data is read and its pages translated at issue, then it is withheld (R77, R206). A scalar device access
stores at the commit (R79); of a vector store R79 says nothing, and its bytes in the register range change nothing (DESIGN
CHOICE, log 91). -/
def storeOp (g : Guard) (cls : Access) (u : Nat) (es : List (Elem × List Byte)) (s : State) : Out :=
  guarded g s
    (match s.stage with
     | .commit =>
       (match pagesAt s 5, es with
        | p :: ps, e :: _ => .next (devWrite s (physOf (p :: ps) e.1.va) e.1.n (leNat e.2))
        | _, _ => .next s)
     | .issue =>
       if es.isEmpty then .next s
       else accessing s 5 cls true false u (es.map Prod.fst) fun s1 pages =>
         if cls = .scalarStore && es.any fun e => (physOf pages e.1.va).isDevice then
           if !s.bundle.ckpt then illegal s1 5 0x0B else .next (notePages s1 5 pages)
         else
           let cells := (storeCells pages es).filter fun c => rangeOf c.1 ≠ .device
           storing s1 (linesOf pages (es.flatMap fun e => addrsFrom e.1.va e.1.n))
             (if s1.stash.isEmpty then [] else wholeLines (cells.map fun c => (homePa c.1, c.2))) fun s2 =>
           withhold s2 5 (.store cells))

/-- STS (R206). -/
def execSts (g : Guard) (ty : Ty) (ss sa : SCode) (imm : BitVec 10) (s : State) : Out :=
  vecAddr g 5 [ss, sa] [] s
    (storeOp g .scalarStore ty.unit
      [({ va := effAddr s sa imm ty.unit, n := ty.unit, lane := 0 }, bytesOf (s.readS ss) ty.unit)] s)

/-- Elements of a vector store with their data. -/
def withData (s : State) (vs : VCode) (t : Ty) (es : List Elem) : List (Elem × List Byte) :=
  es.map fun e => (e, leBytes e.n (s.laneBits vs t e.lane))

/-- STV (R206). -/
def execStv (g : Guard) (ty : Ty) (vs : VCode) (sa : SCode) (imm : BitVec 10) (m : MCode) (s : State) : Out :=
  let t := memTy ty
  let ea := effAddr s sa imm ty.unit
  let es := laneElems t (s.readM m) t.lanes fun l => ea + l * t.unit
  laneAddr g 5 (!es.isEmpty) [sa] [vs] s (storeOp g .vectorStore ty.unit (withData s vs t es) s)

/-- STVS (R206). -/
def execStvs (g : Guard) (ty : Ty) (vs : VCode) (sa sx : SCode) (imm : BitVec 10) (m : MCode) (s : State) : Out :=
  let ea := effAddr s sa imm ty.unit
  let es := laneElems ty (s.readM m) ty.lanes (strideAddr s ea sx)
  laneAddr g 5 (!es.isEmpty) [sa, sx] [vs] s (storeOp g .vectorStore ty.unit (withData s vs ty es) s)

/-- STSC (R206). -/
def execStsc (g : Guard) (ty : Ty) (scaled : Bool) (vs : VCode) (sa : SCode) (vx : VCode) (imm : BitVec 10) (m : MCode)
    (s : State) : Out :=
  let ea := effAddr s sa imm ty.unit
  let es := laneElems ty (s.readM m) (gatherCount ty) (gatherAddr s ty scaled ea vx)
  laneAddr g 5 (!es.isEmpty) [sa] [vs, vx] s (storeOp g .vectorStore ty.unit (withData s vs ty es) s)

/-- Reads of a tile register: poison checked (R65). -/
def readingT (s : State) (sl : Nat) (t : TCode) (k : Out) : Out := poisonFree s sl [384 + t.toNat] k

/-- STT (R206). -/
def execStt (g : Guard) (t : TCode) (grp : BitVec 4) (sa : SCode) (imm : BitVec 10) (s : State) : Out :=
  vecAddr g 5 [sa] [] s
    (if s.guardOn g then readingT s 5 t stores else stores)
where
  stores : Out :=
    (storeOp g .vectorStore 64
      [({ va := effAddr s sa imm 64, n := 256, lane := 0 }, bytesOf (rowGroup (s.readT t) grp.toNat) 256)] s)

/-- STZ (R206). -/
def execStz (g : Guard) (sa : SCode) (imm : BitVec 10) (s : State) : Out :=
  let va := effAddr s sa imm 64
  match s.stage with
  | .commit => .next s
  | .issue =>
    guarded g s (readingS s 5 [sa] (accessing s 5 .vectorStore true false 64 [{ va := va, n := 64, lane := 0 }]
      fun s1 pages => storing s1 (linesOf pages (addrsFrom va 64)) (linesOf pages (addrsFrom va 64)) fun s2 =>
        withhold s2 5 (.zeroLine (physOf pages va).pa ((physOf pages va).kind ≠ .memorySide))))

/-- Cells of the 4,096 bytes of a stash tile. -/
def tileCells (t : StashTile) (x : TReg) : List (Nat × Byte) := cellsAt t.base (bytesOf x 4096)

/-- The tile after a write of all its lines by name (R207, R247). -/
def StashTile.written (t : StashTile) (phased : Bool) : StashTile :=
  { t with present := BitVec.allOnes 64, dirty := if phased then t.dirty else BitVec.allOnes 64, zero := 0 }.settle

/-- STQ (R207): irrevocable. The 4,096 bytes are one store. The window's limit holds whatever the guard (R164). -/
def execStq (g : Guard) (t : TCode) (q : QCode) (s : State) : Out :=
  if s.ctx.swinCount ≤ q.toNat then illegal s 5 0x0E
  else guarded g s (readingT s 5 t (namingTile s 5 q.toNat fun i =>
    let e := s.tile i
    let cells := tileCells e (s.readT t)
    match s.stage with
    | .issue =>
      accessing s 5 .vectorStore true false 1 [{ va := e.va * 4096, n := 4096, lane := 0 }] fun s1 _ =>
        if wsOverflows s1 s1.cur (s1.ctx.withheld ++ [.store cells]) then trapNow s1 5 0x1B 0 else .next s1
    | .commit =>
      let s1 := performStores s s.cur 6 0 cells
      .next (s1.setTile i ((s1.tile i).written s1.ctx.phased))))

end Sys2Proof.Machine
end

