-- ==== Sys2Proof/Machine/Moves.lean ====
section
/-! DEFINITION. The X slot: cluster moves (R251). -/

namespace Sys2Proof.Machine

/-- An operation that names accumulator tiles of the window, with its slot (R48). -/
def withAwin (s : State) (sl k n : Nat) (f : Out) : Out := if inAwin s k n then f else illegal s sl 0x0E

/-- XSV (R251). -/
def execXsv (g : Guard) (ty : Ty) (lane : BitVec 8) (vd : VCode) (sa : SCode) (s : State) : Out :=
  guarded g s (readingS s 6 [sa]
    (storeV s 6 vd false
      (ofLanes ty fun l => if l = lane.toNat then (s.readS sa).toNat else Machine.lane (s.keptV vd) ty l) (s.due 3)))

/-- XSVB (R251). -/
def execXsvb (g : Guard) (ty : Ty) (vd : VCode) (sa : SCode) (s : State) : Out :=
  guarded g s (readingS s 6 [sa] (storeV s 6 vd true (ofLanes ty fun _ => (s.readS sa).toNat) (s.due 3)))

/-- XVS (R251). -/
def execXvs (g : Guard) (ty : Ty) (lane : BitVec 8) (sd : SCode) (va : VCode) (s : State) : Out :=
  guarded g s (readingV s 6 [va]
    (let x := s.laneBits va ty lane.toNat
     finishS s sd (if ty.isSigned then sext64 ty.bits x else zext64 ty.bits x) 3))

/-- Bytes of a row or of a column element: 64 bytes of a row, or 2^W bytes of each row. -/
def colWidth (w : BitVec 2) : Nat := 2 ^ w.toNat

/-- XVT (R251): a row takes one row-group entry, a column all sixteen (R140). -/
def execXvt (g : Guard) (va : VCode) (t : TCode) (col : Bool) (idx : BitVec 6) (w : BitVec 2) (s : State) : Out :=
  guarded g s (readingV s 6 [va]
    (if col then
       storeT s 6 t (upto 16) (atColumn (colWidth w) idx.toNat (BitVec.allOnes 2048))
         (atColumn (colWidth w) idx.toNat (s.readV va)) (s.due 3)
     else
       storeT s 6 t [idx.toNat / 4] (atRow idx.toNat (BitVec.allOnes 512))
         (atRow idx.toNat ((s.readV va).setWidth 512)) (s.due 3)))

/-- XTV (R251). -/
def execXtv (g : Guard) (vd : VCode) (t : TCode) (col : Bool) (idx : BitVec 6) (w : BitVec 2) (s : State) : Out :=
  guarded g s (readingT s 6 t
    (storeV s 6 vd true
      (if col then columnOf (s.readT t) (colWidth w) idx.toNat else (rowOf (s.readT t) idx.toNat).setWidth 2048)
      (s.due 3)))

/-- XAV (R251). -/
def execXav (g : Guard) (vd : VCode) (acc : ACode) (s : State) : Out :=
  withAwin s 6 acc.toNat 1 (guarded g s (namingAcc s false [acc.toNat] (poisonFree s 6 [456 + acc.toNat]
    (storeGroup s 6 vd true ((upto 4).map fun q => BitVec.ofNat 2048 (elem (s.readAcc acc.toNat).toNat 2048 q)) (s.due 8)))))

/-- The tile whose four registers these are (R49). -/
def ofQuarters (f : Nat → VReg) : ATile := BitVec.ofNat 8192 (packElems 2048 (fun q => (f q).toNat) 4)

/-- XVA (R251). -/
def execXva (g : Guard) (va : VCode) (acc : ACode) (s : State) : Out :=
  withAwin s 6 acc.toNat 1 (guarded g s (readingV s 6 (groupFields va 4) (namingAcc s false [acc.toNat]
    (storeAcc (clearPoison s [456 + acc.toNat]) 6 acc.toNat (ofQuarters fun q => s.readV (va + BitVec.ofNat 9 q))
      fun s1 => .next (moveAcc s1 acc.toNat)))))

end Sys2Proof.Machine
end

