-- ==== Sys2Proof/Machine/Matrix.lean ====
section
/-! DEFINITION. The M slot but for rule mode: matrix multiply-accumulate, matrix-side registers, accumulator clear,
microprograms (R209 to R224). -/

namespace Sys2Proof.Machine

/-! ### Operand elements (R209 to R211) -/

/-- Container width in bits (Table 11-1). -/
def clsBits : Cls → Nat
  | .fp32 => 32 | .bf16 => 16 | .fp16 => 16 | .e4m3 => 8 | .e5m2 => 8 | .int8 => 8 | .int4 => 4 | .sb3 => 4
  | .sb5 => 8 | .sb8 => 8 | .cb4 => 8

/-- K of a class (Table 11-1). -/
def clsK (c : Cls) : Nat := 512 / clsBits c

/-- Magnitude bits of an SB class. -/
def clsMag : Cls → Nat
  | .sb3 => 2 | .sb5 => 4 | .sb8 => 7 | _ => 0

/-- The element type whose values a class without blocks has. -/
def clsTy : Cls → Ty
  | .fp32 => .f32 | .bf16 => .bf16 | .fp16 => .f16 | .e4m3 => .e4m3 | .e5m2 => .e5m2 | .int4 => .i4 | _ => .s8

/-- Value of container x of class c as element k of line i; hdr is the 1 KiB header block (R210). -/
def matValue (c : Cls) (hdr : Nat) (i k x : Nat) : FVal :=
  if c.isSb then
    let at_ := 16 * i + 2 * (k / 16)
    sbValue (clsMag c) (elem hdr 8 at_) (bitsOf (elem hdr 8 (at_ + 1)) (k % 16 / 2) 1)
      (elem x 1 (clsBits c - 1) == 1) (x % 2 ^ clsMag c)
  else valueOf (clsTy c) x

/-- Element k of row i of A, or of column i of B (R209, R215): container k of row i, or byte i of row k when the
register is read transposed. -/
def matElem (c : Cls) (t : TReg) (transposed : Bool) (hdr i k : Nat) : FVal :=
  let x := if transposed then elem (elem t.toNat 512 k) 8 i else elem (elem t.toNat 512 i) (clsBits c) k
  matValue c hdr i k x

/-- The elements of a CB4 tile in order of 64·k + j, from n on: the value of each present one (R35, R211). idx are the
indices, rank the number of present elements before n. -/
def cb4From (present idx codebook : Nat) : Nat → Nat → Nat → List (Option FVal)
  | 0, _, _ => []
  | m + 1, n, rank =>
    if elem present 1 n = 1 then
      some (Fmt.bf16.value (elem codebook 16 (elem idx 4 rank))) :: cb4From present idx codebook m (n + 1) (rank + 1)
    else none :: cb4From present idx codebook m (n + 1) rank

/-- The 4,096 elements of the CB4 record whose indices stand from byte 544. -/
def cb4Elems (b : Nat) (codebook : BitVec 256) (zbitmap : BitVec 4096) : List (Option FVal) :=
  cb4From zbitmap.toNat (b / 2 ^ (8 * 544)) codebook.toNat 4096 0 0

/-! ### The operation (R212, R216) -/

/-- Both operands of one operation. -/
structure MatArgs where
  a : TReg
  /-- The B register or tile; for CB4 the record, which may be longer than a register. -/
  b : Nat
  hdrA : Nat
  hdrB : Nat
  codebook : BitVec 256
  zbitmap : BitVec 4096

/-- Row i of A. -/
def matRow (o : MmaOp) (x : MatArgs) (i : Nat) : List FVal :=
  (upto (clsK o.ca)).map (matElem o.ca x.a o.taT x.hdrA i)

/-- Column j of B, an absent element being none. -/
def matCol (o : MmaOp) (x : MatArgs) (cb : List (Option FVal)) (j : Nat) : List (Option FVal) :=
  if o.cb = .cb4 then (upto 64).map fun k => (cb.drop (64 * k + j)).headD none
  else
    let b : TReg := BitVec.ofNat 32768 x.b
    (upto (clsK o.cb)).map fun k => some (matElem o.cb b o.tbT x.hdrB j k)

/-- Products of one group; an absent element contributes none (R36). -/
def matProducts : List FVal → List (Option FVal) → List FVal
  | a :: as, some b :: bs => a.mul b :: matProducts as bs
  | _ :: as, none :: bs => matProducts as bs
  | _, _ => []

/-- n groups of sixteen in ascending k (R40). -/
def matDot : Nat → Nat → List FVal → List (Option FVal) → Nat
  | 0, x, _, _ => x
  | n + 1, x, as, bs =>
    matDot n (groupAdd x (matProducts (as.take 16) (bs.take 16))) (as.drop 16) (bs.drop 16)

/-- Elements of tile q of the sixteen that the masks select. -/
def matTouches (rows cols : Word) (q : Nat) : Bool :=
  (upto 16).any (fun r => rows.getLsbD (16 * (q / 4) + r)) && (upto 16).any fun c => cols.getLsbD (16 * (q % 4) + c)

/-- Tile q of the sixteen after the operation: element (i, j) lies at 16·(i mod 16) + (j mod 16). -/
def matTile (zero : Bool) (k : Nat) (rows cols : Word) (as : List (List FVal)) (bs : List (List (Option FVal)))
    (old : ATile) (q : Nat) : ATile :=
  BitVec.ofNat 8192 (packElems 32 (fun e =>
    let i := 16 * (q / 4) + e / 16
    let j := 16 * (q % 4) + e % 16
    if rows.getLsbD i && cols.getLsbD j then
      matDot (k / 16) (if zero then 0 else accElem old e) ((as.drop i).headD []) ((bs.drop j).headD [])
    else accElem old e) 256)

/-- The sixteen tiles after the operation. -/
def matTiles (o : MmaOp) (zero : Bool) (rows cols : Word) (x : MatArgs) (old : Nat → ATile) : List ATile :=
  let cb := if o.cb = .cb4 then cb4Elems x.b x.codebook x.zbitmap else []
  let as := (upto 64).map (matRow o x)
  let bs := (upto 64).map (matCol o x cb)
  (upto 16).map fun q => matTile zero (clsK o.ca) rows cols as bs (old q) q

/-! ### Operations of the slot, in order (R213) -/

/-- An M-slot operation that a microprogram may hold. -/
inductive MatOp where
  | nop
  | mac (zero : Bool) (o : MmaOp) (rows cols : MCode)
  | cb (t : TCode)
  | zb (t : TCode)
  | gather (vx : VCode) (mk : MCode)
  | clear (acc : ACode) (n : Nat)
deriving DecidableEq, Repr

/-- What the operations of one bundle have written so far: accumulator tiles and the matrix-side registers. -/
structure MatSide where
  acc : AMap ATile
  latch : TReg
  codebook : BitVec 256
  zbitmap : BitVec 4096

/-- Before the first of them. -/
def matStart (s : State) : MatSide :=
  { acc := [], latch := s.ctx.arch.latch, codebook := s.ctx.arch.codebook, zbitmap := s.ctx.arch.zbitmap }

/-- Accumulator tile k as the next operation finds it. -/
def MatSide.tile (x : MatSide) (s : State) (k : Nat) : ATile := (amFind x.acc k).getD (s.readAcc k)

/-- Tile register t of the context of rank k of the gang, as it stood before its bundle (R215). -/
def rankTile (s : State) (k : Nat) (t : TCode) : TReg :=
  let n := (gangOf s.cur).getD k s.cur
  (s.ctxOf n).arch.t.read t.toNat (s.ctxOf n).arch.sched (BitVec.ofNat 32768 (Config.undefinedBits s.tick n (600 + t.toNat)))

/-- A 1 KiB header block in four vector registers from v on (R210). -/
def headerBlock (s : State) (v : VCode) : Nat := packElems 2048 (fun q => (s.readV (v + BitVec.ofNat 9 q)).toNat) 4

/-- Operands of a multiply-accumulate (R215). -/
def matArgs (s : State) (x : MatSide) (o : MmaOp) : MatArgs :=
  { a := if o.al then x.latch else s.readT o.ta,
    b := (match o.mr with | some k => rankTile s k.toNat o.tb | none => s.readT o.tb).toNat,
    hdrA := if o.ca.isSb then headerBlock s o.v else 0,
    hdrB := if o.cb.isSb then headerBlock s (o.v + 4) else 0,
    codebook := x.codebook, zbitmap := x.zbitmap }

/-- The latch after a gather: lane i of vX selects row x mod 64 of tile register x / 64 (R219). -/
def gatherRows (s : State) (old : TReg) (vx : VCode) (mk : MCode) : TReg :=
  BitVec.ofNat 32768 (packElems 512 (fun i =>
    if (s.readM mk).getLsbD i then
      let k := s.laneBits vx .z32 i % 512
      (rowOf (s.readT (BitVec.ofNat 3 (k / 64))) (k % 64)).toNat
    else (rowOf old i).toNat) 64)

/-- One operation's effect (R216, R219, R220). -/
def MatOp.run (s : State) (x : MatSide) : MatOp → MatSide
  | .nop => x
  | .mac zero o rows cols =>
    let ts := matTiles o zero (s.readM rows) (s.readM cols) (matArgs s x o) fun q => x.tile s (o.acc.toNat + q)
    { x with acc := ts.zipIdx.foldl (fun m p =>
        if matTouches (s.readM rows) (s.readM cols) p.2 then amSet m (o.acc.toNat + p.2) p.1 else m) x.acc }
  | .cb t => { x with codebook := (s.readT t).setWidth 256 }
  | .zb t => { x with zbitmap := ((s.readT t) >>> (256 : Nat)).setWidth 4096 }
  | .gather vx mk => { x with latch := gatherRows s x.latch vx mk }
  | .clear acc n => { x with acc := (upto n).foldl (fun m k => amSet m (acc.toNat + k) 0) x.acc }

/-- Accumulator tiles that the operation names (R212, R220). -/
def MatOp.names : MatOp → List Nat
  | .mac _ o _ _ => (upto 16).map (o.acc.toNat + ·)
  | .clear acc n => (upto n).map (acc.toNat + ·)
  | _ => []

/-- Registers whose poison the operation would consume, as poison numbers (R65). -/
def MatOp.reads (s : State) : MatOp → List Nat
  | .mac zero o rows cols =>
    (if o.al then [] else [384 + o.ta.toNat]) ++ (if o.mr.isSome && o.mr.map BitVec.toNat != some s.ctx.rank then [] else [384 + o.tb.toNat])
      ++ (if o.al then [5068] else []) ++ (if o.cb = .cb4 then [5069, 5070] else [])
      ++ (if o.ca.isSb || o.cb.isSb then vecPoison (groupFields o.v 8) else [])
      ++ (if zero then [] else
            ((upto 16).filter (matTouches (s.readM rows) (s.readM cols))).map fun q => 456 + (o.acc.toNat + q))
  | .cb t => [384 + t.toNat]
  | .zb t => [384 + t.toNat]
  | .gather vx mk =>
    (if s.readM mk = BitVec.allOnes 64 then [] else [5068]) ++ vecPoison [vx] ++ ((upto 64).filter fun i => (s.readM mk).getLsbD i).map
      fun i => 384 + s.laneBits vx .z32 i % 512 / 64
  | _ => []

/-- Lane masks that the operation reads, as poison numbers; m0 is the constant. -/
def MatOp.masks : MatOp → List Nat
  | .mac _ _ rows cols => ([rows, cols].filter (· ≠ 0)).map fun m => 5032 + m.toNat
  | .gather _ mk => ([mk].filter (· ≠ 0)).map fun m => 5032 + m.toNat
  | _ => []

/-- Another rank's tile register comes over the millrace and holds poison (R65, R217). -/
def MatOp.farPoison (s : State) : MatOp → Bool
  | .mac _ o _ _ =>
    match o.mr with
    | some k => decide (384 + o.tb.toNat ∈ (s.ctxOf ((gangOf s.cur).getD k.toNat s.cur)).arch.poison)
    | none => false
  | _ => false

/-- Registers whose poison the operation ends, as poison numbers: matrix-side registers that it writes whole, and the
accumulator tiles that it writes, which were sound or which it starts from zero (R65, R66, R219). -/
def MatOp.ends (s : State) : MatOp → List Nat
  | .mac _ o rows cols =>
    ((upto 16).filter (matTouches (s.readM rows) (s.readM cols))).map fun q => 456 + (o.acc.toNat + q)
  | .cb _ => [5069]
  | .zb _ => [5070]
  | .gather _ mk => if s.readM mk = BitVec.allOnes 64 then [5068] else []
  | .clear acc n => (upto n).map fun k => 456 + (acc.toNat + k)
  | .nop => []

/-- One of the operations would consume poison: ps are the poisoned registers that it finds, those before it having ended
theirs (R65, R66). -/
def matPoisoned (s : State) : List Nat → List MatOp → Bool
  | _, [] => false
  | ps, op :: ops =>
    (op.masks ++ op.reads s).any (fun r => decide (r ∈ ps)) || op.farPoison s
      || matPoisoned s (ps.filter fun r => !(decide (r ∈ op.ends s))) ops

/-- Tiles that are clear by zero flags after the operation, z being those before it (R62, R220). -/
def MatOp.clears (s : State) (z : List Nat) : MatOp → List Nat
  | .clear acc n => insertAll ((upto n).map (acc.toNat + ·)) z
  | .mac _ o rows cols =>
    z.filter fun k => !((upto 16).any fun q => matTouches (s.readM rows) (s.readM cols) q && o.acc.toNat + q == k)
  | _ => z

/-- The operation names tiles of the window only, and takes millrace data only in a gang stream, which a handler's bundle
is not in (R157, R218, R220). -/
def MatOp.inRange (s : State) : MatOp → Bool
  | .mac _ o _ _ => inAwin s o.acc.toNat 16 && (o.mr.isNone || (s.ctx.gang && !s.ctx.handler))
  | .clear acc n => inAwin s acc.toNat n
  | _ => true

/-- The writes of a run of operations: journal entries, tiles, the zero flags of those that are clear, the chain, the
matrix-side registers (R62, R140, R213). -/
def matFinish (s : State) (names zeros ends : List Nat) (x : MatSide) : Out :=
  match journalAddA s (x.acc.map Prod.fst) with
  | none => trapNow s 3 0x15 1
  | some s1 =>
    let s2 := x.acc.foldl (fun s p => s.putAcc p.1 p.2) s1
    let s3 := names.foldl fillAcc (clearPoison s2 ends)
    .next (s3.modArch fun a => { a with
      latch := x.latch, codebook := x.codebook, zbitmap := x.zbitmap,
      zeroOff := a.zeroOff.filter fun r => !(zeros.any fun k => r == 896 + k) })

/-- Operations of the M slot in order, with the checks of their tiles first (R60, R65). A poisoned register has no physical
line, and sr.fault holds 0 (DESIGN CHOICE, log 123). -/
def matRun (s : State) (ops : List MatOp) : Out :=
  let names := insertAll (ops.flatMap MatOp.names) []
  namingAcc s true names
    (if matPoisoned s s.ctx.arch.poison ops then trapNow s 3 0x20 0
     else matFinish s names (ops.foldl (MatOp.clears s) []) (ops.flatMap (MatOp.ends s))
       (ops.foldl (MatOp.run s) (matStart s)))

/-- An M-slot operation of a bundle: its ranges, its guard, its effect. -/
def matrixOp (g : Guard) (op : MatOp) (s : State) : Out :=
  if op.inRange s then guarded g s (matRun s [op]) else illegal s 3 0x0E

/-- MMA (R215, R216). -/
def execMma (g : Guard) (o : MmaOp) (s : State) : Out := matrixOp g (.mac false o 0 0) s

/-- MMAZ (R215, R216). -/
def execMmaz (g : Guard) (o : MmaOp) (s : State) : Out := matrixOp g (.mac true o 0 0) s

/-- MMAM (R215, R216). -/
def execMmam (g : Guard) (o : MmaOp) (rmk cmk : MCode) (s : State) : Out := matrixOp g (.mac false o rmk cmk) s

/-- MCB (R219). -/
def execMcb (g : Guard) (t : TCode) (s : State) : Out := matrixOp g (.cb t) s

/-- MZB (R219). -/
def execMzb (g : Guard) (t : TCode) (s : State) : Out := matrixOp g (.zb t) s

/-- MRGAT (R219). -/
def execMrgat (g : Guard) (vx : VCode) (mk : MCode) (s : State) : Out := matrixOp g (.gather vx mk) s

/-- ACLR (R220). -/
def execAclr (g : Guard) (acc : ACode) (cntm1 : BitVec 12) (s : State) : Out :=
  matrixOp g (.clear acc (cntm1.toNat + 1)) s

/-! ### Microprograms (R221 to R224) -/

/-- MPLD (R221): row bytes 8q to 8q + 7 form entry q of the row. -/
def execMpld (g : Guard) (t : TCode) (entry : BitVec 7) (row : BitVec 6) (nrm1 : BitVec 4) (s : State) : Out :=
  guarded g s (readingT s 3 t
    (.next (s.modArch fun a => { a with
      uprog := (upto (8 * (nrm1.toNat + 1))).foldl (fun m q =>
        amSet m (entry.toNat + q) (BitVec.ofNat 64 (elem (s.readT t).toNat 64 (8 * row.toNat + q)))) a.uprog })))

/-- The first mret at or after an entry (R222); fuel entries remain. -/
def findMret (uprog : AMap Word) : Nat → Nat → Option Nat
  | 0, _ => none
  | fuel + 1, e => if (amGet 0 uprog e).toNat / 2 ^ 56 = 5 then some e else findMret uprog fuel (e + 1)

/-- A field of an entry with a parameter added, modulo 2^n. -/
def addField (w k n x : Nat) : Nat := (bitsOf w k n + x) % 2 ^ n * 2 ^ k

/-- The operation word of an entry: with P the parameter register PN added to TA, TB, ACC and V (Table 11-5), and a
guard field of zero. -/
def formEntry (mp : AMap Word) (w : Nat) : Nat :=
  if bitsOf w 55 1 = 0 then bitsOf w 56 8 * 2 ^ 56 + bitsOf w 0 51
  else
    let p := (amGet 0 mp (bitsOf w 52 3)).toNat
    bitsOf w 56 8 * 2 ^ 56 + addField w 39 12 (bitsOf p 0 12)
      + addField w 36 3 (bitsOf p 12 3) + addField w 33 3 (bitsOf p 15 3) + addField w 24 9 (bitsOf p 18 9)
      + bitsOf w 0 24

/-- The operation that an entry decodes to, when a microprogram admits it. -/
def matOpOf : Instr → Option MatOp
  | .nop .m => some .nop
  | .mma _ o => some (.mac false o 0 0)
  | .mmaz _ o => some (.mac true o 0 0)
  | .mmam _ o rmk cmk => some (.mac false o rmk cmk)
  | .mcb _ t => some (.cb t)
  | .mzb _ t => some (.zb t)
  | .mrgat _ vx mk => some (.gather vx mk)
  | .aclr _ acc n => some (.clear acc (n.toNat + 1))
  | _ => none

/-- The operation of an entry word, when it is legal (R222, R224). A NOP is a word of zeros as it stands. -/
def entryOp (mp : AMap Word) (w : Nat) : Option MatOp :=
  if w / 2 ^ 56 = 0 then (if w = 0 then some .nop else none)
  else if bitsOf w 51 1 = 1 then none
  else match decodeM (formEntry mp w) with
    | .error _ => none
    | .ok i => if i.fieldsOk && i.rangeOk then matOpOf i else none

/-- The operations of a call from an entry to its mret, when all are legal; and the number of entries. -/
def callBody (s : State) (entry : Nat) : Option (List MatOp × Nat) :=
  let a := s.ctx.arch
  match findMret a.uprog (128 - entry) entry with
  | none => none
  | some l =>
    let ops := (upto (l - entry)).map fun q => entryOp a.mp (amGet 0 a.uprog (entry + q)).toNat
    if ops.all Option.isSome && (amGet 0 a.uprog l).toNat == 5 * 2 ^ 56 then some (ops.filterMap id, l - entry + 1)
    else none

/-- The microprogram memory and the matrix parameters that the entries of a call from an entry apply, as poison numbers
(R65, R222). -/
def callMarks (a : Arch) (entry : Nat) : List Nat :=
  5071 :: match findMret a.uprog (128 - entry) entry with
    | none => []
    | some l => (upto (l - entry)).filterMap fun q =>
        let w := (amGet 0 a.uprog (entry + q)).toNat
        if bitsOf w 55 1 = 1 then some (5060 + bitsOf w 52 3) else none

/-- One of these registers holds poison. -/
def State.marked (s : State) (rs : List Nat) : Bool := rs.any fun r => decide (r ∈ s.ctx.arch.poison)

/-- MCALL (R222 to R224): in progress for n cycles, whether its guard is true or false. Its entries are checked whatever the guard
(R164), so that a call whose entries or parameters are poisoned consumes them (R65). -/
def execMcall (g : Guard) (entry : BitVec 7) (s : State) : Out :=
  if s.marked (callMarks s.ctx.arch entry.toNat) then trapNow s 3 0x20 0
  else match callBody s entry.toNat with
  | none => illegal s 3 0x0E
  | some (ops, n) =>
    if ops.all (MatOp.inRange s) then
      let s1 := s.setCtx { s.ctx with callEnd := Nat.max s.ctx.callEnd (s.now + n) }
      guarded g s1 (matRun s1 ops)
    else illegal s 3 0x0E

/-- MRET (R222, R224): in a bundle it is an Illegal Operation. -/
def execMret (_g : Guard) (s : State) : Out := illegal s 3 0x0E

/-- ACCUMULATOR_WRITE_FINISH (R59): the oldest write in flight to the tile, of the matrix slot or a move, finishes. -/
def execAccumulatorWriteFinish (c tile : Nat) (s : State) : Out :=
  let x := s.ctxOf c
  if x.accFill.any fun p => p.1 == tile then
    .next (s.setCtxOf c { x with accFill := x.accFill.eraseP fun p => p.1 == tile })
  else .next (s.setCtxOf c { x with accMove := x.accMove.eraseP fun p => p.1 == tile })

end Sys2Proof.Machine
end

