-- ==== Sys2Proof/Machine/Rule.lean ====
section
/-! DEFINITION. Rule mode: the rule table and the steps of cellular tiles (R245 to R250). -/

namespace Sys2Proof.Machine

/-- MRTAB (R246): rows ROW to ROW + 15. -/
def execMrtab (g : Guard) (t : TCode) (row : BitVec 6) (s : State) : Out :=
  guarded g s (readingT s 3 t
    (.next (s.modArch fun a => { a with ruleTab := ((s.readT t) >>> (512 * row.toNat)).setWidth 8192 })))

/-! ### One generation (R245, R247, R248) -/

/-- Code of the cell (r, c) of the tile with bytes x; coordinates are inside the tile. -/
def cellIn (w x : Nat) (r c : Nat) : Nat := elem x 8 (64 * r + c) % 2 ^ w

/-- Code that cell (r, c), seen from tile k of the tiles xs, holds: outside the tile as BND says. A linked torus has
tile k at tile-row k / 4 and tile-column k mod 4. -/
def cellCode (st : RuleStep) (xs : List Nat) (k : Nat) (r c : Int) : Nat :=
  let w := ruleWidth st.mode
  let inside := 0 ≤ r && r < 64 && 0 ≤ c && c < 64
  if inside then cellIn w (xs.getD k 0) r.toNat c.toNat
  else match st.bnd.toNat with
    | 0 => st.fix.toNat
    | 1 => cellIn w (xs.getD k 0) (r % 64).toNat (c % 64).toNat
    | _ =>
      let gr := ((64 * (k / 4) : Nat) + r) % 256
      let gc := ((64 * (k % 4) : Nat) + c) % 256
      cellIn w (xs.getD (4 * (gr.toNat / 64) + gc.toNat / 64) 0) (gr.toNat % 64) (gc.toNat % 64)

/-- Index of a cell (Table 12-6). -/
def ruleIndex (mode : BitVec 2) (f : Int → Int → Nat) (r c : Int) : Nat :=
  let own := f r c
  let n := f (r - 1) c
  let e := f r (c + 1)
  let so := f (r + 1) c
  let w := f r (c - 1)
  let ne := f (r - 1) (c + 1)
  let nw := f (r - 1) (c - 1)
  let se := f (r + 1) (c + 1)
  let sw := f (r + 1) (c - 1)
  match mode.toNat with
  | 0 => own * 2 ^ 8 + n * 2 ^ 6 + e * 2 ^ 4 + so * 2 ^ 2 + w
  | 1 => own * 2 ^ 8 + nw * 2 ^ 7 + n * 2 ^ 6 + ne * 2 ^ 5 + e * 2 ^ 4 + se * 2 ^ 3 + so * 2 ^ 2 + sw * 2 + w
  | _ => own * 2 ^ 7 + (nw + n + ne + e + se + so + sw + w)

/-- Every cell of tile k, or those of one parity, replaced by its table entry; the upper bits of a byte are kept. -/
def ruleTile (st : RuleStep) (half : Option Nat) (xs : List Nat) (k : Nat) : Nat :=
  let w := ruleWidth st.mode
  let x := xs.getD k 0
  packElems 8 (fun i =>
    let old := elem x 8 i
    if half = none || half = some ((i / 64 + i % 64) % 2) then
      old / 2 ^ w * 2 ^ w + elem st.table.toNat w (ruleIndex st.mode (cellCode st xs k) (i / 64 : Nat) (i % 64 : Nat))
    else old) 4096

/-- All the tiles after one pass over the cells, each by the step of its own core, with its copy of the table (R247). -/
def rulePass (sts : List RuleStep) (half : Option Nat) (xs : List Nat) : List Nat :=
  sts.zipIdx.map fun p => ruleTile p.1 half xs p.2

/-- One generation: every cell from the old state, or the even cells and then the odd ones. -/
def ruleGen (chk : Bool) (sts : List RuleStep) (xs : List Nat) : List Nat :=
  if chk then rulePass sts (some 1) (rulePass sts (some 0) xs) else rulePass sts none xs

/-! ### mrule and the rule-step unit -/

/-- Bytes of tile i as a number. A zero-flagged line stands as zeros in the memory that the context sees, but for a zero
page (R15, R62). -/
def tileNat (s : State) (n i : Nat) : Nat :=
  let t := s.tile i
  if t.zeroPage then 0 else memNat (baseMem s n) t.base 4096

/-- The first poisoned line of a tile that maps memory (R65). -/
def tilePoison (s : State) (t : StashTile) : Option Nat :=
  if t.zeroPage then none else ((upto 64).map (64 * t.pa + ·)).find? fun l => decide (l ∈ s.poison)

/-- MRULE (R247 to R250). A linked step needs a gang stream, to which no handler's bundle belongs (R157, R300). A tile of a
zero page admits no write (R14; DESIGN CHOICE, log 21). The step's 4,096 bytes count against the write set's room with its own
commit, though its generations are stored later (R113; DESIGN CHOICE, log 124). -/
def execMrule (g : Guard) (qt : QCode) (mode : BitVec 2) (chk : Bool) (bnd : BitVec 2) (fix : BitVec 4)
    (gens : BitVec 8) (s : State) : Out :=
  if (bnd.toNat = 2 && !(s.ctx.gang && !s.ctx.handler)) || s.ctx.swinCount ≤ qt.toNat then illegal s 3 0x0E
  else guarded g s (namingTile s 3 qt.toNat fun i =>
    let t := s.tile i
    match s.stage with
    | .issue =>
      poisonFree s 3 [5072] (match tilePoison s t with
      | some l => machineCheck s 3 l
      | none =>
      let cells := cellsAt t.base (List.replicate 4096 0)
      let checked : State → Out := fun s1 =>
        if wsOverflows s1 s1.cur (s1.ctx.withheld ++ [.store cells]) then trapNow s1 3 0x1B 0 else .next s1
      if t.zeroPage then
        accessing s 3 .vectorStore true false 1 [{ va := t.va * 4096, n := 4096, lane := 0 }] fun s1 _ => checked s1
      else checked s)
    | .commit =>
      let st : RuleStep := { order := s.tick, mode := mode, chk := chk, bnd := bnd, fix := fix, table := s.ctx.arch.ruleTab }
      let s1 := s.setTile i { t with state := .filling, gen := gens.toNat, rule := some st }
      if bnd.toNat = 2 && s.ctx.rank ≠ 0 then .next s1
      else .next { s1 with work := s1.work ++ [.ruleGeneration s.cur i] })

/-- No step that was committed earlier runs in the core of tile i. -/
def ruleTurn (s : State) (i order : Nat) : Bool :=
  s.stash.all fun p =>
    !(p.1 / 512 == i / 512 && p.1 != i) || (match p.2.rule with | some r => decide (order ≤ r.order) | none => true)

/-- Contexts and tiles that step together: one, or the sixteen of a linked gang (R248). -/
def ruleGroup (s : State) (c tile : Nat) (st : RuleStep) : List (Nat × Nat) :=
  if st.bnd.toNat = 2 then
    (gangOf c).map fun n => (n, tileIx s n (tile % 512 - (s.ctxOf c).swinBase))
  else [(c, tile)]

/-- One generation of tile i stored as one store, with its step ended after the last (R247). In a phased task it belongs to
the phase that runs when it is stored: R117 waits for engine contexts alone (DESIGN CHOICE, log 125). -/
def ruleStore (s : State) (n i x : Nat) : State :=
  let cells := cellsAt (s.tile i).base (leBytes 4096 x)
  let s1 := performStores s n 6 0 cells
  let t := s1.tile i
  let t1 := { t with gen := t.gen - 1, rule := if t.gen = 1 then none else t.rule }
  s1.setTile i (t1.written (s1.ctxOf n).phased)

/-- The lines of the group's tiles poisoned: what a generation makes of a poisoned line is no value (R65; that every line
of the tiles is poisoned: DESIGN CHOICE, log 94). -/
def rulePoison (s : State) (group : List (Nat × Nat)) : State :=
  { s with poison := group.foldl (fun ps p =>
      if (s.tile p.2).zeroPage then ps else insertAll ((upto 64).map (64 * (s.tile p.2).pa + ·)) ps) s.poison }

/-- RULE_GENERATION (R247 to R249): one whole generation, or none while another step has the unit or a store is
held. -/
def execRuleGeneration (c tile : Nat) (s : State) : Out :=
  match (s.tile tile).rule with
  | none => .next s
  | some st =>
    let group := ruleGroup s c tile st
    let later := { s with work := s.work ++ [.ruleGeneration c tile] }
    let held := group.any fun p => s.storeHeld (some p.1) (cellsAt (s.tile p.2).base (List.replicate 4096 0))
    if held || !(group.all fun p =>
        match (s.tile p.2).rule with | some r => ruleTurn s p.2 r.order | none => false) then .next later
    else
      let xs := ruleGen st.chk (group.map fun p => (s.tile p.2).rule.getD st) (group.map fun p => tileNat s p.1 p.2)
      let bad := group.any fun p => (tilePoison s (s.tile p.2)).isSome
      let s0 := (group.zip xs).foldl (fun s p => ruleStore s p.1.1 p.1.2 p.2) s
      let s1 := if bad then rulePoison s0 group else s0
      if (s1.tile tile).rule.isSome then .next { s1 with work := s1.work ++ [.ruleGeneration c tile] } else .next s1

end Sys2Proof.Machine
end

