-- ==== Sys2Proof/Machine/Side.lean ====
section
/-! DEFINITION. Side registers: system registers, schedule registers, shape shadows, matrix parameters, lane masks
(R123, R127, R184 to R187). -/

namespace Sys2Proof.Machine

/-- COUNT and INDEX of a level; a level beyond the hierarchy reads as zero (R127, Table 7-5). -/
def levelWord (c : Ctx) (n : Nat) : Nat :=
  match (c.levels.drop n).head? with
  | some p => p.1 % 2 ^ 32 * 2 ^ 32 + p.2 % 2 ^ 32
  | none => 0

/-- A system register as context number n's own code reads it (Tables 1-1 to 15-3). -/
def sysValue (s : State) (n : Nat) (r : SysReg) : Word :=
  let c := s.ctxOf n
  match r with
  | .ctx => BitVec.ofNat 64 (if c.handler then posWord n c.gang else c.gang.toNat * 2 ^ 13)
  | .rank => BitVec.ofNat 64 c.rank
  | .skew => BitVec.ofNat 64 c.skew
  | .task => BitVec.ofNat 64 c.task
  | .part => BitVec.ofNat 64 (c.prio * 256 + c.part)
  | .level k => BitVec.ofNat 64 (levelWord c k.toNat)
  | .cause => if c.handler then c.cause else 0
  | .epc => if c.handler then c.arch.epc else 0
  | .fault => if c.handler then c.fault else 0
  | .feature => 0x0104
  | .arith => 0x01
  | .cycle => BitVec.ofNat 64 (s.wall + c.skew)
  | .ttb => c.arch.ttb
  | .asid => c.arch.asid.setWidth 64
  | .awin => BitVec.ofNat 64 (c.awinCount * 2 ^ 16 + c.awinBase)
  | .swin => BitVec.ofNat 64 (c.swinCount * 2 ^ 16 + c.swinBase)
  | .tlh => BitVec.ofNat 64 (handleOf s c.slot)
  | .phase => BitVec.ofNat 64 (c.phased.toNat * 2 ^ 63 + c.wstiles * 2 ^ 40 + c.phase % 2 ^ 32)

/-- Registers with a field that handlers may write (R185). -/
def sysWritable : SysReg → Bool
  | .epc => true
  | .ttb => true
  | .asid => true
  | _ => false

/-- A write of a system register: only its RW fields change (R185). -/
def applySys (a : Arch) (p : SysReg × Word) : Arch :=
  match p.1 with
  | .epc => { a with epc := resumePc p.2 }
  | .ttb => { a with ttb := p.2 &&& 0x000FFFFFFFFFF000#64 }
  | .asid => { a with asid := p.2.setWidth 16 }
  | _ => a

/-- Key of word w of a shape register's copy. -/
def shapeKey (code w : Nat) : Nat := 8 * code + w

/-- A write of a shape shadow or matrix parameter made when its bundle ends (R187). -/
def applySide (a : Arch) (p : SpReg × Word) : Arch :=
  match p.1 with
  | .shadow code w => { a with shadow := amSet a.shadow (shapeKey code.toNat w.toNat) p.2 }
  | .mp n => { a with mp := amSet a.mp n.toNat p.2 }
  | _ => a

/-- The value that rdsp returns. -/
def spValue (s : State) (r : SpReg) : Word :=
  match r with
  | .sys r => sysValue s s.cur r
  | .sched n => amGet 0 (s.launchOf s.ctx.launch).sched n.toNat
  | .shadow code w => amGet 0 s.ctx.arch.shadow (shapeKey code.toNat w.toNat)
  | .mp n => amGet 0 s.ctx.arch.mp n.toNat
  | .mask n => s.readM n

/-- RDSP (R184 to R187). -/
def execRdsp (g : Guard) (sd : SCode) (r : SpReg) (s : State) : Out :=
  guarded g s (finishS s sd (spValue s r) 1)

/-- The wrsp needs rights that the context lacks: a system register from task code, or one without an RW field
(R185). -/
def wrspPrivileged (s : State) (r : SpReg) : Bool :=
  match r with
  | .sys r => !s.ctx.handler || !sysWritable r
  | _ => false

/-- WRSP (R184 to R187). A schedule-register write is made at the commit (R186). -/
def execWrsp (g : Guard) (ss : SCode) (r : SpReg) (s : State) : Out :=
  if wrspPrivileged s r then privileged s 0
  else guarded g s (readingS s 0 [ss]
    (let x := s.readS ss
     match r with
     | .sys q => .next (s.modArch fun a => { a with srw := a.srw ++ [(q, x)] })
     | .sched n =>
       match s.stage with
       | .issue => .next s
       | .commit => .next (s.modLaunch s.ctx.launch fun l => { l with sched := amSet l.sched n.toNat x })
     | .shadow _ _ => .next (s.modArch fun a => { a with side := a.side ++ [(r, x)] })
     | .mp _ =>
       if x.toNat / 2 ^ 27 ≠ 0 then illegal s 0 0x0E
       else .next (s.modArch fun a => { a with side := a.side ++ [(r, x)] })
     | .mask n => .next (s.writeM n (BitVec.allOnes 64) x 1)))

end Sys2Proof.Machine
end

