-- ==== Sys2Proof/Machine/Engine.lean ====
section
/-! DEFINITION. Engine commands: numbering, shape registers, the points of a nest, engine reads and writes, the spill
buffer, pausing and completion (R85, R91, R225, R254, R255, R309). -/

namespace Sys2Proof.Machine

/-! ### Commands of a context -/

/-- Command num of engine context eng of context n. -/
def cmdOf (s : State) (n eng num : Nat) : Option Cmd := (s.ctxOf n).cmds.find? fun k => k.eng == eng && k.num == num

/-- That command changed. -/
def modCmd (s : State) (n eng num : Nat) (f : Cmd → Cmd) : State :=
  let c := s.ctxOf n
  s.setCtxOf n { c with cmds := c.cmds.map fun k => if k.eng == eng && k.num == num then f k else k }

/-- The command has completed: it leaves the context, and its timeline counter moves (R85). -/
def cmdDone (s : State) (n eng num : Nat) : State :=
  let c := s.ctxOf n
  let s1 := s.setCtxOf n { c with cmds := c.cmds.filter fun k => !(k.eng == eng && k.num == num) }
  releaseEnded (timelineComplete s1 c.slot eng num)

/-- The engine context takes no further command now (R129): sixteen have not started, or, for contexts 0 and 1, twenty
have not completed. -/
def engineFull (c : Ctx) (eng : Nat) : Bool :=
  decide (16 ≤ (c.cmds.filter fun k => k.eng == eng && !k.accepted).length)
    || (eng ≤ 1 && decide (20 ≤ (c.cmds.filter fun k => k.eng == eng).length))

/-- Requests of the context itself that are on their way: what its next engine command's accesses follow (R83). -/
def ownRequests (s : State) (n : Nat) : List (Nat × Nat × Nat) :=
  (pendingOut s n fun o => 6 ≤ o.eng).map fun o => (o.req.dest, o.req.lane, o.req.seq)

/-- One of these requests has not been performed, and may still be. -/
def anyPending (s : State) (rs : List (Nat × Nat × Nat)) : Bool :=
  rs.any fun r => reachable s r.1 && decide (amGet 0 s.fabric.performedAt (laneOf r.1 r.2.1) < r.2.2)

/-- A command without shape registers, as its commit makes it. -/
def newCmd (s : State) (eng num : Nat) (work : CmdWork) : Cmd :=
  let c := s.ctx
  { eng := eng, num := num, work := work, accepted := false, asid := c.arch.asid, ttb := c.arch.ttb,
    handler := c.handler, bva := s.bundle.addr, words := [], sa := 0, sb := 0, point := 0, staged := [], ending := 0,
    status := 1, crc := 0xFFFFFFFF, paused := false, after := ownRequests s s.cur, codebook := 0, zbitmap := 0, poisoned := false,
    tiles := [] }

/-- The command is given to its engine, which accepts it in an event of its own (R135). -/
def pushCmd (s : State) (k : Cmd) : State :=
  let c := s.ctx
  let s1 := s.setCtx { c with cmds := c.cmds ++ [k] }
  { s1 with work := s1.work ++ [.engineCommandAccept s.cur k.eng k.num] }

/-- A check of what scalar register r holds, which poison leaves to the Machine Check of its read (R65). -/
def ofSound (s : State) (r : SCode) (ok : Bool) (bad k : Out) : Out :=
  if ok || decide (s.ctx.markS r ∈ s.ctx.arch.poison) then k else bad

/-- An engine command of slot sl: it passes the checks of its form (pre: R165), blocks while its engine context is full
(R129), reads its registers, takes no number past 2^64 − 1 (R85), passes the checks of what it reads in memory (post), and
acts at the commit with its number. -/
def engineOp (g : Guard) (sl eng : Nat) (rs : List SCode) (s : State) (pre : Out → Out) (post : Out)
    (act : State → Nat → Out) : Out :=
  guarded g s
    (match s.stage with
     | .issue =>
       pre
         (if engineFull s.ctx eng then blockNow s
          else readingS s sl rs
            (if 2 ^ 64 ≤ (s.timeline s.ctx.slot eng).issued + 1 then trapNow s sl 0x1E 0 else post))
     | .commit =>
       let x := takeNumber s s.ctx.slot eng
       act x.2 x.1)

/-- ENGINE_COMMAND_ACCEPT (R135): the engine takes the command once the context's earlier requests through the fabric window
have been performed, which its accesses follow (R83). -/
def execEngineCommandAccept (c eng num : Nat) (s : State) : Out :=
  match cmdOf s c eng num with
  | none => .next s
  | some k =>
    if k.accepted then .next s
    else if anyPending s k.after then .next { s with work := s.work ++ [.engineCommandAccept c eng num] }
    else
      let s1 := modCmd s c eng num fun k => { k with accepted := true }
      .next { s1 with work := s1.work ++ cmdEvent c k }

/-! ### Shapes (R187, R225, R254) -/

/-- The four shape registers of an engine slot, as poison numbers (R65). -/
def shapeMarks (e : Nat) : List Nat := (upto 4).map (5044 + 4 * e + ·)

/-- Words of shape registers 4·e to 4·e + 3 in a copy, register by register. -/
def shapeWords (m : AMap Word) (e : Nat) : List Word := (upto 32).map fun k => amGet 0 m (shapeKey (4 * e) 0 + k)

/-- Active copy and shadow of the four registers of an engine slot exchanged. -/
def swapShapes (a : Arch) (e : Nat) : Arch :=
  let put := fun (m : AMap Word) (ws : List Word) =>
    ws.zipIdx.foldl (fun m p => amSet m (shapeKey (4 * e) 0 + p.2) p.1) m
  { a with shape := put a.shape (shapeWords a.shadow e), shadow := put a.shadow (shapeWords a.shape e) }

/-- Word w of register r of a command's shape. -/
def shapeWord (ws : List Word) (r w : Nat) : Nat := (ws.getD (8 * r + w) 0).toNat

/-- Counts of dimensions 0 to 5 (Table 11-6). -/
def shapeCounts (ws : List Word) : List Nat := (upto 6).map fun d => bitsOf (shapeWord ws 0 1) (10 * d) 10 + 1

/-- Number of points. -/
def pointTotal (ws : List Word) : Nat := (shapeCounts ws).foldl (· * ·) 1

/-- Indices of point p in visit order, dimension 0 innermost. -/
def pointIndex (ns : List Nat) (p : Nat) : List Nat :=
  match ns with
  | [] => []
  | n :: ns => p % n :: pointIndex ns (p / n)

/-- BASE plus the sum of index times stride of register r, as an integer. -/
def pointOffset (ws : List Word) (r : Nat) (ix : List Nat) : Int :=
  (shapeWord ws r 0 : Nat) + (ix.zipIdx.map fun p => (p.1 : Int) * signedOf 64 (shapeWord ws r (2 + p.2))).foldl (· + ·) 0

/-- Address of register r at a point, with a scalar added, modulo 2^64. -/
def pointAddr (ws : List Word) (r : Nat) (x : Word) (p : Nat) : Nat :=
  patternOf 64 (pointOffset ws r (pointIndex (shapeCounts ws) p) + (x.toNat : Nat))

/-! ### Engine accesses (class 9) -/

/-- Translation context of a command's accesses. -/
def cmdXlat (s : State) (n : Nat) (k : Cmd) : Xlat :=
  { asid := k.asid, ttb := bitsOf k.ttb.toNat 12 40 * 4096, handler := k.handler, phased := (s.ctxOf n).phased,
    ctx := if n < 2 ^ 20 then some n else none }

/-- Pages of len bytes from va, modulo 2^64. -/
def rangePages (va len : Nat) : List (Nat × Nat) :=
  if len = 0 then []
  else (upto ((va % 65536 + (len - 1)) / 65536 + 1)).map fun i => ((va / 65536 + i) % 2 ^ 48, 0)

/-- The pages of an engine access translated. -/
def engTranslate (s : State) (n : Nat) (k : Cmd) (cls : Access) (write : Bool) (va len : Nat) :
    State × List (Nat × Phys) × List PageFault :=
  translatePages s (cmdXlat s n k) cls write false (rangePages va len) [] []

/-- Bytes at translated addresses as an engine of context n reads them (R109). -/
def engBytes (s : State) (n : Nat) (ps : List Phys) : List Byte :=
  let near := baseMem s n
  ps.map fun p =>
    if p.kind = .zero then 0 else if p.pa < 2 ^ 40 then memGet near p.pa else memGet s.mem (homePa p.pa)

/-- What an engine read comes to. -/
inductive EngRead where
  | ok (s : State) (bs : List Byte)
  /-- Pages that fail. -/
  | fault (s : State) (fs : List PageFault)
  /-- A poisoned line (R66). -/
  | poison (s : State) (line : Nat)
  /-- A module that no link reaches: the request stays unacknowledged (R105). -/
  | lost (s : State)

/-- The bytes of a copy command's own writes that stand in the spill buffer laid over the bytes read from va: its points
run one at a time (R254, R255). -/
def underSpill (c : Ctx) (k : Cmd) (va : Nat) (bs : List Byte) : List Byte :=
  if k.eng ≠ 0 then bs
  else c.spill.foldl (fun bs w =>
    if w.1 ≠ k.num then bs
    else bs.zipIdx.map fun p =>
      let o := (va + p.2 + 2 ^ 64 - w.2.1.toNat) % 2 ^ 64
      w.2.2.getD o p.1) bs

/-- The read requests for the lines of the bytes at translated addresses that lie in the fabric window, performed after every
earlier request of their lanes (R84, R103). -/
def engAsk (s : State) (n : Nat) (ps : List Phys) : State :=
  let lines := (ps.filter fun p => rangeOf p.pa = .fabric && p.kind ≠ .zero && reachable s (fabModule p.pa)).foldl
    (fun ls p => insertOnce (p.pa / 64) ls) []
  if lines.isEmpty then s else fabReadNow s n lines

/-- A read of len bytes at va by a command. -/
def engRead (s : State) (n : Nat) (k : Cmd) (va len : Nat) : EngRead :=
  match engTranslate s n k .engine false va len with
  | (s1, _, f :: fs) => .fault s1 (f :: fs)
  | (s1, pages, []) =>
    let ps := (addrsFrom va len).map (physOf pages)
    match ps.find? fun p => rangeOf p.pa = .fabric && p.kind ≠ .zero && !reachable s1 (fabModule p.pa) with
    | some p => .lost (fabSend s1 n k.eng k.num p.pa (.read (bitsOf p.pa 0 40) 1))
    | none =>
      let s2 := engAsk s1 n ps
      match ps.find? fun p => p.kind ≠ .zero && decide (homePa p.pa / 64 ∈ s2.poison) with
      | some p => .poison s2 (homePa p.pa / 64)
      | none => .ok s2 (underSpill (s2.ctxOf n) k va (engBytes s2 n ps))

/-- The command's event again. -/
def again (s : State) (n : Nat) (k : Cmd) : State := { s with work := s.work ++ cmdEvent n k }

/-- The command pauses, and an engine record is forwarded: CLASS 9, SLOT 6, its number (R255, R309). One of a saved context,
which no store can name, is retried until its page translates, and forwards one record (DESIGN CHOICE, log 121). -/
def engPause (s : State) (n : Nat) (k : Cmd) (fs : List PageFault) : State :=
  if k.paused then again s n k else
  let record := faultRecord k.asid.toNat Access.engine.code 6 k.bva.toNat fs k.num
  let s1 := modCmd (if n < 2 ^ 20 then s else again s n k) n k.eng k.num fun k => { k with paused := true }
  (forwardEntry s1 k.asid.toNat (ringEntry s1 n 0x10 0 (s1.ctxOf n).arch.epc (s1.ctxOf n).fault record)).1

/-- The ring entry of poisoned data that an engine or unit reads: CAUSE 0x20, SLOT 6 or 7 (R66, R302). -/
def engPoison (s : State) (n slot eng num line : Nat) (asid : BitVec 16) (bva : Word) : State :=
  let record := plainRecord asid.toNat 0x20 slot bva.toNat 0 0 [64 * line, num, eng]
  (forwardEntry s asid.toNat (ringEntry s n 0x20 0 (s.ctxOf n).arch.epc (s.ctxOf n).fault record)).1

/-- Bytes written from va in parts that lie in one line each. -/
def lineParts : Nat → Nat → List Byte → List (Word × List Byte)
  | 0, _, _ => []
  | fuel + 1, va, bs =>
    if bs.isEmpty then []
    else
      let n := 64 - va % 64
      (BitVec.ofNat 64 va, bs.take n) :: lineParts fuel ((va + n) % 2 ^ 64) (bs.drop n)

/-- Bytes written from va as one write for each line. -/
def engParts (va : Nat) (bs : List Byte) : List (Word × List Byte) := lineParts (bs.length / 64 + 2) va bs

/-- What an engine write comes to: performed, or its page fails. -/
inductive EngWrite where
  | ok (s : State)
  | fault (s : State)
  /-- A module that no link reaches (R105). -/
  | lost (s : State)

/-- One write of a command at one point of the module order. -/
def engWrite (s : State) (n : Nat) (k : Cmd) (w : Word × List Byte) : EngWrite :=
  match engTranslate s n k .engine true w.1.toNat w.2.length with
  | (s1, _, _ :: _) => .fault s1
  | (s1, pages, []) => .ok (performStores s1 n k.eng k.num (physCells pages w.1.toNat w.2))

/-- Bytes in the spill buffer of a context, which holds 256 KiB (R255). -/
def spillUsed (c : Ctx) : Nat := (c.spill.map fun w => w.2.2.length).foldl (· + ·) 0

/-- The command has writes in the spill buffer. -/
def spilled (s : State) (n : Nat) (k : Cmd) : Bool := (s.ctxOf n).spill.any fun w => w.1 == k.num

/-- The write meets bytes of one that stands in the spill buffer, behind which it must stay (R255). -/
def behindSpill (c : Ctx) (w : Word × List Byte) : Bool :=
  c.spill.any fun x => (w.1 - x.2.1).toNat < x.2.2.length || (x.2.1 - w.1).toNat < w.2.length

/-- The write enters the spill buffer, or the command waits at it until replay frees room (R255). -/
def engSpill (s : State) (n : Nat) (k : Cmd) (w : Word × List Byte) (ws : List (Word × List Byte)) : State :=
  let c := s.ctxOf n
  if 262144 < spillUsed c + w.2.length then again s n k
  else
    let s1 := s.setCtxOf n { c with spill := c.spill ++ [(k.num, w)] }
    let s2 := modCmd s1 n k.eng k.num fun k => { k with staged := ws }
    again { s2 with work := if c.spill.isEmpty then s2.work ++ [.spillReplay n k.num] else s2.work } n k

/-- The first staged write of the command is made, spilled when its page fails or a spilled write is ahead of it, or
waits (R255). -/
def engStep (s : State) (n : Nat) (k : Cmd) (w : Word × List Byte) (ws : List (Word × List Byte)) : State :=
  if behindSpill (s.ctxOf n) w then engSpill s n k w ws
  else match engWrite s n k w with
  | .lost s1 => s1
  | .ok s1 => again (modCmd s1 n k.eng k.num fun k => { k with staged := ws }) n k
  | .fault s1 => engSpill s1 n k w ws

/-- SPILL_REPLAY (R255): the oldest write of the context's spill buffer, which is this command's, is performed once its page
is mapped. -/
def execSpillReplay (c num : Nat) (s : State) : Out :=
  match (s.ctxOf c).spill with
  | [] => .next s
  | w :: ws =>
    match cmdOf s c 0 w.1 with
    | none => .next s
    | some k =>
      let later := fun (s : State) => { s with work := s.work ++ [.spillReplay c num] }
      if w.1 ≠ num then .next s
      else match engWrite s c k w.2 with
      | .lost s1 => .next s1
      | .fault s1 => .next (later s1)
      | .ok s1 =>
        let s2 := s1.setCtxOf c { s1.ctxOf c with spill := ws }
        .next { s2 with work := s2.work ++ ws.head?.toList.map fun x => .spillReplay c x.1 }

/-- Every request of the command has been performed at its destination (Table 5-1). -/
def cmdQuiet (s : State) (n : Nat) (k : Cmd) : Bool := (pendingOut s n fun o => o.eng == k.eng && o.num == k.num).isEmpty

end Sys2Proof.Machine
end

