-- ==== Sys2Proof/Machine/Copy.lean ====
section
/-! DEFINITION. The copy and transform engine: commands, their points, completion (R253 to R261). -/

namespace Sys2Proof.Machine

/-! ### What a point reads -/

/-- The next step of a read that needs what an earlier one found. -/
def EngRead.andThen (r : EngRead) (f : State → List Byte → EngRead) : EngRead :=
  match r with
  | .ok s bs => f s bs
  | r => r

/-- A further read whose bytes follow those before it. -/
def readMore (n : Nat) (k : Cmd) (va len : Nat) (s : State) (bs : List Byte) : EngRead :=
  (engRead s n k va len).andThen fun s1 cs => .ok s1 (bs ++ cs)

/-- Low two bits of an FMT code as a block format. -/
def packFmt (f : BitVec 3) : BitVec 2 := f.setWidth 2

/-- Columns of the matrix form of a format (R257): 128 for SB3, else 64. -/
def packK (f : BitVec 3) : Nat := if (packFmt f).toNat = 0 then 128 else 64

/-- Ones in a byte string. -/
def onesIn (bs : List Byte) : Nat := (bs.map fun b => ((upto 8).filter b.getLsbD).length).foldl (· + ·) 0

/-- Source bytes of a point at S; aux is AUX (R256 to R260). -/
def copySource (op : CopyOp) (n : Nat) (k : Cmd) (src aux : Nat) (s : State) : EngRead :=
  match op with
  | .copy len => engRead s n k src len
  | .crc len => engRead s n k src len
  | .pack f _ _ =>
    if f.toNat = 7 then (engRead s n k src 16384).andThen (readMore n k aux 32)
    else if f.toNat < 4 then engRead s n k src 4096
    else engRead s n k src (256 * packK f)
  | .unpack f =>
    if f.toNat = 7 then
      (engRead s n k src 544).andThen fun s1 bs => readMore n k (src + 544) ((onesIn (bs.drop 32) + 1) / 2) s1 bs
    else if f.toNat < 4 then engRead s n k src (64 * sbBytes (sbMag (packFmt f)))
    else engRead s n k src 5120
  | .decode =>
    (engRead s n k src 0x30).andThen fun s1 bs =>
      let raw := leNat (bs.take 4)
      let code := leNat ((bs.drop 4).take 4)
      readMore n k (src + 0x30) (if raw ≤ 65536 then Nat.min code (4 + 4 * raw) else 0) s1 bs
  | .zeroSup expand =>
    if expand then (engRead s n k src 8).andThen fun s1 bs => readMore n k (src + 8) (64 * onesIn bs) s1 bs
    else engRead s n k src 4096

/-! ### What a point writes (R257 to R260) -/

/-- FP32 value i of a byte string. -/
def fpAt (x i : Nat) : FVal := Fmt.fp32.value (elem x 32 i)

/-- Little-endian FP32 bytes of exact values. -/
def fpBytes (vs : List FVal) : List Byte := vs.flatMap fun v => leBytes 4 (Fmt.fp32.rne v)

/-- The n blocks that encode consecutive sixteens of the values in x. -/
def sbBlocks (m : Nat) (rm : Rm) (inf : Bool) (x n : Nat) : List Nat :=
  (upto n).map fun b => sbEncode m rm inf ((upto 16).map fun j => fpAt x (16 * b + j))

/-- Bits of a container or header that the form ignores: open, but alike in every run (R3, R257; log 22). -/
def ignoredBits (w item : Nat) : Nat := Config.openBits (2000 + item) % 2 ^ w

/-- Container of element j of a block in the matrix form (Table 11-1): sign at the top, magnitude at the bottom. -/
def containerOf (m w b j : Nat) : Nat :=
  let q := sbElemOf m b j
  (if q.1 then 2 ^ (w - 1) else 0) + (ignoredBits (w - 1 - m) (w + j)) * 2 ^ m + q.2

/-- The tile of the matrix form: row i of k containers. -/
def packTile (m k : Nat) (blocks : List Nat) : List Byte :=
  let w := 512 / k
  leBytes 4096 (packElems w (fun e => containerOf m w (blocks.getD (e / 16) 0) (e % 16)) (64 * k))

/-- Its header block: E and MU of block b of row i at bytes 16·i + 2b and 16·i + 2b + 1 (R210). -/
def packHeader (k : Nat) (blocks : List Nat) : List Byte :=
  leBytes 1024 (packElems 16 (fun e =>
    if e % 8 < k / 16 then (blocks.getD (k / 16 * (e / 8) + e % 8) 0) % 2 ^ 16 else ignoredBits 16 (100 + e)) 512)

/-- Two values that a codebook match takes as equal: every NaN equals every NaN, −0 equals +0 (R257). -/
def FVal.same (a b : FVal) : Bool := (a.isNan && b.isNan) || (!a.isNan && !b.isNan && !a.lt b && !b.lt a)

/-- The lowest codebook entry that a value matches. -/
def codeIndex (book : Nat) (v : FVal) : Option Nat :=
  let y := Fmt.bf16.value (cvt .bf16 .rn false v)
  (upto 16).find? fun c => (Fmt.bf16.value (elem book 16 c)).same y

/-- The CB4 record of a tile, or none when some element matches no entry. -/
def packCb4 (x book : Nat) : Option (List Byte) :=
  let vs := (upto 4096).map (fpAt x)
  let ix := (vs.filter fun v => !v.isZero).map (codeIndex book)
  if ix.any Option.isNone then none
  else
    let present := packElems 1 (fun e => if (vs.getD e .nan).isZero then 0 else 1) 4096
    let is := ix.filterMap id
    some (leBytes 32 book ++ leBytes 512 present
      ++ leBytes ((is.length + 1) / 2) (packElems 4 (fun r => is.getD r 0) is.length))

/-- Values of a CB4 record; an absent element is +0. -/
def unpackCb4 (x : Nat) : List FVal :=
  (cb4Elems x (BitVec.ofNat 256 x) (BitVec.ofNat 4096 (x / 2 ^ 256))).map fun v => v.getD (.fin false 0 0)

/-- Class of a matrix form. -/
def packCls (f : BitVec 3) : Cls := match (packFmt f).toNat with | 0 => .sb3 | 1 => .sb5 | _ => .sb8

/-- Symbols of a chunk decoded one after the other: the symbols and the coded bytes consumed; none when a decode finds
no symbol (R232, R258). -/
def chunkSymbols (f : List Nat) : Nat → Lane → List Byte → Nat → Option (List Nat × Nat)
  | 0, _, _, used => some ([], used)
  | n + 1, x, code, used =>
    let win := (code.take 8 ++ List.replicate 8 0).map fun b => (b, false)
    match decodeLane (some f) { x with q := { x.q with win := win } } with
    | none => none
    | some r =>
      match chunkSymbols f n r.2.1 (code.drop r.2.2.1) (used + r.2.2.1) with
      | none => none
      | some p => some (r.1 :: p.1, p.2)

/-- Two symbols make a byte, the low nibble first. -/
def nibbleBytes : List Nat → List Byte
  | a :: b :: xs => BitVec.ofNat 8 (a % 16 + 16 * (b % 16)) :: nibbleBytes xs
  | _ => []

/-- A chunk decoded: its raw bytes, or the STATUS that stops the command (R258). -/
def decodeChunk (bs : List Byte) : Except Nat (List Byte) :=
  let x := leNat (bs.take 48)
  let raw := elem x 32 0
  let len := elem x 32 1
  if raw = 0 || 65536 < raw || len < 4 || elem x 32 3 ≠ 0 then .error 3
  else match checkTable ((upto 16).map fun e => elem x 16 (8 + e)) with
    | none => .error 3
    | some f =>
      match chunkSymbols f (2 * raw) { initLane0 with prime := true } (bs.drop 48) 0 with
      | none => .error 3
      | some p =>
        let out := nibbleBytes p.1
        if p.2 ≠ len then .error 3 else if crc32c out ≠ elem x 32 2 then .error 4 else .ok out
where
  initLane0 : Lane := { low := 0, range := 0, code := 0, cur := 0, lim := 0, budget := 0, pend := 0, fl := false,
                        prime := false, enc := false, first := false, carry := false, cache := 0,
                        q := { win := [], rest := 0, ended := false, overrun := false, error := false } }

/-- Lines of a 4 KiB block that hold a non-zero byte. -/
def nonZeroLines (x : Nat) : List Nat := (upto 64).filter fun l => elem x 512 l ≠ 0

/-- The block that a mask and its lines expand to, the lines from position r on. -/
def expandLines (mask lines : Nat) : Nat → Nat → Nat → List Byte
  | 0, _, _ => []
  | n + 1, l, r =>
    if elem mask 1 l = 1 then leBytes 64 (elem lines 512 r) ++ expandLines mask lines n (l + 1) (r + 1)
    else List.replicate 64 0 ++ expandLines mask lines n (l + 1) r

/-- What a point of a command stores at D, or the STATUS that stops it. -/
def copyResult (op : CopyOp) (bs : List Byte) : Except Nat (List Byte) :=
  let x := leNat bs
  match op with
  | .copy _ => .ok bs
  | .crc _ => .ok []
  | .pack f rm inf =>
    let m := sbMag (packFmt f)
    if f.toNat = 7 then
      match packCb4 (x % 2 ^ (8 * 16384)) (x / 2 ^ (8 * 16384)) with | some r => .ok r | none => .error 2
    else if f.toNat < 4 then .ok ((sbBlocks m rm inf x 64).flatMap (leBytes (sbBytes m)))
    else
      let blocks := sbBlocks m rm inf x (4 * packK f)
      .ok (packTile m (packK f) blocks ++ packHeader (packK f) blocks)
  | .unpack f =>
    let m := sbMag (packFmt f)
    if f.toNat = 7 then .ok (fpBytes (unpackCb4 x))
    else if f.toNat < 4 then
      .ok (fpBytes ((upto 1024).map fun e => sbDecode m (elem x (sbBits m) (e / 16)) (e % 16)))
    else
      .ok (fpBytes ((upto (64 * packK f)).map fun e =>
        matElem (packCls f) (BitVec.ofNat 32768 x) false (x / 2 ^ 32768) (e / packK f) (e % packK f)))
  | .decode => decodeChunk bs
  | .zeroSup expand =>
    if expand then .ok (expandLines (x % 2 ^ 64) (x / 2 ^ 64) 64 0 0)
    else
      let ls := nonZeroLines x
      .ok (leBytes 8 ((ls.map fun l => 2 ^ l).foldl (· + ·) 0) ++ ls.flatMap fun l => leBytes 64 (elem x 512 l))

/-! ### Commands (R253, R254, R256, R261) -/

/-- The hx0 that the command would make active has bits [63:60] of word 1 set (R253). -/
def badShape (s : State) : Bool := bitsOf (amGet 0 s.ctx.arch.shadow (shapeKey 12 1)).toNat 60 4 ≠ 0

/-- A copy or transform command (R254): the shapes exchanged, s[sa] and s[sb] read, the number taken. -/
def copyCommand (g : Guard) (op : CopyOp) (sa sb : SCode) (s : State) : Out :=
  engineOp g 6 0 [sa, sb] s (fun k => if badShape s && !s.marked [5056] then illegal s 6 0x0E else k)
    (poisonFree s 6 (shapeMarks 3) (.next s)) fun s1 num =>
    let words := shapeWords s1.ctx.arch.shadow 3
    let s2 := s1.modArch fun a => swapShapes a 3
    .next (pushCmd s2 { newCmd s2 0 num (.copy op) with words := words, sa := s.readS sa, sb := s.readS sb })

/-- XCOPY (R256). -/
def execXcopy (g : Guard) (lenm1 : BitVec 12) (sa sb : SCode) (s : State) : Out :=
  copyCommand g (.copy (lenm1.toNat + 1)) sa sb s

/-- XPACK (R257). -/
def execXpack (g : Guard) (f : BitVec 3) (rm : Rm) (inf : Bool) (sa sb : SCode) (s : State) : Out :=
  copyCommand g (.pack f rm inf) sa sb s

/-- XUNPK (R257). -/
def execXunpk (g : Guard) (f : BitVec 3) (sa sb : SCode) (s : State) : Out := copyCommand g (.unpack f) sa sb s

/-- XDEC (R258). -/
def execXdec (g : Guard) (sa sb : SCode) (s : State) : Out := copyCommand g .decode sa sb s

/-- XZS (R259). -/
def execXzs (g : Guard) (exp : Bool) (sa sb : SCode) (s : State) : Out := copyCommand g (.zeroSup exp) sa sb s

/-- XCRC (R260). -/
def execXcrc (g : Guard) (lenm1 : BitVec 12) (sa sb : SCode) (s : State) : Out :=
  copyCommand g (.crc (lenm1.toNat + 1)) sa sb s

/-! ### Points -/

/-- The command's point stops it with a STATUS: the point writes nothing (R256, R66). -/
def copyStop (s : State) (n : Nat) (k : Cmd) (status : Nat) : State :=
  again (modCmd s n 0 k.num fun k => { k with status := status, ending := 1 }) n k

/-- One point read, its writes staged. -/
def copyVisit (s : State) (n : Nat) (k : Cmd) (op : CopyOp) : State :=
  let src := pointAddr k.words 0 k.sa k.point
  let dst := pointAddr k.words 1 k.sb k.point
  match copySource op n k src (shapeWord k.words 2 0) s with
  | .fault s1 fs => engPause s1 n k fs
  | .lost s1 => s1
  | .poison s1 line => copyStop (engPoison s1 n 6 0 k.num line k.asid k.bva) n k 5
  | .ok s1 bs =>
    match copyResult op bs with
    | .error e => copyStop s1 n k e
    | .ok out =>
      let parts := match op with | .decode => [(BitVec.ofNat 64 dst, out)] | _ => engParts dst out
      again (modCmd s1 n 0 k.num fun k => { k with
        point := k.point + 1, staged := parts,
        crc := match op with | .crc _ => crcBytes k.crc bs | _ => k.crc }) n k

/-- What follows the last point: the CRC, then, when every write is performed, the status word, then completion
(R254, R260, Table 5-1, Table 13-2). -/
def copyFinish (s : State) (n : Nat) (k : Cmd) (op : CopyOp) : State :=
  match k.ending with
  | 0 =>
    let out : List (Word × List Byte) := match op with
      | .crc _ => engParts (patternOf 64 ((shapeWord k.words 1 0 : Nat) + (k.sb.toNat : Nat)))
          (leBytes 4 (k.crc ^^^ 0xFFFFFFFF))
      | _ => []
    again (modCmd s n 0 k.num fun k => { k with staged := out, ending := 1 }) n k
  | 1 =>
    if spilled s n k || !cmdQuiet s n k then again s n k
    else
      let stat := shapeWord k.words 3 0
      let word := (if k.status = 1 then 0 else k.point * 2 ^ 32) + k.status
      again (modCmd s n 0 k.num fun k => { k with
        staged := if stat = 0 then [] else engParts stat (leBytes 8 word), ending := 2 }) n k
  | _ => if spilled s n k || !cmdQuiet s n k then again s n k else cmdDone s n 0 k.num

/-- COPY_POINT (R254): a staged write is made, or the next point is read, or the command ends. -/
def execCopyPoint (c num : Nat) (s : State) : Out :=
  match cmdOf s c 0 num with
  | none => .next s
  | some k =>
    if !k.accepted || (k.paused && c < 2 ^ 20) then .next s
    else match k.work, k.staged with
      | _, w :: ws => .next (engStep s c k w ws)
      | .copy op, [] =>
        if k.ending = 0 && k.point < pointTotal k.words then .next (copyVisit s c k op)
        else .next (copyFinish s c k op)
      | _, [] => .next s

end Sys2Proof.Machine
end

