-- ==== Sys2Proof/Machine/Nest.lean ====
section
/-! DEFINITION. The matrix nest: its checks, its commit, its points (R225 to R227). -/

namespace Sys2Proof.Machine

/-! ### The body and the checks of the commit (R225, R227) -/

/-- An entry that a nest's body admits: tiles 0 and 1 only, no latch, millrace or header group. -/
def nestOpOf (s : State) : MatOp → Option NestOp
  | .nop => some .nop
  | .mac zero o rows cols =>
    if o.ta = 0 && o.tb = 1 && !o.al && o.mr.isNone && o.v = 0 then some (.mac zero o (s.readM rows) (s.readM cols))
    else none
  | .cb t => if t = 1 then some .cb else none
  | .zb t => if t = 1 then some .zb else none
  | .gather _ _ => none
  | .clear _ _ => none

/-- The body from an entry to its mret: at most sixteen entries, every one admitted and legal. -/
def nestBody (s : State) (entry : Nat) : Option (List NestOp) :=
  match callBody s entry with
  | none => none
  | some (ops, n) =>
    let body := ops.map (nestOpOf s)
    if n ≤ 16 && body.all Option.isSome then some (body.filterMap id) else none

/-- First accumulator tiles of the body's multiply-accumulates, before the offset. -/
def nestAccs (body : List NestOp) : List Nat :=
  body.filterMap fun e => match e with | .mac _ o _ _ => some o.acc.toNat | _ => none

/-- Register r's address is a multiple of 64 at every point. -/
def shapeAligned (ws : List Word) (r : Nat) (x : Word) : Bool :=
  (shapeWord ws r 0 + x.toNat) % 64 == 0 &&
    (shapeCounts ws).zipIdx.all fun p => p.1 == 1 || shapeWord ws r (2 + p.2) % 64 == 0

/-- Least and greatest offset of register r ended the points. -/
def shapeSpan (ws : List Word) (r : Nat) : Int × Int :=
  let ds := (shapeCounts ws).zipIdx.map fun p => ((p.1 - 1 : Nat) : Int) * signedOf 64 (shapeWord ws r (2 + p.2))
  let b : Int := (shapeWord ws r 0 : Nat)
  (b + (ds.map fun d => min d 0).foldl (· + ·) 0, b + (ds.map fun d => max d 0).foldl (· + ·) 0)

/-- RED (Table 11-6). -/
def shapeRed (ws : List Word) : Nat := bitsOf (shapeWord ws 0 1) 60 4

/-- The checks of R227 ended every point. -/
def nestLegal (s : State) (ws : List Word) (body : List NestOp) (a b : Word) : Bool :=
  let sp := shapeSpan ws 2
  shapeAligned ws 0 a && shapeAligned ws 1 b && (shapeRed ws < 6 || shapeRed ws = 15)
    && shapeWord ws 2 0 / 2 ^ 12 == 0
    && (nestAccs body).all fun acc =>
      decide (0 ≤ (acc : Int) + sp.1) && decide ((acc : Int) + sp.2 + 16 ≤ (s.ctx.awinCount : Int))

/-- Offsets that one more dimension of count n and stride d reaches, each with its latest point; w points lie between
two steps of the dimension. -/
def nestSpread (m : AMap Nat) (n w : Nat) (d : Int) : AMap Nat :=
  (upto n).foldl (fun (acc : AMap Nat) (i : Nat) =>
    m.foldl (fun acc p =>
      let o := ((p.1 : Int) + (i : Int) * d).toNat
      let q := p.2 + i * w
      match amFind acc o with
      | some r => if r < q then amSet acc o q else acc
      | none => amSet acc o q) acc) []

/-- First tiles that an entry reaches ended all points, each with its latest point. -/
def nestReach (ws : List Word) (acc : Nat) : AMap Nat :=
  ((shapeCounts ws).zipIdx.foldl (fun (x : AMap Nat × Nat) p =>
    (nestSpread x.1 p.1 x.2 (signedOf 64 (shapeWord ws 2 (2 + p.2))), x.2 * p.1)) ([(acc + shapeWord ws 2 0, 0)], 1)).1

/-- Tiles that the nest writes, each with the point that writes it last (R226). -/
def nestTiles (ws : List Word) (body : List NestOp) : List (Nat × Nat) :=
  ((nestAccs body).flatMap fun acc => (nestReach ws acc).flatMap fun p => (upto 16).map fun q => (p.1 + q, p.2)).foldl
    (fun m p => match amFind m p.1 with
      | some r => if r < p.2 then amSet m p.1 p.2 else m
      | none => amSet m p.1 p.2) ([] : AMap Nat)

/-- Registers that a nest takes in at its commit, as poison numbers: shapes, codebook, bitmap, entries, parameters and the
masks of its entries (R65, R225). -/
def nestMarks (s : State) (entry : Nat) : List Nat :=
  shapeMarks 0 ++ [5069, 5070] ++ callMarks s.ctx.arch entry
    ++ match callBody s entry with | some p => p.1.flatMap MatOp.masks | none => []

/-- XNEST (R225 to R227). A check of what a poisoned register holds is left to its Machine Check (R65). -/
def execXnest (g : Guard) (entry : BitVec 7) (sa sb : SCode) (s : State) : Out :=
  let ws := shapeWords s.ctx.arch.shadow 0
  engineOp g 6 1 [sa, sb] s
    (fun k =>
      if s.marked (callMarks s.ctx.arch entry.toNat) then k
      else match nestBody s entry.toNat with
        | none => illegal s 6 0x0E
        | some body =>
          if s.marked ([sa, sb].map s.ctx.markS ++ shapeMarks 0) || nestLegal s ws body (s.readS sa) (s.readS sb) then k
          else illegal s 6 0x0E)
    (poisonFree s 6 (nestMarks s entry.toNat) (.next s))
    fun s1 num =>
      let body := (nestBody s entry.toNat).getD []
      let tiles := nestTiles ws body
      let s2 := s1.modArch fun a => swapShapes a 0
      let s3 := s2.setCtx { s2.ctx with
        accNest := tiles.foldl (fun m p => amMod 0 m p.1 (· + 1)) s2.ctx.accNest }
      .next (pushCmd s3 { newCmd s3 1 num (.nest body) with
        words := ws, sa := s.readS sa, sb := s.readS sb, codebook := s.ctx.arch.codebook,
        zbitmap := s.ctx.arch.zbitmap, tiles := tiles })

/-! ### Points -/

/-- Classes of the body's multiply-accumulates satisfy p. -/
def nestAny (body : List NestOp) (p : MmaOp → Bool) : Bool :=
  body.any fun e => match e with | .mac _ o _ _ => p o | _ => false

/-- Some multiply-accumulate, and all with a CB4 operand B. -/
def nestCb4 (body : List NestOp) : Bool := nestAny body (fun o => o.cb == .cb4) && !nestAny body fun o => o.cb != .cb4

/-- The tiles and header blocks of a point, padded to 4 KiB and 1 KiB each: A, its header, B, its header. -/
def nestFetch (s : State) (n : Nat) (k : Cmd) (body : List NestOp) : EngRead :=
  let a := pointAddr k.words 0 k.sa k.point
  let b := pointAddr k.words 1 k.sb k.point
  let pad := fun (len : Nat) (r : EngRead) (f : State → List Byte → EngRead) =>
    r.andThen fun s1 bs => f s1 (bs ++ List.replicate (len - bs.length) 0)
  let header := fun (on : Bool) (va : Nat) (s : State) => if on then engRead s n k va 1024 else .ok s []
  pad 4096 (engRead s n k a 4096) fun s1 xa =>
  pad 1024 (header (nestAny body fun o => o.ca.isSb) ((a + 4096) % 2 ^ 64) s1) fun s2 ha =>
  pad 4096
    (if nestCb4 body then (engRead s2 n k b 544).andThen fun s3 bs =>
        readMore n k (b + 544) ((onesIn (bs.drop 32) + 1) / 2) s3 bs
     else engRead s2 n k b 4096) fun s4 xb =>
  pad 1024 (header (nestAny body fun o => o.cb.isSb) ((b + 4096) % 2 ^ 64) s4) fun s5 hb => .ok s5 (xa ++ ha ++ xb ++ hb)

/-- Tiles, codebook and bitmap of a nest as its entries run. -/
structure NestSide where
  acc : AMap ATile
  codebook : BitVec 256
  zbitmap : BitVec 4096
  /-- Tiles written, and whether all their elements were written from +0. -/
  wrote : List (Nat × Bool)
  /-- Poisoned registers that the next entry finds, and whether an entry has added to a poisoned tile (R65, R66). -/
  poison : List Nat
  eats : Bool

/-- One body entry: off is the accumulator offset, red whether the reduction index is past 0 (R225). -/
def NestOp.run (c : Ctx) (x : Nat) (off : Int) (red : Bool) (y : NestSide) : NestOp → NestSide
  | .nop => y
  | .cb => { y with codebook := BitVec.ofNat 256 (x / 2 ^ (8 * 5120)) }
  | .zb => { y with zbitmap := BitVec.ofNat 4096 (x / 2 ^ (8 * 5152)) }
  | .mac zero o rows cols =>
    let base := ((o.acc.toNat : Int) + off).toNat
    let z := zero && !red
    let args : MatArgs := { a := BitVec.ofNat 32768 x, b := x / 2 ^ (8 * 5120) % 2 ^ 32768, hdrA := x / 2 ^ (8 * 4096),
                            hdrB := x / 2 ^ (8 * 9216), codebook := y.codebook, zbitmap := y.zbitmap }
    let ts := matTiles o z rows cols args fun q => (amFind y.acc (base + q)).getD (c.arch.acc.settled (base + q))
    let hit := ((upto 16).filter (matTouches rows cols)).map (base + ·)
    { y with acc := ts.zipIdx.foldl (fun m p => amSet m (base + p.2) p.1) y.acc, wrote := y.wrote ++ hit.map fun q => (q, z),
             eats := y.eats || (!z && hit.any fun q => decide (456 + q ∈ y.poison)),
             poison := if z then y.poison.filter fun r => !(hit.any fun q => r == 456 + q) else y.poison }

/-- The point's tiles in the context's accumulators: they stand in its registers and in its checkpoint, since no
rollback undoes them (R226); their zero flags end (R62), and poison follows them (R66). -/
def nestWrite (s : State) (n : Nat) (poisoned : Bool) (y : NestSide) : State :=
  let c := s.ctxOf n
  let put := fun (a : Arch) => { a with
    acc := y.acc.foldl (fun f p => f.poke p.1 p.2) a.acc, zeroOff := insertAll (y.wrote.map fun p => 896 + p.1) a.zeroOff,
    poison := if poisoned then insertAll (y.wrote.map fun p => 456 + p.1) a.poison
              else a.poison.filter fun r => !(y.wrote.any fun p => p.2 && r == 456 + p.1) }
  s.setCtxOf n { c with arch := put c.arch, ckpt := put c.ckpt }

/-- Tiles that the point wrote last are ready as far as this nest goes (R226). -/
def nestReady (s : State) (n : Nat) (k : Cmd) : State :=
  let c := s.ctxOf n
  let ended := k.tiles.filter fun p => p.2 ≤ k.point
  modCmd (s.setCtxOf n { c with accNest := ended.foldl (fun m p => amMod 0 m p.1 (· - 1)) c.accNest }) n 1 k.num
    fun k => { k with tiles := k.tiles.filter fun p => !(p.2 ≤ k.point), point := k.point + 1 }

/-- The entries of a point run on its fetched bytes. One that adds to a poisoned accumulator tile reads poisoned data of no
physical line: the ring entry's LINE is 0 (R66, R302; DESIGN CHOICE, log 126). -/
def nestRun (s : State) (n : Nat) (k : Cmd) (body : List NestOp) (bs : List Byte) (poisoned : Bool) : State :=
  let ix := pointIndex (shapeCounts k.words) k.point
  let red := shapeRed k.words
  let off := pointOffset k.words 2 ix
  let x := leNat bs
  let y := body.foldl (NestOp.run (s.ctxOf n) x off (red ≠ 15 && ix.getD red 0 ≠ 0))
    { acc := [], codebook := k.codebook, zbitmap := k.zbitmap, wrote := [], poison := (s.ctxOf n).arch.poison, eats := false }
  let s0 := if y.eats then engPoison s n 6 1 k.num 0 k.asid k.bva else s
  let s1 := nestWrite s0 n (poisoned || y.eats) y
  nestReady (modCmd s1 n 1 k.num fun k =>
    { k with codebook := y.codebook, zbitmap := y.zbitmap, poisoned := poisoned || y.eats }) n k

/-- An earlier nest of the context has still to write a tile that the nest writes (R226). -/
def nestBehind (s : State) (n : Nat) (k : Cmd) : Bool :=
  ((s.ctxOf n).cmds.takeWhile fun j => !(j.eng == 1 && j.num == k.num)).any fun j =>
    j.eng == 1 && j.tiles.any fun p => k.tiles.any fun q => p.1 == q.1

/-- NEST_POINT (R225 to R227): one point fetched and its entries run in order, once the earlier nests of the context have
written the tiles that it shares with them, or the nest completes. -/
def execNestPoint (c num : Nat) (s : State) : Out :=
  match cmdOf s c 1 num with
  | none => .next s
  | some k =>
    if !k.accepted || (k.paused && c < 2 ^ 20) then .next s
    else match k.work with
      | .nest body =>
        if pointTotal k.words ≤ k.point then .next (cmdDone s c 1 num)
        else if nestBehind s c k then .next (again s c k)
        else match nestFetch s c k body with
          | .fault s1 fs => .next (engPause s1 c k fs)
          | .lost s1 => .next s1
          | .poison s1 line =>
            let s2 := engPoison s1 c 6 1 num line k.asid k.bva
            .next (again (nestRun s2 c k body (List.replicate 10240 0) true) c k)
          | .ok s1 bs => .next (again (nestRun s1 c k body bs k.poisoned) c k)
      | _ => .next s

end Sys2Proof.Machine
end

