-- ==== Sys2Proof/Machine/Collective.lean ====
section
/-! DEFINITION. Collectives, plane-mode landings and precision counters, cancellation, the precision wait (R262 to
R267). -/

namespace Sys2Proof.Machine

/-! ### Descriptors (Table 13-5) -/

/-- Word at byte offset k. -/
def descWord (d : List Byte) (k : Nat) : Nat := leNat ((d.drop k).take 8)
/-- TAG. -/
def descTag (d : List Byte) : Nat := bitsOf (descWord d 0) 32 32
/-- LEVEL. -/
def descLevel (d : List Byte) : Nat := bitsOf (descWord d 0) 29 3
/-- PLANE. -/
def descPlane (d : List Byte) : Bool := bitsOf (descWord d 0) 28 1 == 1
/-- FMT. -/
def descFmt (d : List Byte) : Nat := bitsOf (descWord d 0) 24 4
/-- PEER. -/
def descPeer (d : List Byte) : Nat := bitsOf (descWord d 0) 0 16
/-- NT. -/
def descNt (d : List Byte) : Nat := bitsOf (descWord d 0x18) 0 32
/-- Magnitude bits of the plane-mode format: 7 SB3, 8 SB5, 9 SB8. -/
def descMag (d : List Byte) : Nat := sbMag (BitVec.ofNat 2 (descFmt d - 7))
/-- Bytes of a source tile. -/
def srcBytes (d : List Byte) : Nat := if !descPlane d && descFmt d = 1 then 2048 else 4096
/-- Bytes of a destination tile. -/
def dstBytes (d : List Byte) : Nat := if descPlane d then 64 * sbBytes (descMag d) else srcBytes d

/-- COUNT of the level that a descriptor names; zero past the hierarchy. -/
def descSize (c : Ctx) (d : List Byte) : Nat := (c.levels.getD (descLevel d) (0, 0)).1

/-- The limits that Table 13-5 states (REASON 0x0E of Table 8-16; DEDUCED, log 23). -/
def descLegal (c : Ctx) (kind : Nat) (d : List Byte) : Bool :=
  descLevel d < c.levels.length && descPeer d < descSize c d && (kind < 4 || descPeer d == 0) && 1 ≤ descNt d
    && bitsOf (descWord d 0) 16 5 == 0 && bitsOf (descWord d 0x18) 32 32 == 0
    && descWord d 0x28 == 0 && descWord d 0x30 == 0 && descWord d 0x38 == 0
    && (if descPlane d then 7 ≤ descFmt d && descFmt d ≤ 9 else descFmt d < 2 && descWord d 0x20 == 0)

/-- Destination tiles of a member (Table 13-6). -/
def destCount (kind rank size : Nat) (d : List Byte) : Nat :=
  match kind with
  | 1 => if rank = descPeer d then size * descNt d else 0
  | 2 => 0
  | _ => descNt d

/-! ### Membership (R262) -/

/-- Coordinates of a context's task, level 0 first. -/
def ctxCoords (c : Ctx) : List Nat := c.levels.map Prod.snd

/-- The lists agree at every position but k. -/
def agreeBut (k : Nat) (a b : List Nat) : Bool :=
  a.length == b.length && (a.zip b).zipIdx.all fun p => p.2 == k || p.1.1 == p.1.2

/-- Kinds xsend and xrecv form one collective. -/
def kindClass (kind : Nat) : Nat := if kind = 3 then 2 else kind

/-- Sender and receiver of a pair. -/
def pairOf (kind rank peer : Nat) : Nat × Nat := if kind = 2 then (rank, peer) else if kind = 3 then (peer, rank) else (0, 0)

/-- Rank of a task in a collective: its INDEX at the collective's LEVEL. -/
def rankIn (c : Ctx) (level : Nat) : Nat := (c.levels.getD level (0, 0)).2

/-- Every member has issued. -/
def Collective.full (k : Collective) : Bool := k.members.length + k.away == k.size

/-- The command and the collective have one launch, TAG and kind. -/
def Collective.sameUse (k : Collective) (c : Ctx) (kind : Nat) (d : List Byte) : Bool :=
  k.launch == c.launch && k.tag == descTag d && k.kind == kindClass kind

/-- The collective waits for the command of a context: the task is of its group, whatever LEVEL the command names, and the
collective has no command of that member yet. -/
def Collective.admits (k : Collective) (c : Ctx) (kind : Nat) (d : List Byte) : Bool :=
  let r := rankIn c k.level
  let mate := if descLevel d = k.level then k.pair == pairOf kind r (descPeer d)
    else r == (if kind = 2 then k.pair.1 else k.pair.2)
  !k.full && k.sameUse c kind d && agreeBut k.level k.coords (ctxCoords c) && (k.kind ≠ 2 || mate)
    && !(k.members.any fun m => m.rank == r && m.kind == kind)

/-- Members of the collective that belong to the group which the command names by its own LEVEL. -/
def Collective.mates (k : Collective) (c : Ctx) (kind : Nat) (d : List Byte) : Nat :=
  if !k.sameUse c kind d then 0
  else (k.members.filter fun m =>
    let at_ := k.coords.set k.level m.rank
    if k.kind = 2 then at_ == (ctxCoords c).set (descLevel d) (descPeer d) && m.kind + kind == 5
    else agreeBut (descLevel d) at_ (ctxCoords c)).length

/-- The collective that a command starts. away: members of its group whose commands have joined another. -/
def newCollective (c : Ctx) (kind : Nat) (d : List Byte) (away : Nat) : Collective :=
  { launch := c.launch, tag := descTag d, kind := kindClass kind, level := descLevel d, coords := ctxCoords c,
    size := if kindClass kind = 2 then 2 else descSize c d, pair := pairOf kind (rankIn c (descLevel d)) (descPeer d),
    members := [], away := away, differs := decide (0 < away) }

/-- Number of the collective that a command of a context joins: one that waits for it, of its own LEVEL if there is one, or
a new one. -/
def joinNumber (s : State) (c : Ctx) (kind : Nat) (d : List Byte) : Nat :=
  match (s.colls.find? fun p => p.2.level == descLevel d && p.2.admits c kind d).or
      (s.colls.find? fun p => p.2.admits c kind d) with
  | some p => p.1
  | none => s.nextColl

/-- Fields that every member must give alike: LEVEL, PLANE, FMT, RM, INF, NT and, in a group, PEER. -/
def Collective.alike (k : Collective) : Bool :=
  let f := fun (m : CollMember) =>
    (bitsOf (descWord m.desc 0) 21 11, descNt m.desc, if k.kind = 2 then 0 else descPeer m.desc)
  !k.differs &&
    match k.members with
    | [] => true
    | m :: ms => ms.all fun x => f x == f m

/-- The event that brings a destination tile on. -/
def tileEvent (coll : Nat) (m : CollMember) (t : Nat) : Instr :=
  if descPlane m.desc then .planeLanding coll m.rank t else .collectiveDelivery coll m.rank t

/-- Destination tiles begin once every member has issued (DESIGN CHOICE, log 24). -/
def startCollective (s : State) (coll : Nat) (k : Collective) : State :=
  if k.full then
    { s with work := s.work ++ k.members.flatMap fun m =>
        (upto m.tiles).map (tileEvent coll m) }
  else s

/-- Another collective to which the command also belongs by its own LEVEL or by the collective's: a member's LEVEL differs
there too (DESIGN CHOICE, log 122). fresh: the command starts its own. -/
def Collective.parts (k : Collective) (c : Ctx) (kind : Nat) (d : List Byte) (fresh : Bool) : Collective :=
  if k.admits c kind d then { k with away := k.away + 1, differs := true }
  else if fresh && 0 < k.mates c kind d then { k with differs := true }
  else k

/-- The command m of a context joins collective coll; the others that its LEVEL concerns learn of it (R262). -/
def joinCollective (s : State) (coll : Nat) (c : Ctx) (m : CollMember) : State :=
  let others := amDel s.colls coll
  let fresh := (amFind s.colls coll).isNone
  let away := (others.map fun p => p.2.mates c m.kind m.desc).foldl (· + ·) 0
  let k := (amFind s.colls coll).getD (newCollective c m.kind m.desc away)
  let torn := k.level ≠ descLevel m.desc || others.any fun p => p.2.admits c m.kind m.desc
  let k1 := { k with members := k.members ++ [{ m with rank := rankIn c k.level }], differs := k.differs || torn }
  let parted := fun (p : Nat × Collective) => if p.1 = coll then p.2 else p.2.parts c m.kind m.desc fresh
  let s1 := { s with colls := (amSet s.colls coll k1).map fun p => (p.1, parted p),
                     nextColl := Nat.max s.nextColl (coll + 1) }
  others.foldl (fun s p => if p.2.full then s else startCollective s p.1 (parted p)) (startCollective s1 coll k1)

/-! ### Commands -/

/-- Cells of zeroed counters, one for each destination tile of a plane-mode command (R264). -/
def counterCells (pages : List (Nat × Phys)) (c : Ctx) (kind : Nat) (d : List Byte) : List (Nat × Byte) :=
  if descPlane d then
    physCells pages (descWord d 0x20)
      (List.replicate (8 * destCount kind (rankIn c (descLevel d)) (descSize c d) d) 0)
  else []

/-- The descriptor as the check reads it, recorded as a load of the span; the command acts on the same bytes (R139). -/
def readDesc (s : State) (sa : SCode) (k : State → List Byte → Out) : Out :=
  let va := (s.readS sa).toNat
  accessing s 6 .engine false false 64 [{ va := va, n := 64, lane := 0 }] fun s1 pages =>
    match (linesOf pages (addrsFrom va 64)).find? fun l => decide (l ∈ s1.poison) with
    | some l => machineCheck s1 6 l
    | none =>
      let d := viewBytes s1 s1.cur pages (addrsFrom va 64)
      k (noteBytes (noteRead s1 [(homePa (physOf pages va).pa, 64)]) 6 d) d

/-- The counters' pages, translated for a write. -/
def counterPages (s : State) (c : Ctx) (kind : Nat) (d : List Byte) (k : State → List (Nat × Phys) → Out) : Out :=
  let n := 8 * destCount kind (rankIn c (descLevel d)) (descSize c d) d
  if !descPlane d || n = 0 then k s []
  else match s.stage with
    | .commit => k s (pagesAt s 6)
    | .issue =>
      match translatePages s (ctxXlat s s.cur) .engine true false (rangePages (descWord d 0x20) n) [] [] with
      | (s1, pages, []) => k (notePages s1 6 pages) pages
      | (s1, _, fs) => pageFaultNow s1 6 .engine fs

/-- A collective command (R262): descriptor and counters checked, then at the commit the counters zeroed, the number
taken, the member joined. -/
def collCommand (g : Guard) (kind : Nat) (sa : SCode) (s : State) : Out :=
  engineOp g 6 2 [sa] s (ofSound s sa ((s.readS sa).toNat % 64 == 0) (illegal s 6 0x0E))
    (readDesc s sa fun s1 d =>
      if !descLegal s.ctx kind d then illegal s1 6 0x0E else counterPages s1 s.ctx kind d fun s2 _ => .next s2)
    fun s1 num => let d := bytesAt s1 6
      counterPages s1 s1.ctx kind d fun s3 cps =>
      let c := s3.ctx
      let coll := joinNumber s3 c kind d
      let m : CollMember := { rank := 0, ctx := s3.cur, num := num, kind := kind, desc := d,
                              tiles := destCount kind (rankIn c (descLevel d)) (descSize c d) d, prec := [], data := [],
                              done := [], cancelled := [], told := [], complete := false }
      let s4 := performStores s3 s3.cur 2 num (counterCells cps c kind d)
      .next (joinCollective (pushCmd s4 (newCmd s4 2 num (.collective coll))) coll c m)

/-- XBCAST (R262). -/
def execXbcast (g : Guard) (sa : SCode) (s : State) : Out := collCommand g 0 sa s
/-- XGATH (R262). -/
def execXgath (g : Guard) (sa : SCode) (s : State) : Out := collCommand g 1 sa s
/-- XSEND (R262). -/
def execXsend (g : Guard) (sa : SCode) (s : State) : Out := collCommand g 2 sa s
/-- XRECV (R262). -/
def execXrecv (g : Guard) (sa : SCode) (s : State) : Out := collCommand g 3 sa s
/-- XRSCAT (R262). -/
def execXrscat (g : Guard) (sa : SCode) (s : State) : Out := collCommand g 4 sa s
/-- XALLRED (R262). -/
def execXallred (g : Guard) (sa : SCode) (s : State) : Out := collCommand g 5 sa s

/-! ### Tiles (R263, R264) -/

/-- Member of a rank; of a pair, the sender or the receiver. -/
def Collective.member (k : Collective) (kind rank : Nat) : Option CollMember :=
  k.members.find? fun m => m.rank == rank && (k.kind ≠ 2 || m.kind == kind)

/-- Source tiles of destination tile t of a member, in rank order: member and its source tile (Table 13-6). -/
def Collective.sources (k : Collective) (m : CollMember) (t : Nat) : List (CollMember × Nat) :=
  let nt := descNt m.desc
  let one := fun (o : Option CollMember) (i : Nat) => match o with | some x => [(x, i)] | none => []
  match k.kind with
  | 0 => one (k.member 0 (descPeer m.desc)) t
  | 1 => one (k.member 1 (t / nt)) (t % nt)
  | 2 => one (k.member 2 k.pair.1) t
  | 4 => (upto k.size).flatMap fun r => one (k.member 4 r) (m.rank * nt + t)
  | _ => (upto k.size).flatMap fun r => one (k.member 5 r) t

/-- A member's record changed. -/
def modMember (s : State) (coll rank kind : Nat) (f : CollMember → CollMember) : State :=
  match amFind s.colls coll with
  | none => s
  | some k => { s with colls := amSet s.colls coll { k with
      members := k.members.map fun m => if m.rank == rank && m.kind == kind then f m else m } }

/-- Destination tile t of member m has ended as far as its senders know. -/
def tileOver (m : CollMember) (t : Nat) : Bool := decide (t ∈ m.done) && (!decide (t ∈ m.cancelled) || decide (t ∈ m.told))

/-- Every destination tile of the member has ended. -/
def allOver (m : CollMember) (p : CollMember → Nat → Bool) : Bool := (upto m.tiles).all (p m)

/-- Every destination tile to which the member sends has ended as far as it knows; while a member has not issued, its tiles
have not (R262, R266). -/
def sendsOver (k : Collective) (m : CollMember) : Bool :=
  k.full &&
    match k.kind with
    | 1 => k.members.all fun x =>
        (upto x.tiles).all fun t => t / descNt x.desc ≠ m.rank || tileOver x t
    | _ => k.members.all fun x => allOver x tileOver

/-- The member sends: the root of a broadcast, the sender of a pair, every member of the other kinds (Table 13-6). -/
def sends (k : Collective) (m : CollMember) : Bool :=
  if k.kind = 0 then m.rank == descPeer m.desc else m.kind ≠ 3

/-- The member's own tiles have ended and all it sends has arrived or is cancelled (Table 5-1). -/
def memberOver (k : Collective) (m : CollMember) : Bool :=
  allOver m (fun x t => decide (t ∈ x.done)) && (!sends k m || sendsOver k m)

/-- Members whose commands are over complete them, once their requests have been performed at their destinations;
otherwise an event of the member tries again. A collective whose members have all completed is forgotten. -/
def settleCollective (s : State) (coll : Nat) : State :=
  match amFind s.colls coll with
  | none => s
  | some k =>
    let quiet := fun (s : State) (m : CollMember) => match cmdOf s m.ctx 2 m.num with | some c => cmdQuiet s m.ctx c | none => true
    let ended := k.members.filter fun m => !m.complete && memberOver k m && quiet s m
    let s1 := ended.foldl (fun s m =>
      cmdDone (modMember s coll m.rank m.kind fun x => { x with complete := true }) m.ctx 2 m.num) s
    let late := k.members.filter fun m => !m.complete && memberOver k m && !quiet s m
    let s2 := late.foldl (fun s m =>
      let e : Instr := .collectiveDelivery coll m.rank (2 ^ 32)
      if s.work.any (· == e) then s else { s with work := s.work ++ [e] }) s1
    match amFind s2.colls coll with
    | some k1 => if k1.full && k1.members.all (·.complete) then { s2 with colls := amDel s2.colls coll } else s2
    | none => s2

/-- Bits of the planes: plane 0 holds E, MU and signs, plane p magnitude bit m − p (R264). -/
def planeBits (m p x : Nat) : Nat :=
  packElems (sbBits m) (fun b =>
    let k := elem x (sbBits m) b
    if p = 0 then
      k % 2 ^ 16 + 2 ^ 16 * packElems (m + 1) (fun j => bitsOf k (16 + (m + 1) * j + m) 1 * 2 ^ m) 16
    else 2 ^ 16 * packElems (m + 1) (fun j => bitsOf k (16 + (m + 1) * j + (m - p)) 1 * 2 ^ (m - p)) 16) 64

/-- A counter word (Table 13-7). -/
def counterWord (status prec : Nat) (canc done : Bool) : Nat :=
  status * 2 ^ 12 + canc.toNat * 2 ^ 9 + done.toNat * 2 ^ 8 + prec

/-- What the reads of a destination tile's sources come to. -/
inductive CollRead where
  | ok (s : State) (tiles : List (List Byte))
  | wait (s : State)
  | lost (s : State)
  | poison (s : State)

/-- The source tiles read, each by its own member's engine. A page that fails is tried again, and its first failure
forwards an engine record (R309; DESIGN CHOICE, log 25). -/
def collRead (s : State) : List (CollMember × Nat) → CollRead
  | [] => .ok s []
  | (m, i) :: rest =>
    match cmdOf s m.ctx 2 m.num with
    | none => .ok s []
    | some c =>
      if anyPending s c.after then .wait s
      else match engRead s m.ctx c ((descWord m.desc 8 + srcBytes m.desc * i) % 2 ^ 64) (srcBytes m.desc) with
      | .fault s1 fs => .wait (if c.paused then s1 else engPause s1 m.ctx c fs)
      | .lost s1 => .lost s1
      | .poison s1 line => .poison (engPoison s1 m.ctx 6 2 m.num line c.asid c.bva)
      | .ok s1 bs =>
        match collRead s1 rest with
        | .ok s2 ts => .ok s2 (bs :: ts)
        | r => r

/-- Element-wise trees over the members' tiles (R42, R263), as the bits of a tile of 1,024 elements; a NaN is canonical, also
the sole leaf of a group of one (R28). -/
def collSum (f : Fmt) (ts : List (List Byte)) : Nat :=
  let xs := ts.map leNat
  let w := 1 + f.ebits + f.mbits
  packElems w (fun e =>
    let y := (tree f.sum (xs.map fun x => some (elem x w e))).getD 0
    if (f.value y).isNan then f.qnan else y) 1024

/-- Data of a destination tile: the bytes sent, or the sum, encoded in plane mode (R263). -/
def collData (d : List Byte) (sum : Bool) (ts : List (List Byte)) : List Byte :=
  let x := if sum then collSum (if !descPlane d && descFmt d = 1 then .bf16 else .fp32) ts
    else match ts with | t :: _ => leNat t | [] => 0
  if descPlane d then
    (sbBlocks (descMag d) (Rm.ofCode (bitsOf (descWord d 0) 22 2)) (bitsOf (descWord d 0) 21 1 == 1) x 64).flatMap
      (leBytes (sbBytes (descMag d)))
  else leBytes (srcBytes d) x

/-- Several ranges written by a member's engine at one point of the module order, also where they lie in the fabric window
(R264). -/
def collWrite (s : State) (m : CollMember) (c : Cmd) (ws : List (Nat × (List Byte → List Byte) × Nat)) : EngWrite :=
  let pages := ws.flatMap fun w => rangePages w.1 w.2.2
  match translatePages s (cmdXlat s m.ctx c) .engine true false (distinctPages pages []) [] [] with
  | (s1, _, _ :: _) => .fault s1
  | (s1, pages, []) =>
    let far := fun (x : Nat × Byte) => rangeOf x.1 == .fabric
    let at_ := ws.flatMap fun w => physCells pages w.1 (List.replicate w.2.2 0)
    if at_.any fun x => far x && !reachable s1 (fabModule x.1) then .lost s1
    else
      let s2 := (at_.filter far).foldl (fun s x => drainLane s (fabModule x.1) (fabLane x.1)) s1
      let cells := ws.flatMap fun w =>
        physCells pages w.1 (w.2.1 (engBytes s2 m.ctx ((addrsFrom w.1 w.2.2).map (physOf pages))))
      .ok (fabStoreNow (performStores s2 m.ctx c.eng c.num (cells.filter fun x => !far x)) m.ctx (cells.filter far))

/-- Address of destination tile t and of its counter. -/
def destAddr (m : CollMember) (t : Nat) : Nat := (descWord m.desc 0x10 + dstBytes m.desc * t) % 2 ^ 64
/-- Address of the counter of destination tile t. -/
def counterAddr (m : CollMember) (t : Nat) : Nat := (descWord m.desc 0x20 + 8 * t) % 2 ^ 64

/-- Bytes of data that the manual calls undefined. -/
def openBytes (s : State) (n item : Nat) : List Byte := leBytes n (Config.undefinedBits s.tick 1 (3000 + item))

/-- Destination tile t of a member has ended. -/
def tileDone (s : State) (coll : Nat) (m : CollMember) (t : Nat) : State :=
  settleCollective (modMember s coll m.rank m.kind fun x => { x with done := insertOnce t x.done }) coll

/-- A tile ends with a STATUS: its counter takes it, and unless its data stands the data is undefined (R66, R105,
R262). What no link reaches is not written. -/
def endTile (s : State) (coll : Nat) (m : CollMember) (c : Cmd) (t status : Nat) : State :=
  let n := dstBytes m.desc
  let data : Nat × (List Byte → List Byte) × Nat := (destAddr m t, (fun _ => openBytes s n t), n)
  let ctr : Nat × (List Byte → List Byte) × Nat :=
    (counterAddr m t, (fun _ => leBytes 8 (counterWord status (amGet 0 m.prec t) false true)), 8)
  let counters := if descPlane m.desc then [ctr] else []
  let try_ := fun (ws : List (Nat × (List Byte → List Byte) × Nat)) (lost : State → State) =>
    match collWrite s m c ws with
    | .ok s1 => tileDone s1 coll m t
    | .fault s1 => { s1 with work := s1.work ++ [tileEvent coll m t] }
    | .lost s1 => lost s1
  try_ (data :: counters) fun _ => try_ counters fun s1 => tileDone s1 coll m t

/-- The next plane of a tile with encoded blocks x lands at one point (R264). -/
def landPlane (s : State) (coll : Nat) (m : CollMember) (c : Cmd) (t : Nat) (bs : List Byte) : State :=
  let mag := descMag m.desc
  let p := amGet 0 m.prec t
  let n := dstBytes m.desc
  let bits := planeBits mag p (leNat bs)
  let last := decide (mag ≤ p)
  let put : Nat × (List Byte → List Byte) × Nat :=
    (destAddr m t, (fun old => leBytes n (if p = 0 then bits else leNat old ||| bits)), n)
  let ctr : Nat × (List Byte → List Byte) × Nat :=
    (counterAddr m t, (fun _ => leBytes 8 (counterWord (if last then 1 else 0) (p + 1) false last)), 8)
  match collWrite s m c [put, ctr] with
  | .lost s1 => endTile s1 coll m c t 4
  | .fault s1 => { s1 with work := s1.work ++ [tileEvent coll m t] }
  | .ok s1 =>
    let s2 := modMember s1 coll m.rank m.kind fun x =>
      { x with prec := amSet x.prec t (p + 1), data := if last then amDel x.data t else amSet x.data t bs,
               done := if last then insertOnce t x.done else x.done }
    if last then settleCollective s2 coll else { s2 with work := s2.work ++ [tileEvent coll m t] }

/-- A whole tile in full mode. -/
def landTile (s : State) (coll : Nat) (m : CollMember) (c : Cmd) (t : Nat) (bs : List Byte) : State :=
  match collWrite s m c [(destAddr m t, (fun _ => bs), bs.length)] with
  | .lost s1 => endTile s1 coll m c t 4
  | .fault s1 => { s1 with work := s1.work ++ [tileEvent coll m t] }
  | .ok s1 => settleCollective (modMember s1 coll m.rank m.kind fun x => { x with done := insertOnce t x.done }) coll

/-- The event of a destination tile: its end on a mismatch or on a source that is lost or poisoned, or its next
landing. -/
def tileStep (coll rank t : Nat) (s : State) : Out :=
  match amFind s.colls coll with
  | none => .next s
  | some k =>
    match k.members.find? fun m => m.rank == rank && m.kind ≠ 2 with
    | none => .next (settleCollective s coll)
    | some m =>
      match cmdOf s m.ctx 2 m.num with
      | none => .next (settleCollective s coll)
      | some c =>
        if !k.full || t ∈ m.done || m.tiles ≤ t then .next (settleCollective s coll)
        else if anyPending s c.after then .next { s with work := s.work ++ [tileEvent coll m t] }
        else if !k.alike then .next (endTile s coll m c t 3)
        else match amFind m.data t with
          | some bs => .next (landPlane s coll m c t bs)
          | none =>
            match collRead s (k.sources m t) with
            | .wait s1 => .next { s1 with work := s1.work ++ [tileEvent coll m t] }
            | .lost s1 => .next (endTile s1 coll m c t 4)
            | .poison s1 => .next (endTile s1 coll m c t 5)
            | .ok s1 ts =>
              let bs := collData m.desc (4 ≤ k.kind) ts
              .next (if descPlane m.desc then landPlane s1 coll m c t bs else landTile s1 coll m c t bs)

/-- PLANE_LANDING (R264). -/
def execPlaneLanding (coll rank tile : Nat) (s : State) : Out := tileStep coll rank tile s

/-- COLLECTIVE_DELIVERY (R262). -/
def execCollectiveDelivery (coll rank tile : Nat) (s : State) : Out := tileStep coll rank tile s

/-! ### Cancellation (R266) -/

/-- The member and collective that a cancellation names: this context's command with the TAG, in plane mode, whose
tile has not ended. -/
def cancelTarget (s : State) (d : List Byte) (t : Nat) : Option (Nat × CollMember) :=
  if !descPlane d || descNt d ≤ t then none
  else
    let hit := fun (p : Nat × Collective) => p.2.members.find? fun m =>
      m.ctx == s.cur && !m.complete && descTag m.desc == descTag d && descPlane m.desc
        && decide (t < m.tiles) && !decide (t ∈ m.done)
    match s.colls.find? fun p => (hit p).isSome with
    | some p => (hit p).map fun m => (p.1, m)
    | none => none

/-- The tile cancelled: its counter keeps PREC and takes CANC, DONE and STATUS 2. -/
def cancelTile (s : State) (coll : Nat) (m : CollMember) (t : Nat) (pages : List (Nat × Phys)) : State :=
  let cells := physCells pages (counterAddr m t) (leBytes 8 (counterWord 2 (amGet 0 m.prec t) true true))
  let s1 := performStores s m.ctx 2 m.num cells
  let s2 := modMember s1 coll m.rank m.kind fun x =>
    { x with done := insertOnce t x.done, cancelled := insertOnce t x.cancelled, data := amDel x.data t }
  settleCollective { s2 with work := s2.work ++ [.cancelPropagation coll m.rank t] } coll

/-- The counter's page, translated for a write. -/
def cancelPages (s : State) (m : CollMember) (t : Nat) (k : State → List (Nat × Phys) → Out) : Out :=
  match s.stage with
  | .commit => k s (pagesAt s 6)
  | .issue =>
    match translatePages s (ctxXlat s s.cur) .engine true false (rangePages (counterAddr m t) 8) [] [] with
    | (s1, pages, []) => k (notePages s1 6 pages) pages
    | (s1, _, fs) => pageFaultNow s1 6 .engine fs

/-- XCANCEL (R266): its own number completes at the commit. -/
def execXcancel (g : Guard) (sa sb : SCode) (s : State) : Out :=
  let t := (s.readS sb).toNat
  engineOp g 6 2 [sa, sb] s (ofSound s sa ((s.readS sa).toNat % 64 == 0) (illegal s 6 0x0E))
    (readDesc s sa fun s2 d =>
      match cancelTarget s2 d t with
      | none => .next s2
      | some p => cancelPages s2 p.2 t fun s3 _ => .next s3)
    fun s2 num =>
      let d := bytesAt s2 6
      let s3 := match cancelTarget s2 d t with
        | none => s2
        | some p => match cancelPages s2 p.2 t fun s cps => .next (cancelTile s p.1 p.2 t cps) with
          | .next s3 => s3
          | _ => s2
      .next (timelineComplete s3 s3.ctx.slot 2 num)

/-- CANCEL_PROPAGATION (R266): the senders learn of a cancelled tile. -/
def execCancelPropagation (coll rank tile : Nat) (s : State) : Out :=
  match amFind s.colls coll with
  | none => .next s
  | some k =>
    .next (settleCollective { s with colls := amSet s.colls coll { k with
      members := k.members.map fun m =>
        if m.rank == rank && tile ∈ m.cancelled then { m with told := insertOnce tile m.told } else m } } coll)

/-! ### The precision wait (R267) -/

/-- PWAIT (R267): blocks until PREC reaches s[sb][3:0] or DONE is set. R267 gives its read of the counter no access class:
it is checked as a scalar load of 8 bytes, without an alignment, also of a device page, and reads memory (DESIGN CHOICE,
log 95). -/
def execPwait (g : Guard) (sa sb : SCode) (s : State) : Out :=
  match s.stage with
  | .commit => .next s
  | .issue =>
    guarded g s (readingS s 7 [sa, sb]
      (let va := (s.readS sa).toNat
       accessing s 7 .scalarLoad false false 1 [{ va := va, n := 8, lane := 0 }] fun s1 pages =>
         match (linesOf pages (addrsFrom va 8)).find? fun l => decide (l ∈ s1.poison) with
         | some l => machineCheck s1 7 l
         | none =>
           let w := leNat (viewBytes s1 s1.cur pages (addrsFrom va 8))
           if bitsOf (s.readS sb).toNat 0 4 ≤ bitsOf w 0 8 || bitsOf w 8 1 = 1 then
             .next (noteRead s1 [(homePa (physOf pages va).pa, 8)])
           else blockNow s1))

end Sys2Proof.Machine
end

