-- ==== Sys2Proof/Machine/Sync.lean ====
section
/-! DEFINITION. Timelines, fences, barriers and token queues from the Y slot (R82, R88 to R90, R97 to R102, R268, R271,
R272). -/

namespace Sys2Proof.Machine

/-! ### Timelines -/

/-- A reserved ENG or SLOT code, or a reserved bit set (R88). -/
def handleIllegal (h : Word) : Bool :=
  bitsOf h.toNat 44 20 ≠ 0 || bitsOf h.toNat 13 19 ≠ 0 || 5 < hEng h || 6144 ≤ hSlot h

/-- The handle names an engine context of the context in issue. -/
def handleOwn (s : State) (h : Word) : Bool := !handleEnded s h && decide (hSlot h = s.ctx.slot)

/-- Requests of own commands numbered n or below of an engine context that no link delivers (R105). -/
def lostWork (s : State) (eng n : Nat) : Option (Nat × Nat) :=
  lostOut s (pendingOut s s.cur fun o => o.eng == eng && decide (o.num ≤ n))

/-- TWAIT (R88, R268). -/
def execTwait (g : Guard) (sa sb : SCode) (s : State) : Out :=
  match s.stage with
  | .commit => .next s
  | .issue =>
    guarded g s (readingS s 7 [sa]
      (let h := s.readS sa
       let n := (s.readS sb).toNat
       if handleIllegal h then illegal s 7 0x0E
       else readingS s 7 [sb] (if handleOwn s h && hEng h ≠ 4 && decide ((s.timeline (hSlot h) (hEng h)).issued < n) then
         trapNow s 7 0x1E 0
       else if waitMet s h n then .next s
       else if handleOwn s h then
         match lostWork s (hEng h) n with
         | some d => .next (takeTrap s (fabricTrap s 7 1 d.1 d.2))
         | none => blockNow s
       else blockNow s)))

/-- TSIG (R89): at its commit. -/
def execTsig (g : Guard) (sb : SCode) (s : State) : Out :=
  guarded g s (readingS s 7 [sb]
    (match s.stage with
     | .issue => .next s
     | .commit =>
       let t := s.timeline s.ctx.slot 4
       .next (noteProgress (s.setTimeline s.ctx.slot 4 { t with count := Nat.max t.count (s.readS sb).toNat }))))

/-- TREAD (R90): the counter at its issue; all ones for an ended task. -/
def execTread (g : Guard) (sd sa : SCode) (land : BitVec 6) (s : State) : Out :=
  match s.stage with
  | .commit => .next s
  | .issue =>
    if !s.guardOn g then holdLanding s land
    else readingS s 7 [sa]
      (let h := s.readS sa
       if handleIllegal h then illegal s 7 0x0E
       else
         let v := if handleEnded s h then 2 ^ 64 - 1 else (s.timeline (hSlot h) (hEng h)).count
         finishS (takeLanding s land false true) sd (BitVec.ofNat 64 v) land.toNat)

/-! ### Fences (R82) -/

/-- FENCE (R82): at its commit; scopes from ridge on make the next bundle wait. -/
def execFence (g : Guard) (sc : BitVec 3) (s : State) : Out :=
  guarded g s
    (match s.stage with
     | .issue => .next s
     | .commit =>
       if sc.toNat < 2 then .next s
       else
         let s1 := s.setCtx { s.ctx with wait := .fence (sc.toNat == 5) s.bundle.addr }
         .next { s1 with work := s1.work ++ [.fenceComplete s.cur] })

/-- FENCE_COMPLETE (R79, R82): the wait ends when the context's device stores, and for the fabric scope its requests, have
been performed at their destinations and acknowledged; a lost one is a Fabric Delivery Fault with the fence bundle's own
checkpoint (R105). -/
def execFenceComplete (c : Nat) (s : State) : Out :=
  let x := s.ctxOf c
  match x.wait with
  | .fence fab bva =>
    let os := pendingOut s c fun o => o.eng == 7 || (fab && o.eng == 6)
    match lostOut s os with
    | some d => .next (takeTrapOf s c { fabricTrap s 7 0 d.1 d.2 with bva := bva })
    | none =>
      if os.isEmpty && s.devOut.all (fun d => d.ctx != c) then .next (s.setCtxOf c { x with wait := .none })
      else .next { s with work := s.work ++ [.fenceComplete c] }
  | _ => .next s

/-! ### Barriers (R97 to R99, R281) -/

/-- Key of barrier BAR as a context names it: b.n of its ridge, or the module barrier. -/
def barKey (n : Nat) (bar : BitVec 5) : Nat := if bar.toNat = 16 then 16 else 17 * ridgeOf n + bar.toNat

/-- Barrier k. -/
def State.barrier (s : State) (k : Nat) : Barrier := amGet Barrier.unowned s.barriers k

/-- A Barrier Fault (R97, R281). -/
def barrierFault (s : State) : Out := trapNow s 7 0x1C 0

/-- A barrier after one arrive or, with drop, arrive-and-drop (R97). -/
def Barrier.arrive (b : Barrier) (drop : Bool) : Barrier :=
  let d := b.drops + drop.toNat
  if b.count + 1 = b.expect then { b with expect := b.expect - d, count := 0, phase := b.phase + 1, drops := 0 }
  else { b with count := b.count + 1, drops := d }

/-- An arrive of context n takes effect: the context records its phase (R97, R99). -/
def arriveNow (s : State) (n k : Nat) (drop : Bool) : State :=
  let c := s.ctxOf n
  let b := s.barrier k
  let s1 := s.setCtxOf n { c with barPhase := amSet c.barPhase k b.phase }
  { s1 with barriers := amSet s1.barriers k (b.arrive drop) }

/-- An arrive or drop: withheld to the next commit (R77, R271). -/
def arriveOp (g : Guard) (bar : BitVec 5) (op : Nat → WithheldOp) (s : State) : Out :=
  match s.stage with
  | .commit => .next s
  | .issue =>
    guarded g s
      (let k := barKey s.cur bar
       let b := s.barrier k
       if b.owner ≠ some s.ctx.launch || b.expect = 0 then barrierFault s else withhold s 7 (op k))

/-- ARRIVE (R97, R271). -/
def execArrive (g : Guard) (bar : BitVec 5) (s : State) : Out := arriveOp g bar .arrive s

/-- DROP (R97, R271). -/
def execDrop (g : Guard) (bar : BitVec 5) (s : State) : Out := arriveOp g bar .drop s

/-- Phase that a wait of the context in issue waits for (R99). -/
def waitTarget (s : State) (k : Nat) : Nat :=
  match amFind s.ctx.barPhase k with
  | some p => p
  | none => s.ctx.waitPhase.getD (s.barrier k).phase

/-- BWAIT (R99, R271). -/
def execBwait (g : Guard) (bar : BitVec 5) (s : State) : Out :=
  match s.stage with
  | .commit => .next s
  | .issue =>
    guarded g s
      (let k := barKey s.cur bar
       let b := s.barrier k
       if b.owner ≠ some s.ctx.launch then barrierFault s
       else if waitTarget s k < b.phase then .next s
       else blockNow (s.setCtx { s.ctx with waitPhase := some (waitTarget s k) }))

/-! ### Token queues (R100 to R102) -/

/-- Token queue q. -/
def State.token (s : State) (q : Nat) : TokenQueue := amGet TokenQueue.reset s.tokens q

/-- Token queue q changed. -/
def State.modToken (s : State) (q : Nat) (f : TokenQueue → TokenQueue) : State :=
  { s with tokens := amMod TokenQueue.reset s.tokens q f }

/-- The contexts no longer wait at a token queue. -/
def leaveTokens (s : State) (group : List Nat) : State :=
  { s with ctxs := s.ctxs.map fun p => if p.1 ∈ group then (p.1, { p.2 with tokenWait := none }) else p,
           tokens := s.tokens.map fun p => (p.1, { p.2 with
      pushers := p.2.pushers.filter (fun w => w.2 ∉ group), poppers := p.2.poppers.filter (fun w => w.2 ∉ group) }) }

/-- The order of those that wait: by the wall cycle in which they blocked, in one cycle by die, ridge, core and context
(R98, R102). -/
def waitsBefore (a b : Nat × Nat) : Bool := a.1 < b.1 || (a.1 == b.1 && decide (a.2 < b.2))

/-- The place of context n among those that wait: where it stands, or the one it takes when it blocks now. -/
def waitPlace (s : State) (ws : List (Nat × Nat)) (n : Nat) : Nat × Nat :=
  (ws.find? fun w => w.2 == n).getD (s.wall + (s.ctxOf n).skew, n)

/-- Waiting contexts ahead of context n. -/
def waitersAhead (s : State) (ws : List (Nat × Nat)) (n : Nat) : Nat :=
  (ws.filter fun w => waitsBefore w (waitPlace s ws n) && (s.ctxOf w.2).blocked).length

/-- Context n among those that wait, each at its place. -/
def joinWaiters (s : State) (ws : List (Nat × Nat)) (n : Nat) : List (Nat × Nat) :=
  let me := waitPlace s ws n
  (ws.filter fun w => waitsBefore w me) ++ [me] ++ ws.filter fun w => waitsBefore me w

/-- Entries of queue q that other ranks of the bundle in issue have reserved (R102). -/
def reservedIn (s : State) (q : Nat) (push : Bool) : Nat :=
  (s.ctxs.filter fun p => p.1 ≠ s.cur && p.2.reserved == some (q, push)).length

/-- A push or pop on queue q by the context in issue (R100 to R102): free entries to reserve, and the waiters. push
tells which. -/
def tokenOp (s : State) (q : Nat) (push : Bool) (k : Out) : Out :=
  let t := s.token q
  if !t.en || !t.parts.getLsbD s.ctx.part || s.ctx.tokenWait = some (q, true) then trapNow s 7 0x1D 0
  else
    let ws := if push then t.pushers else t.poppers
    let room := if push then t.depth.toNat - t.entries.length else t.entries.length
    if waitersAhead s ws s.cur + reservedIn s q push < room then k
    else
      let ws1 := joinWaiters s ws s.cur
      let s1 := s.modToken q fun t => if push then { t with pushers := ws1 } else { t with poppers := ws1 }
      blockNow (s1.setCtx { s1.ctx with tokenWait := some (q, false) })

/-- The entry reserved by the bundle in issue. -/
def reserve (s : State) (q : Nat) (push : Bool) : State := s.setCtx { s.ctx with reserved := some (q, push) }

/-- Queue number in s[sa][7:0]. -/
def queueNo (s : State) (sa : SCode) : Nat := bitsOf (s.readS sa).toNat 0 8

/-- QPUSH (R272): the token is written at the commit. -/
def execQpush (g : Guard) (sa sb : SCode) (s : State) : Out :=
  guarded g s (readingS s 7 [sa, sb]
    (let q := queueNo s sa
     match s.stage with
     | .issue => tokenOp s q true (.next (reserve s q true))
     | .commit =>
       let s1 := s.setCtx { s.ctx with reserved := none }
       .next (s1.modToken q fun t => { t with entries := t.entries ++ [s.readS sb] })))

/-- QPOP (R272): the oldest entry is removed at the commit and lands. -/
def execQpop (g : Guard) (sd sa : SCode) (land : BitVec 6) (s : State) : Out :=
  match s.stage with
  | .issue =>
    if !s.guardOn g then holdLanding s land
    else readingS s 7 [sa]
      (tokenOp s (queueNo s sa) false (.next (takeLanding (reserve s (queueNo s sa) false) land false false)))
  | .commit =>
    guarded g s
      (let q := queueNo s sa
       match (s.token q).entries with
       | [] => .next s
       | x :: xs =>
         let s1 := (s.setCtx { s.ctx with reserved := none }).modToken q fun t => { t with entries := xs }
         finishS s1 sd x land.toNat)

/-- MILLRACE_DELIVERY (R148, R149): the B data of a ridge's next gang bundle reach its sixteen cores, and the bundle need wait
for them no more. -/
def execMillraceDelivery (ridge : Nat) (s : State) : Out := .next { s with millrace := insertOnce ridge s.millrace }

end Sys2Proof.Machine
end

