-- ==== Sys2Proof/Machine/Atomic.lean ====
section
/-! DEFINITION. Atomics of the Y slot and the merge-adds of phased tasks (R95, R96, R112, R269). -/

namespace Sys2Proof.Machine

/-- The form that a phased task makes as a merge-add (R112); op counts from aadd, and 8 is afadd. -/
def mergeForm (op : Nat) (ty : ATy) (ret : Bool) : Bool := !ret && (op == 8 || (op == 0 && ty.bytes == 4))

/-- Poisoned lines among those of an access trap (R65). -/
def lineClean (s : State) (sl : Nat) (lines : List Nat) (k : Out) : Out :=
  match lines.find? fun l => decide (l ∈ s.poison) with
  | some l => machineCheck s sl l
  | none => k

/-- A non-returning atomic or merge-add: checked at its issue and withheld (R77, R96, R112). -/
def withheldAtomic (s : State) (op : Nat) (ty : ATy) (sa sb : SCode) : Out :=
  let va := (s.readS sa).toNat
  let w := ty.bytes
  accessing s 7 .atomic true s.ctx.phased w [{ va := va, n := w, lane := 0 }] fun s1 pages =>
    let pa := (physOf pages va).pa
    if s1.ctx.phased then withhold s1 7 (.mergeAdd (op == 8) pa ((s1.readS sb).setWidth 32))
    else
      let lines := linesOf pages (addrsFrom va w)
      lineClean s1 7 lines (touching s1 lines fun s2 => withhold s2 7 (.atomic op ty pa (s2.readS sb)))

/-- The atomic's own point in this module: the state after it and the old value (R95). -/
def atomicNow (s : State) (op : Nat) (ty : ATy) (pa : Nat) (x cmp : Word) : State × Nat :=
  let old := memNat s.mem pa ty.bytes
  (s.perform (some s.cur) (cellsAt pa (leBytes ty.bytes (atomicNew op ty old x.toNat cmp.toNat))), old)

/-- An atomic through the fabric window as a request, and the result that its landing waits for (R84, R103). -/
def atomicAsk (s : State) (op : Nat) (ty : ATy) (pa : Nat) (x cmp : Word) : State × Ask :=
  let s1 := fabSend s s.cur 6 0 pa (.atomic op ty (bitsOf pa 0 40) x cmp)
  (s1, askOf s1 pa ty.bytes)

/-- A returning atomic: its checks at the issue, its point at the commit, its old value at the landing slot (R96). -/
def returningAtomic (s : State) (op : Nat) (ty : ATy) (sd sa sb : SCode) (land : BitVec 6) : Out :=
  let va := (s.readS sa).toNat
  let w := ty.bytes
  let es : List Elem := [{ va := va, n := w, lane := 0 }]
  resolving s 7 .atomic true false w es fun s1 pages =>
    let pa := (physOf pages va).pa
    match s1.stage with
    | .issue =>
      let lines := linesOf pages (addrsFrom va w)
      lineClean s1 7 lines (touching s1 lines fun s2 => .next (takeLanding s2 land true true))
    | .commit =>
      if rangeOf pa = .fabric then
        let x := atomicAsk s1 op ty pa (s1.readS sb) (s1.readS sd)
        withAsks s1 (.scalar (8 * w) ty.signed) [] [x.2] [] (finishS x.1 sd 0 land.toNat)
      else
      let x := atomicNow s1 op ty pa (s1.readS sb) (s1.readS sd)
      finishS x.1 sd (atomicExtend ty x.2) land.toNat

/-- An atomic instruction (R269). A phased task may make merge-adds alone (R112, R113); the check is made whatever the
guard (R164). -/
def atomicOp (g : Guard) (op : Nat) (ty : ATy) (ret : Bool) (sd sa sb : SCode) (land : BitVec 6) (s : State) : Out :=
  if s.ctx.phased && !mergeForm op ty ret then illegal s 7 0x11
  else if !s.guardOn g then
    (match s.stage with | .issue => if ret then holdLanding s land else .next s | .commit => .next s)
  else readingS s 7 (if op = 7 then [sd, sa, sb] else [sa, sb])
    (if ret then returningAtomic s op ty sd sa sb land
     else match s.stage with | .issue => withheldAtomic s op ty sa sb | .commit => .next s)

/-- AADD (R269). -/
def execAadd (g : Guard) (ty : ATy) (ret : Bool) (sd sa sb : SCode) (land : BitVec 6) (s : State) : Out :=
  atomicOp g 0 ty ret sd sa sb land s
/-- AAND (R269). -/
def execAand (g : Guard) (ty : ATy) (ret : Bool) (sd sa sb : SCode) (land : BitVec 6) (s : State) : Out :=
  atomicOp g 1 ty ret sd sa sb land s
/-- AOR (R269). -/
def execAor (g : Guard) (ty : ATy) (ret : Bool) (sd sa sb : SCode) (land : BitVec 6) (s : State) : Out :=
  atomicOp g 2 ty ret sd sa sb land s
/-- AXOR (R269). -/
def execAxor (g : Guard) (ty : ATy) (ret : Bool) (sd sa sb : SCode) (land : BitVec 6) (s : State) : Out :=
  atomicOp g 3 ty ret sd sa sb land s
/-- AMIN (R269). -/
def execAmin (g : Guard) (ty : ATy) (ret : Bool) (sd sa sb : SCode) (land : BitVec 6) (s : State) : Out :=
  atomicOp g 4 ty ret sd sa sb land s
/-- AMAX (R269). -/
def execAmax (g : Guard) (ty : ATy) (ret : Bool) (sd sa sb : SCode) (land : BitVec 6) (s : State) : Out :=
  atomicOp g 5 ty ret sd sa sb land s
/-- ASWP (R269). -/
def execAswp (g : Guard) (ty : ATy) (ret : Bool) (sd sa sb : SCode) (land : BitVec 6) (s : State) : Out :=
  atomicOp g 6 ty ret sd sa sb land s
/-- ACAS (R269). -/
def execAcas (g : Guard) (ty : ATy) (ret : Bool) (sd sa sb : SCode) (land : BitVec 6) (s : State) : Out :=
  atomicOp g 7 ty ret sd sa sb land s
/-- AFADD (R269): of FP32 elements. -/
def execAfadd (g : Guard) (ret : Bool) (sd sa sb : SCode) (land : BitVec 6) (s : State) : Out :=
  atomicOp g 8 .z32 ret sd sa sb land s

end Sys2Proof.Machine
end

