-- ==== Sys2Proof/Machine/Hash.lean ====
section
/-! DEFINITION. SHA-256, which R330 and R335 name and the manual does not define: FIPS 180-4 (PRESUMED, log 105). -/

namespace Sys2Proof.Machine

/-- The lowest n bytes of x, the highest first. -/
def beBytes (n x : Nat) : List Byte := (leBytes n x).reverse

/-- The number whose bytes are bs, the highest first. -/
def beNat (bs : List Byte) : Nat := leNat bs.reverse

/-- The round constants. -/
def shaConstants : List W32 :=
  [0x428a2f98, 0x71374491, 0xb5c0fbcf, 0xe9b5dba5, 0x3956c25b, 0x59f111f1, 0x923f82a4, 0xab1c5ed5] ++
  [0xd807aa98, 0x12835b01, 0x243185be, 0x550c7dc3, 0x72be5d74, 0x80deb1fe, 0x9bdc06a7, 0xc19bf174] ++
  [0xe49b69c1, 0xefbe4786, 0x0fc19dc6, 0x240ca1cc, 0x2de92c6f, 0x4a7484aa, 0x5cb0a9dc, 0x76f988da] ++
  [0x983e5152, 0xa831c66d, 0xb00327c8, 0xbf597fc7, 0xc6e00bf3, 0xd5a79147, 0x06ca6351, 0x14292967] ++
  [0x27b70a85, 0x2e1b2138, 0x4d2c6dfc, 0x53380d13, 0x650a7354, 0x766a0abb, 0x81c2c92e, 0x92722c85] ++
  [0xa2bfe8a1, 0xa81a664b, 0xc24b8b70, 0xc76c51a3, 0xd192e819, 0xd6990624, 0xf40e3585, 0x106aa070] ++
  [0x19a4c116, 0x1e376c08, 0x2748774c, 0x34b0bcb5, 0x391c0cb3, 0x4ed8aa4a, 0x5b9cca4f, 0x682e6ff3] ++
  [0x748f82ee, 0x78a5636f, 0x84c87814, 0x8cc70208, 0x90befffa, 0xa4506ceb, 0xbef9a3f7, 0xc67178f2]

/-- The eight words of the hash so far. -/
structure ShaState where
  a : W32
  b : W32
  c : W32
  d : W32
  e : W32
  f : W32
  g : W32
  h : W32
deriving DecidableEq, Repr

/-- The words before the first block. -/
def shaStart : ShaState :=
  { a := 0x6a09e667, b := 0xbb67ae85, c := 0x3c6ef372, d := 0xa54ff53a,
    e := 0x510e527f, f := 0x9b05688c, g := 0x1f83d9ab, h := 0x5be0cd19 }

/-- Word by word sum of two states. -/
def shaPlus (x y : ShaState) : ShaState :=
  { a := x.a + y.a, b := x.b + y.b, c := x.c + y.c, d := x.d + y.d,
    e := x.e + y.e, f := x.f + y.f, g := x.g + y.g, h := x.h + y.h }

/-- One round with constant k and message word w. -/
def shaRound (x : ShaState) (kw : W32 × W32) : ShaState :=
  let s1 := x.e.rotateRight 6 ^^^ x.e.rotateRight 11 ^^^ x.e.rotateRight 25
  let t1 := x.h + s1 + ((x.e &&& x.f) ^^^ (~~~x.e &&& x.g)) + kw.1 + kw.2
  let s0 := x.a.rotateRight 2 ^^^ x.a.rotateRight 13 ^^^ x.a.rotateRight 22
  let t2 := s0 + ((x.a &&& x.b) ^^^ (x.a &&& x.c) ^^^ (x.b &&& x.c))
  { a := t1 + t2, b := x.a, c := x.b, d := x.c, e := x.d + t1, f := x.e, g := x.f, h := x.g }

/-- n more words of the message schedule; ws holds those so far, the latest first. -/
def shaExtend : Nat → List W32 → List W32
  | 0, ws => ws.reverse
  | n + 1, ws =>
    let u := ws.getD 1 0
    let v := ws.getD 14 0
    let s1 := u.rotateRight 17 ^^^ u.rotateRight 19 ^^^ (u >>> (10 : Nat))
    let s0 := v.rotateRight 7 ^^^ v.rotateRight 18 ^^^ (v >>> (3 : Nat))
    shaExtend n ((s1 + ws.getD 6 0 + s0 + ws.getD 15 0) :: ws)

/-- One block of 64 bytes. -/
def shaBlock (x : ShaState) (block : List Byte) : ShaState :=
  let ws := (upto 16).map fun i => BitVec.ofNat 32 (beNat ((block.drop (4 * i)).take 4))
  shaPlus x ((shaConstants.zip (shaExtend 48 ws.reverse)).foldl shaRound x)

/-- The message with its padding, a whole number of blocks. -/
def shaPad (bs : List Byte) : List Byte :=
  bs ++ 0x80#8 :: List.replicate ((119 - bs.length % 64) % 64) 0 ++ beBytes 8 (8 * bs.length)

/-- Blocks of 64 bytes hashed one after another. -/
def shaBlocks : Nat → List Byte → ShaState → ShaState
  | 0, _, x => x
  | n + 1, bs, x => shaBlocks n (bs.drop 64) (shaBlock x (bs.take 64))

/-- SHA-256 as its 32 bytes. -/
def sha256Bytes (bs : List Byte) : List Byte :=
  let p := shaPad bs
  let x := shaBlocks (p.length / 64) p shaStart
  [x.a, x.b, x.c, x.d, x.e, x.f, x.g, x.h].flatMap fun w => beBytes 4 w.toNat

/-- SHA-256 as a register's bits, the first byte of the digest lowest (DESIGN CHOICE, log 105). -/
def sha256 (bs : List Byte) : BitVec 256 := ofBytes 256 (sha256Bytes bs)

end Sys2Proof.Machine
end

