-- ==== Sys2Proof/Machine/Signature.lean ====
section
/-! DEFINITION. SLH-DSA-SHA2-128s and -128f, which R330, R333 and R336 name and the manual does not define: FIPS 205, pure
signing with an empty context string (PRESUMED, log 105). -/

namespace Sys2Proof.Machine

/-- A parameter set with n = 16, lg w = 4 and SHA-256: layers, height of a layer's tree, height and number of the few-time
trees. -/
structure SlhParams where
  d : Nat
  hp : Nat
  a : Nat
  k : Nat
deriving DecidableEq, Repr

/-- SLH-DSA-SHA2-128s: signatures of 7,856 bytes. -/
def slh128s : SlhParams := { d := 7, hp := 9, a := 12, k := 14 }

/-- SLH-DSA-SHA2-128f: signatures of 17,088 bytes. -/
def slh128f : SlhParams := { d := 22, hp := 3, a := 6, k := 33 }

/-- An address: layer, tree, type and the three words that the type gives. -/
structure SlhAdrs where
  layer : Nat
  tree : Nat
  kind : Nat
  w1 : Nat
  w2 : Nat
  w3 : Nat
deriving DecidableEq, Repr

/-- The compressed address of 22 bytes. -/
def SlhAdrs.bytes (x : SlhAdrs) : List Byte :=
  beBytes 1 x.layer ++ beBytes 8 x.tree ++ beBytes 1 x.kind ++ beBytes 4 x.w1 ++ beBytes 4 x.w2 ++ beBytes 4 x.w3

/-- The tweakable hash of 16 bytes: F, H, T and PRF alike. -/
def slhHash (seed : List Byte) (x : SlhAdrs) (m : List Byte) : List Byte :=
  (sha256Bytes (seed ++ List.replicate 48 0 ++ x.bytes ++ m)).take 16

/-- out digits of b bits each, from the highest bit of the bytes on. -/
def slhDigits (bs : List Byte) (b out : Nat) : List Nat :=
  let x := beNat bs
  (upto out).map fun i => x / 2 ^ (8 * bs.length - b * (i + 1)) % 2 ^ b

/-- Entry i of 16 bytes. -/
def slhPart (bs : List Byte) (i : Nat) : List Byte := (bs.drop (16 * i)).take 16

/-! ### One-time signatures -/

/-- Steps of a chain from position i on. -/
def slhChain (seed : List Byte) (x : SlhAdrs) : Nat → Nat → List Byte → List Byte
  | 0, _, m => m
  | n + 1, i, m => slhChain seed x n (i + 1) (slhHash seed { x with w3 := i } m)

/-- The 35 digits that a 16-byte message signs: its own and those of its checksum. -/
def wotsDigits (m : List Byte) : List Nat :=
  let ds := slhDigits m 4 32
  let sum := ds.foldl (fun s d => s + (15 - d)) 0
  ds ++ slhDigits (beBytes 2 (16 * sum)) 4 3

/-- Secret value i of key pair x.w1. -/
def wotsSecret (sk seed : List Byte) (x : SlhAdrs) (i : Nat) : List Byte :=
  slhHash seed { x with kind := 5, w2 := i, w3 := 0 } sk

/-- The public key over the ends of the 35 chains. -/
def wotsKey (seed : List Byte) (x : SlhAdrs) (ends : List (List Byte)) : List Byte :=
  slhHash seed { x with kind := 1, w2 := 0, w3 := 0 } ends.flatten

/-- The public key of a key pair. -/
def wotsPublic (sk seed : List Byte) (x : SlhAdrs) : List Byte :=
  wotsKey seed x ((upto 35).map fun i =>
    slhChain seed { x with kind := 0, w2 := i } 15 0 (wotsSecret sk seed x i))

/-- A one-time signature of 35 entries. -/
def wotsSign (sk seed : List Byte) (x : SlhAdrs) (m : List Byte) : List Byte :=
  (wotsDigits m).zipIdx.flatMap fun p =>
    slhChain seed { x with kind := 0, w2 := p.2 } p.1 0 (wotsSecret sk seed x p.2)

/-- The public key that a one-time signature gives. -/
def wotsFromSig (seed : List Byte) (x : SlhAdrs) (sig m : List Byte) : List Byte :=
  wotsKey seed x ((wotsDigits m).zipIdx.map fun p =>
    slhChain seed { x with kind := 0, w2 := p.2 } (15 - p.1) p.1 (slhPart sig p.2))

/-! ### Trees -/

/-- Node i at height z of a tree whose leaves are given. -/
def slhNode (seed : List Byte) (x : SlhAdrs) (leaf : Nat → List Byte) : Nat → Nat → List Byte
  | 0, i => leaf i
  | z + 1, i =>
    slhHash seed { x with w2 := z + 1, w3 := i }
      (slhNode seed x leaf z (2 * i) ++ slhNode seed x leaf z (2 * i + 1))

/-- The root over leaf idx, from its node and the neighbours on its path; off: index of the tree's first leaf. -/
def slhClimb (seed : List Byte) (x : SlhAdrs) (idx : Nat) (auth : List Byte) (node : List Byte) (z : Nat) : List Byte :=
  (upto z).foldl (fun n k =>
    let x1 := { x with w2 := k + 1, w3 := idx / 2 ^ (k + 1) }
    slhHash seed x1 (if idx / 2 ^ k % 2 = 0 then n ++ slhPart auth k else slhPart auth k ++ n)) node

/-- The neighbours on the path of leaf idx up to height z. -/
def slhPath (seed : List Byte) (x : SlhAdrs) (leaf : Nat → List Byte) (idx z : Nat) : List Byte :=
  (upto z).flatMap fun j => slhNode seed x leaf j (Nat.xor (idx / 2 ^ j) 1)

/-- Address of nodes of the tree in a layer. -/
def xmssAdrs (layer tree : Nat) : SlhAdrs := { layer := layer, tree := tree, kind := 2, w1 := 0, w2 := 0, w3 := 0 }

/-- Leaf i of a layer's tree. -/
def xmssLeaf (sk seed : List Byte) (layer tree i : Nat) : List Byte :=
  wotsPublic sk seed { xmssAdrs layer tree with kind := 0, w1 := i }

/-- A signature with leaf idx of a layer's tree: one-time signature and path. -/
def xmssSign (p : SlhParams) (sk seed : List Byte) (layer tree idx : Nat) (m : List Byte) : List Byte :=
  wotsSign sk seed { xmssAdrs layer tree with kind := 0, w1 := idx } m
    ++ slhPath seed (xmssAdrs layer tree) (xmssLeaf sk seed layer tree) idx p.hp

/-- The root that such a signature gives. -/
def xmssFromSig (p : SlhParams) (seed : List Byte) (layer tree idx : Nat) (sig m : List Byte) : List Byte :=
  slhClimb seed (xmssAdrs layer tree) idx (sig.drop 560)
    (wotsFromSig seed { xmssAdrs layer tree with kind := 0, w1 := idx } sig m) p.hp

/-- The signatures of n layers from layer on, each over the root below. -/
def hyperSign (p : SlhParams) (sk seed : List Byte) : Nat → Nat → Nat → Nat → List Byte → List Byte
  | 0, _, _, _, _ => []
  | n + 1, layer, tree, idx, m =>
    let sig := xmssSign p sk seed layer tree idx m
    sig ++ hyperSign p sk seed n (layer + 1) (tree / 2 ^ p.hp) (tree % 2 ^ p.hp)
      (xmssFromSig p seed layer tree idx sig m)

/-- The root that the signatures of n layers give. -/
def hyperFromSig (p : SlhParams) (seed : List Byte) : Nat → Nat → Nat → Nat → List Byte → List Byte → List Byte
  | 0, _, _, _, _, m => m
  | n + 1, layer, tree, idx, sig, m =>
    hyperFromSig p seed n (layer + 1) (tree / 2 ^ p.hp) (tree % 2 ^ p.hp) (sig.drop (16 * (35 + p.hp)))
      (xmssFromSig p seed layer tree idx sig m)

/-! ### Few-time signatures -/

/-- Address of nodes of the few-time trees of leaf idx of the lowest tree. -/
def forsAdrs (tree idx : Nat) : SlhAdrs := { layer := 0, tree := tree, kind := 3, w1 := idx, w2 := 0, w3 := 0 }

/-- Secret value i. -/
def forsSecret (sk seed : List Byte) (x : SlhAdrs) (i : Nat) : List Byte :=
  slhHash seed { x with kind := 6, w2 := 0, w3 := i } sk

/-- The few-time signature of a digest: of each tree its secret value and path. Node i at height z of tree t has the index
t·2^(a-z) + i. -/
def forsSign (p : SlhParams) (sk seed : List Byte) (x : SlhAdrs) (md : List Byte) : List Byte :=
  let leaf := fun i => slhHash seed { x with w2 := 0, w3 := i } (forsSecret sk seed x i)
  (slhDigits md p.a p.k).zipIdx.flatMap fun d =>
    let i := d.2 * 2 ^ p.a + d.1
    forsSecret sk seed x i ++ slhPath seed x leaf i p.a

/-- The public key that a few-time signature gives. -/
def forsFromSig (p : SlhParams) (seed : List Byte) (x : SlhAdrs) (sig md : List Byte) : List Byte :=
  let roots := (slhDigits md p.a p.k).zipIdx.flatMap fun d =>
    let i := d.2 * 2 ^ p.a + d.1
    let part := sig.drop (16 * (d.2 * (p.a + 1)))
    slhClimb seed x i (part.drop 16) (slhHash seed { x with w2 := 0, w3 := i } (part.take 16)) p.a
  slhHash seed { x with kind := 4, w2 := 0, w3 := 0 } roots

/-! ### The scheme -/

/-- HMAC-SHA-256 under a key of at most 64 bytes. -/
def hmacSha256 (key m : List Byte) : List Byte :=
  let k := key ++ List.replicate (64 - key.length) 0
  sha256Bytes (k.map (· ^^^ 0x5c#8) ++ sha256Bytes (k.map (· ^^^ 0x36#8) ++ m))

/-- n bytes from a seed (MGF1 with SHA-256). -/
def mgf1 (seed : List Byte) (n : Nat) : List Byte :=
  ((upto ((n + 31) / 32)).flatMap fun c => sha256Bytes (seed ++ beBytes 4 c)).take n

/-- What the digest of a message selects: the few-time digest, the tree and its leaf. -/
def slhSelect (p : SlhParams) (r seed root m : List Byte) : List Byte × Nat × Nat :=
  let n1 := (p.k * p.a + 7) / 8
  let n2 := ((p.d - 1) * p.hp + 7) / 8
  let n3 := (p.hp + 7) / 8
  let d := mgf1 (r ++ seed ++ sha256Bytes (r ++ seed ++ root ++ m)) (n1 + n2 + n3)
  (d.take n1, beNat ((d.drop n1).take n2) % 2 ^ ((p.d - 1) * p.hp), beNat ((d.drop (n1 + n2)).take n3) % 2 ^ p.hp)

/-- The message as it is signed: pure, with an empty context string. -/
def slhMessage (m : List Byte) : List Byte := 0x00#8 :: 0x00#8 :: m

/-- Length of a signature. -/
def SlhParams.length (p : SlhParams) : Nat := 16 * (1 + p.k * (p.a + 1) + p.d * (35 + p.hp))

/-- A public key of 32 bytes: seed and root. -/
def slhPublicKey (p : SlhParams) (sk seed : List Byte) : List Byte :=
  seed ++ slhNode seed (xmssAdrs (p.d - 1) 0) (xmssLeaf sk seed (p.d - 1) 0) p.hp 0

/-- A signature: sk, prf and seed are the parts of the secret key, random the 16 bytes that the signer adds. -/
def slhSign (p : SlhParams) (sk prf seed random m : List Byte) : List Byte :=
  let root := (slhPublicKey p sk seed).drop 16
  let r := (hmacSha256 prf (random ++ slhMessage m)).take 16
  let q := slhSelect p r seed root (slhMessage m)
  let x := forsAdrs q.2.1 q.2.2
  let fors := forsSign p sk seed x q.1
  r ++ fors ++ hyperSign p sk seed p.d 0 q.2.1 q.2.2 (forsFromSig p seed x fors q.1)

/-- The signature verifies under a public key. -/
def slhVerify (p : SlhParams) (key m sig : List Byte) : Bool :=
  let seed := key.take 16
  let root := (key.drop 16).take 16
  let q := slhSelect p (sig.take 16) seed root (slhMessage m)
  let x := forsAdrs q.2.1 q.2.2
  let fors := sig.drop 16
  let pk := forsFromSig p seed x fors q.1
  sig.length == p.length && key.length == 32
    && hyperFromSig p seed p.d 0 q.2.1 q.2.2 (fors.drop (16 * p.k * (p.a + 1))) pk == root

end Sys2Proof.Machine
end

