-- ==== Sys2Proof/Machine/Object.lean ====
section
/-! DEFINITION. The header and the hash tree of a Bolmon object, its sections and relocations, and translations under the
device key (R320, R321, R329, R330, R333, R336, R362). -/

namespace Sys2Proof.Machine

/-! ### Header and hash tree (R329, R330) -/

/-- The 32 bytes of a digest. -/
def digestBytes (d : BitVec 256) : List Byte := bytesOf d 32

/-- Leaf of a chunk. -/
def chunkLeaf (bs : List Byte) : BitVec 256 := sha256 (0x00#8 :: bs)

/-- Node over two subtrees. -/
def treeNode (l r : BitVec 256) : BitVec 256 := sha256 (0x01#8 :: (digestBytes l ++ digestBytes r))

/-- The next level up; an unpaired last node passes unchanged. -/
def hashLevel : List (BitVec 256) → List (BitVec 256)
  | a :: b :: xs => treeNode a b :: hashLevel xs
  | xs => xs

/-- The single node that remains, taking at most fuel levels. -/
def hashRoot : Nat → List (BitVec 256) → Option (BitVec 256)
  | _, [] => none
  | _, [r] => some r
  | 0, _ => none
  | fuel + 1, xs => hashRoot fuel (hashLevel xs)

/-- Bits [k+n-1:k] of the 8-byte field at offset off of a header. -/
def headBits (bs : List Byte) (off k n : Nat) : Nat := bitsOf (recWord bs off) k n

/-- NCHUNK. -/
def nchunk (bs : List Byte) : Nat := headBits bs 0x10 32 32

/-- Bytes with zeros after them up to n. -/
def padTo (n : Nat) (bs : List Byte) : List Byte := bs ++ List.replicate (n - bs.length) 0

/-- Chunk i of the body, with the padding of the last one. -/
def chunkOf (bs : List Byte) (i : Nat) : List Byte := padTo 4096 ((bs.drop (256 + 4096 * i)).take 4096)

/-- The body: its chunks one after the other. -/
def bodyOf (bs : List Byte) : List Byte := (upto (nchunk bs)).flatMap (chunkOf bs)

/-- The body from the offset in the header field at off on. -/
def tableAt (bs : List Byte) (off : Nat) : List Byte := (bodyOf bs).drop (recWord bs off)

/-- ROOT. -/
def rootOf (bs : List Byte) : BitVec 256 := ofBytes 256 ((bs.drop 0x20).take 32)

/-- SIGNER. -/
def signerOf (bs : List Byte) : List Byte := (bs.drop 0x60).take 32

/-- The signature at SIGOFF. -/
def signatureOf (bs : List Byte) : List Byte := (bs.drop (recWord bs 0x80)).take 7856

/-- The device's feature, arithmetic and latency levels (Table 9-10, R43). -/
def deviceFeature : Nat := 4
def deviceArith : Nat := 1
def deviceLatency : Nat := 1

/-! ### The device key (R333, R336) -/

/-- A secret part of the device key. -/
def deviceSecret (key part : Nat) : List Byte := bytesOf (Config.deviceSecret key part) 16

/-- The public half of the device key, 32 bytes. -/
def devicePublicKey (key : Nat) : List Byte := slhPublicKey slh128f (deviceSecret key 0) (deviceSecret key 2)

/-- A signature under the device key, 17,088 bytes. -/
def deviceSign (key tick : Nat) (m : List Byte) : List Byte :=
  slhSign slh128f (deviceSecret key 0) (deviceSecret key 1) (deviceSecret key 2) (bytesOf (Config.signRandom tick) 16) m

/-! ### Sections and relocations (R320, R321, R362) -/

/-- A relocation as the table gives it and as the loader has bound it: a symbol of another object is found by its name. -/
def relocBinds (a b : Reloc) : Bool :=
  a.kind == b.kind && a.sect == b.sect && a.off == b.off && a.obj.isSome == b.obj.isSome
    && (a.obj.isSome || (a.tsect == b.tsect && a.toff == b.toff))

/-- What the object is taken to hold is what its tables say, at SECT, RELOC, KERN and SPMAP (R329). -/
def tablesOk (o : BmoObject) : Bool :=
  let rs := Config.relocTable (tableAt o.bytes 0x48)
  (o.sections.map fun x => (x.kind, x.off, x.len)) == Config.sectTable (tableAt o.bytes 0x40)
    && o.relocs.length == rs.length && (o.relocs.zip rs).all (fun p => relocBinds p.1 p.2)
    && o.kernels == Config.kernTable (tableAt o.bytes 0x50) && o.points == Config.pointTable (tableAt o.bytes 0x58)

/-- Virtual pages of 64 KiB of a section. -/
def sectPages (x : Section) : List Nat := (upto ((x.len + 65535) / 65536)).map (x.base / 65536 + ·)

/-- Body bytes of a section. -/
def sectBytes (o : BmoObject) (x : Section) : List Byte := ((o.bytes.drop 256).drop x.off).take x.len

/-- Address of a place in a section. -/
def placeOf (xs : List Section) (i off : Nat) : Option Nat := xs[i]?.map fun x => x.base + off

/-- Address of a relocation's symbol. -/
def symbolOf (s : State) (o : BmoObject) (r : Reloc) : Option Nat :=
  match r.obj with
  | none => placeOf o.sections r.tsect r.toff
  | some k => (amFind s.trust.objects k).bind fun x => placeOf x.obj.sections r.tsect r.toff

/-- Bytes that a relocation's field or bundle takes. -/
def relocSize : RelocKind → Nat
  | .absLo32 => 4
  | .absHi32 => 4
  | .abs64 => 8
  | .bundle25 => 64

/-- Bundles from place p to address t. -/
def bundleDistance (p t : Nat) : Int := signedOf 64 (t + 2 ^ 64 - p) / 64

/-- A relocation resolves within its field (check 0x08, R321). -/
def relocOk (s : State) (o : BmoObject) (r : Reloc) : Bool :=
  match symbolOf s o r, placeOf o.sections r.sect r.off, o.sections[r.sect]? with
  | some t, some p, some x =>
    decide (r.off + relocSize r.kind ≤ x.len) && (r.kind ≠ .bundle25 ||
      (t % 64 == 0 && p % 64 == 0 && decide (-(2 ^ 24) ≤ bundleDistance p t) && decide (bundleDistance p t < 2 ^ 24)))
  | _, _, _ => false

/-- bs with the n bytes at offset k those of x. -/
def putBytes (bs : List Byte) (k n x : Nat) : List Byte := bs.take k ++ leBytes n x ++ bs.drop (k + n)

/-- A relocation of symbol t made at place p, k bytes into bs: off of a branch or call is bits [82:58] of its bundle. -/
def putReloc (kind : RelocKind) (t p k : Nat) (bs : List Byte) : List Byte :=
  match kind with
  | .absLo32 => putBytes bs k 4 t
  | .absHi32 => putBytes bs k 4 (t / 2 ^ 32)
  | .abs64 => putBytes bs k 8 t
  | .bundle25 =>
    let w := leNat ((bs.drop (k + 7)).take 4)
    putBytes bs (k + 7) 4 (w - 4 * bitsOf w 2 25 + 4 * (bundleDistance p t % 2 ^ 25).toNat)

/-- A relocation made in bytes of its section from offset lo on. -/
def applyReloc (s : State) (o : BmoObject) (lo : Nat) (bs : List Byte) (r : Reloc) : List Byte :=
  match symbolOf s o r, placeOf o.sections r.sect r.off with
  | some t, some p => putReloc r.kind t p (r.off - lo) bs
  | _, _ => bs

/-- Bytes of section i from offset lo on, with its relocations made. -/
def relocated (s : State) (o : BmoObject) (i lo : Nat) (bs : List Byte) : List Byte :=
  (o.relocs.filter fun r => r.sect = i && lo ≤ r.off && decide (r.off < lo + bs.length)).foldl (applyReloc s o lo) bs

/-- Page attributes of a section (Table 16-2) in a leaf entry for a frame: coherent, V, W, X, PH. -/
def sectLeaf (k : SectKind) (frame : Nat) : Nat :=
  frame + 3 + (match k with
    | .text => 2 ^ 11
    | .data => 2 ^ 10
    | .stash => 2 ^ 10 + 2 ^ 12
    | .micro => 0
    | .ruletable => 0)

/-- Where the level-3 entry of an address lies, when the tables above it exist. -/
def leafPlace (m : Memory) (va : Nat) : Nat → Nat → Nat → Option Nat
  | 0, level, table => some (table + 8 * bitsOf va (levelIndex level).1 (levelIndex level).2)
  | fuel + 1, level, table =>
    let e := memNat m (table + 8 * bitsOf va (levelIndex level).1 (levelIndex level).2) 8
    if (entryFault level e).isSome || bitsOf e 1 1 = 1 then none
    else leafPlace m va fuel (level + 1) (bitsOf e 16 36 * 65536)

/-- Bytes of the page entry that maps a virtual page to a frame; none where the level-3 table does not exist (log 106). -/
def mapCells (s : State) (o : BmoObject) (k : SectKind) (page frame : Nat) : List (Nat × Byte) :=
  match leafPlace s.mem (65536 * page) 3 0 o.ttb with
  | some a => inMap (cellsAt a (leBytes 8 (sectLeaf k frame)))
  | none => []

/-! ### Translations (R333) -/

/-- What the device signs of a cache entry (the manual gives no layout: DESIGN CHOICE, log 106). -/
def entryMessage (e : CachedText) : List Byte :=
  digestBytes e.root ++ wordsBytes [e.latency, e.version, e.svn, e.text.length]
    ++ e.text ++ wordsBytes (e.points.flatMap fun p => [p.1, p.2])

/-- The entry's signature verifies under the device's key. -/
def entryOk (s : State) (e : CachedText) : Bool :=
  match s.trust.deviceKey with
  | some k => e.key == k && slhVerify slh128f (devicePublicKey k) (entryMessage e) e.signature
  | none => false

/-- The entry has the key of this ROOT on this device. -/
def entryFor (root : BitVec 256) (e : CachedText) : Bool :=
  e.root == root && e.latency == deviceLatency && e.version == Config.translatorVersion

/-- The translation of the text with this ROOT, used only if its signature verifies. -/
def cachedFor (s : State) (root : BitVec 256) : Option CachedText :=
  s.trust.cache.find? fun e => entryFor root e && entryOk s e

/-- Offsets of the bundles of native text. -/
def bundleOffsets (text : List Byte) : List Nat := (upto (text.length / 64)).map (64 * ·)

/-- The bundle at an offset. -/
def bundleAt (text : List Byte) (k : Nat) : Nat := leNat ((text.drop k).take 64)

/-- Where the direct control transfer of the bundle at offset k leads, as an offset (R179). -/
def directTarget (text : List Byte) (k : Nat) : List Nat :=
  match decodeSlot .s (slotWord (bundleAt text k) .s) with
  | .ok (.br _ off) | .ok (.call _ _ off) | .ok (.loop _ _ off) => [((k : Int) + 64 * off.toInt).toNat]
  | _ => []

/-- Offsets of the native bundles at which a context can resume: those that directly follow a checkpoint bundle, and the
targets of direct control transfers (R333). -/
def resumeOffsets (text : List Byte) : List Nat :=
  (bundleOffsets text).foldl (fun acc k =>
    insertAll ((if (headerOf (bundleAt text k)).ckpt then [k + 64] else []) ++ directTarget text k) acc) []

/-- The native text and the safe-point map that jarsol-x makes of canonical text (R333). -/
def translationOf (latency : Nat) (body : List Byte) : List Byte × List (Nat × Nat) :=
  let text := Config.translateText latency body
  (text, (resumeOffsets text).map fun k => (k, 64 * Config.canonicalBundle latency body k))

/-- Safe points of this device as virtual addresses, native and canonical, of the objects loaded in an address space: those of
native text that stands for canonical text, and those that a native object's own map gives (R315, R329, R333). -/
def devicePoints (s : State) (asid : BitVec 16) : List (Word × Word) :=
  (s.trust.objects.filter fun p => p.2.obj.asid == asid).flatMap fun p =>
    let o := p.2.obj
    let at_ := fun (a b : Nat) (qs : List (Nat × Nat)) => qs.map fun q => (BitVec.ofNat 64 (a + q.1), BitVec.ofNat 64 (b + q.2))
    match o.sections.find? (fun x => x.kind = .text), o.native, cachedFor s (rootOf o.bytes) with
    | some x, some n, some e => at_ n.base x.base e.points
    | some x, none, _ => at_ x.base x.base o.points
    | _, _, _ => []

end Sys2Proof.Machine
end

