-- ==== Sys2Proof/Machine/Msu.lean ====
section
/-! DEFINITION. Memory-side units: reduction commands and the accesses a unit performs (R67, R74, R92 to R94, R270). -/

namespace Sys2Proof.Machine

/-! ### The parameter block (Table 13-10) -/

/-- Operands of a block. -/
def blockN (b : List Byte) : Nat := bitsOf (recWord b 0) 0 4 + 1
/-- TYPE of a block. -/
def blockType (b : List Byte) : Nat := bitsOf (recWord b 0) 4 4
/-- COUNT of a block. -/
def blockCount (b : List Byte) : Nat := recWord b 8
/-- RESULT of a block. -/
def blockResult (b : List Byte) : Nat := recWord b 0x10
/-- FLAG of a block. -/
def blockFlag (b : List Byte) : Nat := recWord b 0x18
/-- Bi of a block. -/
def blockOperand (b : List Byte) (i : Nat) : Nat := recWord b (0x20 + 8 * i)

/-- The fields keep Table 13-10. -/
def blockFormat (b : List Byte) : Bool :=
  recWord b 0 / 256 = 0 && blockType b < 2 && 2 ≤ blockN b && 1 ≤ blockCount b && blockCount b ≤ 2 ^ 32
    && blockResult b % 64 = 0
    && ((upto 16).all fun i => if i < blockN b then blockOperand b i % 64 = 0 else blockOperand b i = 0)
    && ((upto 4).all fun i => recWord b (0xA0 + 8 * i) = 0)

/-- Stack of a physical address (Table 3-8). -/
def stackOf (pa : Nat) : Nat := if rangeOf pa = .hbm then bitsOf pa 18 4 else 16

/-- Result lines of a block. -/
def blockLines (b : List Byte) : Nat := (blockCount b + 15) / 16

/-- Physical address of line l of a buffer at va whose pages have these addresses. -/
def bufferLine (pages : List Nat) (va l : Nat) : Nat :=
  let o := va % 65536 + 64 * l
  pages.getD (o / 65536) 0 + o % 65536

/-! ### Issue (R270) -/

/-- Number of a reduction command among those of the module. -/
def reductionKey (slot num : Nat) : Nat := slot + 8192 * num

/-- The block's pages, checked as a scalar load of ordinary memory and recorded with CLASS 5. -/
def blockPages (s : State) (va : Nat) (k : State → List (Nat × Phys) → Out) : Out :=
  match translatePages s (ctxXlat s s.cur) .vectorLoad false false (touched va 192 0) [] [] with
  | (s1, pages, []) => k s1 pages
  | (s1, _, fs) => pageFaultNow s1 7 .reduction fs

/-- FLAG's page, checked as a reduction command that writes it. -/
def flagPage (s : State) (flag : Nat) (k : State → Nat → Out) : Out :=
  match translatePages s (ctxXlat s s.cur) .reduction true false [(flag / 65536, 0)] [] [] with
  | (s1, pages, []) => k s1 (physOf pages flag).pa
  | (s1, _, fs) => pageFaultNow s1 7 .reduction fs

/-- The 192 bytes of the block. -/
def blockBytes (s : State) (pages : List (Nat × Phys)) (va : Nat) : List Byte :=
  viewBytes s s.cur pages (addrsFrom va 192)

/-- Physical address of FLAG as the issue resolved it. -/
def flagResolved (s : State) : Nat :=
  match (s.ctx.resolved.filter fun r => r.slot == 8).getLast? with | some r => r.pa | none => 0

/-- MRED (R139, R270): its checks read the block and translate FLAG; at the commit the command, with the block as read, goes
to FLAG's unit (R92). -/
def execMred (g : Guard) (sa : SCode) (s : State) : Out :=
  let va := (s.readS sa).toNat
  if s.ctx.phased then illegal s 7 0x11
  else engineOp g 7 3 [sa] s
    (ofSound s sa (va % 64 == 0) (illegal s 7 0x0E))
    (blockPages s va fun s1 pages => lineClean s1 7 (linesOf pages (addrsFrom va 192))
        (let b := blockBytes s1 pages va
         let s2 := noteRead s1 ((upto 3).map fun i => (homePa (physOf pages (va + 64 * i)).pa, 64))
         if blockFlag b % 8 ≠ 0 then illegal s2 7 0x0E
         else flagPage s2 (blockFlag b) fun s3 pa =>
           .next (noteBytes (s3.setCtx { s3.ctx with
             resolved := s3.ctx.resolved ++ [{ slot := 8, page := 0, pa := pa, kind := .memorySide }] }) 7 b)))
    fun s2 num =>
      let b := bytesAt s2 7
      let flag := flagResolved s2
      let r : Reduction := { slot := s2.ctx.slot, num := num, block := b, stack := stackOf flag, operands := [],
                             result := [], flag := flag, line := 0, status := 1, arrived := false }
      let s3 := pushCmd s2 (newCmd s2 3 num (.reduce b))
      .next { s3 with reductions := s3.reductions ++ [r],
                      work := s3.work ++ [.mredArrival (reductionKey s3.ctx.slot num)] }

/-! ### At the unit -/

/-- The context, live or saved, whose task holds a timeline slot. -/
def slotCtx (s : State) (slot : Nat) : Option Nat :=
  (s.ctxs.find? fun p => p.2.life ≠ .idle && p.2.slot == slot).map Prod.fst

/-- Pages of a buffer translated for the unit: their physical addresses, or those that fail. -/
def bufferPages (s : State) (x : Xlat) (write : Bool) (va len : Nat) : State × List Nat × List PageFault :=
  match translatePages s x .reduction write false (rangePages va len) [] [] with
  | (s1, pages, fs) => (s1, (rangePages va len).map fun p => (physOf pages (p.1 * 65536)).pa, fs)

/-- Every operand translated, in order. -/
def operandPages (s : State) (x : Xlat) (len : Nat) : List Nat → State × List (List Nat) × List PageFault
  | [] => (s, [], [])
  | va :: vas =>
    let r := bufferPages s x false va len
    let q := operandPages r.1 x len vas
    (q.1, r.2.1 :: q.2.1, r.2.2 ++ q.2.2)

/-- Lines of a buffer. -/
def bufferLines (pages : List Nat) (va n : Nat) : List Nat := (upto n).map (bufferLine pages va)

/-- The result shares lines with an operand and is not equal to it (R93). -/
def overlapsInPart (res op : List Nat) : Bool := res ≠ op && res.any fun a => decide (a ∈ op)

/-- Steps 2 to 4 of R270 on translated buffers. -/
def bufferStatus (r : Reduction) (fs : List PageFault) : Nat :=
  let n := blockLines r.block
  let res := bufferLines r.result (blockResult r.block) n
  let ops := r.operands.zipIdx.map fun p => bufferLines p.1 (blockOperand r.block p.2) n
  if !fs.isEmpty then 4
  else if !((res :: ops).all fun b => b.all fun a => stackOf a == r.stack) then 3
  else if ops.any (overlapsInPart res) then 2
  else 1

/-- The reduction command as its unit finds it: the four checks in order. A fault forwards a record of CLASS 5 (R309). -/
def checkReduction (s : State) (n : Nat) (k : Cmd) (r : Reduction) : State × Reduction :=
  if !blockFormat r.block then (s, { r with status := 5 })
  else
    let len := 4 * blockCount r.block
    let x := cmdXlat s n k
    let o := operandPages s x len ((upto (blockN r.block)).map (blockOperand r.block))
    let t := bufferPages o.1 x true (blockResult r.block) len
    let fs := o.2.2 ++ t.2.2
    let r1 := { r with operands := o.2.1, result := t.2.1 }
    let r2 := { r1 with status := bufferStatus r1 fs }
    if fs.isEmpty then (t.1, r2)
    else
      let record := faultRecord k.asid.toNat Access.reduction.code 7 k.bva.toNat fs k.num
      ((forwardEntry t.1 k.asid.toNat
        (ringEntry t.1 n 0x10 0 (t.1.ctxOf n).arch.epc (t.1.ctxOf n).fault record)).1, r2)

/-- MRED_ARRIVAL (R92, R270): the command reaches its unit; earlier ones of its engine context come first. -/
def execMredArrival (cmd : Nat) (s : State) : Out :=
  match s.reductions.find? fun r => reductionKey r.slot r.num == cmd && !r.arrived with
  | none => .next s
  | some r =>
    if s.reductions.any fun q => q.slot == r.slot && q.stack == r.stack && !q.arrived && decide (q.num < r.num) then
      .next { s with work := s.work ++ [.mredArrival cmd] }
    else match slotCtx s r.slot with
      | none => .next { s with reductions := s.reductions.filter fun q => reductionKey q.slot q.num != cmd }
      | some n => match cmdOf s n 3 r.num with
        | none => .next { s with reductions := s.reductions.filter fun q => reductionKey q.slot q.num != cmd }
        | some k =>
          if anyPending s k.after then .next { s with work := s.work ++ [.mredArrival cmd] }
          else
          let x := checkReduction s n k { r with arrived := true }
          .next { x.1 with
            reductions := (x.1.reductions.filter fun q => reductionKey q.slot q.num != cmd) ++ [x.2],
            work := x.1.work ++ [.msuReductionLine r.stack] }

/-- The reduction changed. -/
def setReduction (s : State) (r : Reduction) : State :=
  { s with reductions := s.reductions.map fun q => if q.slot = r.slot && q.num = r.num then r else q }

/-- Element e of a result line: the tree over the operands (R42, R93). -/
def reduceElem (type : Nat) (xs : List Nat) (e : Nat) : Nat :=
  let op := fun (a b : Nat) => if type = 0 then Fmt.fp32.sum a b else (a + b) % 2 ^ 32
  (tree op (xs.map fun x => some (elem x 32 e))).getD 0

/-- Cells of result line l: only the elements below COUNT (R93). -/
def reduceCells (m : Memory) (r : Reduction) (l : Nat) : List (Nat × Byte) :=
  let b := r.block
  let xs := r.operands.zipIdx.map fun p => memNat m (homePa (bufferLine p.1 (blockOperand b p.2) l)) 64
  let n := Nat.min 16 (blockCount b - 16 * l)
  cellsAt (homePa (bufferLine r.result (blockResult b) l))
    (leBytes (4 * n) (packElems 32 (reduceElem (blockType b) xs) n))

/-- A poisoned operand or result line of line l (R66). -/
def reducePoison (s : State) (r : Reduction) (l : Nat) : Option Nat :=
  let as := bufferLine r.result (blockResult r.block) l
    :: r.operands.zipIdx.map fun p => bufferLine p.1 (blockOperand r.block p.2) l
  (as.map fun a => homePa a / 64).find? fun k => decide (k ∈ s.poison)

/-- The flag written and the command completed (R94). -/
def finishReduction (s : State) (r : Reduction) : State :=
  let s1 := s.perform none (cellsAt (homePa r.flag) (leBytes 8 r.status))
  let s2 := { s1 with reductions := s1.reductions.filter fun q => !(q.slot == r.slot && q.num == r.num) }
  match slotCtx s2 r.slot with
  | some n => cmdDone s2 n 3 r.num
  | none => timelineComplete s2 r.slot 3 r.num

/-- One act of a unit on the reduction at its head: a result line, or the flag. -/
def reductionAct (s : State) (r : Reduction) : State :=
  if r.status ≠ 1 || blockLines r.block ≤ r.line then finishReduction s r
  else match reducePoison s r r.line with
    | some k =>
      let s1 := match slotCtx s r.slot with
        | some n => match cmdOf s n 3 r.num with
          | some c => engPoison s n 7 3 r.num k c.asid c.bva
          | none => s
        | none => s
      setReduction s1 { r with status := 6 }
    | none => setReduction (s.perform none (reduceCells s.mem r r.line)) { r with line := r.line + 1 }

/-- MSU_REDUCTION_LINE (R93, R94): the unit of a stack goes on with the first command that reached it. -/
def execMsuReductionLine (stack : Nat) (s : State) : Out :=
  match s.reductions.find? fun r => r.arrived && r.stack == stack with
  | none => .next s
  | some r =>
    let more := fun (s : State) =>
      if s.reductions.any fun q => q.arrived && q.stack == stack then { s with work := s.work ++ [.msuReductionLine stack] }
      else s
    .next (more (reductionAct s r))

/-- MSU_ACCESS (R65 to R67, R74): one access to a line of the unit's stack by an agent outside the contexts. An address that
is not in the stack's HBM belongs to no unit's lines. -/
def execMsuAccess (a : MsuReq) (s : State) : Out :=
  match (actOffsets a.act).find? fun pa => stackOf pa != a.stack with
  | some pa => .fault (.addressGap pa)
  | none => .next (performActs s id [a.act]).1

end Sys2Proof.Machine
end

