-- ==== Sys2Proof/Machine/Launch.lean ====
section
/-! DEFINITION. Launch records, the launch instruction, and claims on the coverage map (R124, R125, R273, R274, R278 to
R283, R291, R292). -/

namespace Sys2Proof.Machine

/-! ### Launch records (Tables 7-3, 7-4, 14-1) -/

/-- NBAR. -/
def recNbar (r : List Byte) : Nat := bitsOf (recWord r 8) 40 5
/-- MBAR. -/
def recMbar (r : List Byte) : Bool := bitsOf (recWord r 8) 45 1 == 1
/-- TUNE. -/
def recTune (r : List Byte) : Bool := bitsOf (recWord r 8) 46 1 == 1
/-- NDEP. -/
def recNdep (r : List Byte) : Nat := bitsOf (recWord r 8) 37 3
/-- WSTILES. -/
def recWstiles (r : List Byte) : Nat := bitsOf (recWord r 8) 48 8
/-- SWIN. -/
def recSwin (r : List Byte) : Nat := bitsOf (recWord r 0x10) 16 10
/-- AWIN. -/
def recAwin (r : List Byte) : Nat := bitsOf (recWord r 0x10) 0 12
/-- GBLK. -/
def recGblk (r : List Byte) : Nat := recWord r 0x18
/-- SKEW of level 0. -/
def recSkew (r : List Byte) (k : Nat) : Nat := bitsOf (recWord r 0x48) (4 * k) 4
/-- DEPH of dependence j. -/
def recDepH (r : List Byte) (j : Nat) : Word := BitVec.ofNat 64 (recWord r (0xC0 + 16 * j))
/-- DEPV of dependence j. -/
def recDepV (r : List Byte) (j : Nat) : Nat := recWord r (0xC8 + 16 * j)

/-- Product of the counts of all levels. -/
def taskTotal (r : List Byte) : Nat := ((upto (levelTotal r)).map (levelCount r)).foldl (· * ·) 1

/-- Width order of a domain (Table 7-4); software stands anywhere. -/
def domainWidth (d : Nat) : Nat := match d with | 0 => 1 | 1 => 2 | 2 => 3 | 3 => 4 | 6 => 4 | 4 => 5 | 5 => 6 | _ => 0

/-- COUNT limit of a domain; ridges: those of the launch's partition. -/
def domainLimit (ridges d : Nat) : Nat :=
  match d with | 0 => 4 | 1 => 16 | 2 => 12 | 3 => 8 | 6 => ridges | 4 => 1024 | 5 => 16 | 7 => 2 ^ 32 - 1 | _ => 0

/-- Minimum SCOPE of a domain. -/
def domainScope (d : Nat) : Nat := match d with | 0 => 1 | 1 => 2 | 2 => 3 | 4 => 5 | 5 => 5 | _ => 4

/-- Domains of the levels, software left out, innermost first. -/
def hardDomains (r : List Byte) : List Nat := ((upto (levelTotal r)).map (levelDomain r)).filter fun d => d ≠ 7

/-- Widths never narrow going up. -/
def rising : List Nat → Bool
  | [] => true
  | [_] => true
  | a :: b :: ds => a ≤ b && rising (b :: ds)

/-- One level descriptor keeps Tables 7-3 and 7-4 (R125, R147). -/
def levelOk (r : List Byte) (ridges n : Nat) : Bool :=
  let d := levelDomain r n
  d < 8 && bitsOf (recWord r (0x40 + 16 * n)) 42 22 = 0 && levelCount r n ≤ domainLimit ridges d
    && domainScope d ≤ levelScope r n && levelScope r n ≤ 5
    && (if levelGang r n then n = 0 && d = 1 && levelCount r n = 16 && (upto 16).all fun k => recSkew r k < 8
        else recWord r (0x48 + 16 * n) = 0)

/-- R124 and R125: of the level whose COUNT zero ends the hierarchy no other field is checked. -/
def levelsOk (r : List Byte) (ridges : Nat) : Bool :=
  let n := levelTotal r
  let hs := hardDomains r
  1 ≤ n && ((upto n).all (levelOk r ridges))
    && ((upto 8).all fun k => k ≤ n || (recWord r (0x40 + 16 * k) = 0 && recWord r (0x48 + 16 * k) = 0))
    && taskTotal r ≤ 2 ^ 32 - 1 && rising (hs.map domainWidth) && decide hs.Nodup && !(3 ∈ hs && 6 ∈ hs)

/-- Table 14-1 and R280. -/
def recordFields (r : List Byte) : Bool :=
  recWord r 0 % 64 = 0 && bitsOf (recWord r 8) 56 8 = 0 && bitsOf (recWord r 8) 0 37 = 0
    && recNbar r ≤ 16 && recNdep r ≤ 4 && (recPhased r || (recWstiles r = 0 && recWord r 0x20 = 0))
    && bitsOf (recWord r 0x10) 26 38 = 0 && bitsOf (recWord r 0x10) 12 4 = 0 && recSwin r ≤ 512 && recAwin r ≤ 3072
    && recWord r 0x20 % 64 = 0 && recWord r 0x30 = 0 && recWord r 0x38 = 0
    && ((upto 4).all fun j => j < recNdep r || (recDepH r j) = 0)
    && ((recNbar r = 0 && !recMbar r) || !((upto (levelTotal r)).any fun n => levelDomain r n = 7))

/-- The record is accepted (R124, R125, R278). -/
def recordOk (s : State) (part : Nat) (r : List Byte) : Bool :=
  recordFields r && levelsOk r (amGet Partition.reset s.parts part).ridges.length

/-! ### Launch queues (R283) -/

/-- Launch queue q. -/
def State.lq (s : State) (q : Nat) : LaunchQueue := amGet LaunchQueue.reset s.queues q
/-- EN of a launch queue. -/
def LaunchQueue.enabled (q : LaunchQueue) : Bool := q.cfg.getLsbD 0
/-- OPEN of a launch queue. -/
def LaunchQueue.isOpen (q : LaunchQueue) : Bool := q.cfg.getLsbD 16
/-- PREEMPT of a launch queue. -/
def LaunchQueue.preempts (q : LaunchQueue) : Bool := q.cfg.getLsbD 15
/-- PRIO of a launch queue. -/
def LaunchQueue.prio (q : LaunchQueue) : Nat := bitsOf q.cfg.toNat 12 3
/-- PART of a launch queue. -/
def LaunchQueue.part (q : LaunchQueue) : Nat := bitsOf q.cfg.toNat 20 4

/-- Coordinates of a task identifier, level 0 first (R279). -/
def coordsOf : List Nat → Nat → List Nat
  | [], _ => []
  | n :: ns, id => id % n :: coordsOf ns (id / n)

/-- COUNT of each level, level 0 first. -/
def recCounts (r : List Byte) : List Nat := (upto (levelTotal r)).map (levelCount r)

/-- A launch as it enters queue q, its record read at va (R273, R283). -/
def newLaunch (s : State) (q va : Nat) (r : List Byte) (who : Launcher) (depth : Nat) (asid : BitVec 16) (ttb : Word) :
    Launch :=
  { record := r, va := va, launcher := who, depth := depth, queue := q, part := (s.lq q).part, prio := (s.lq q).prio, asid := asid,
    ttb := ttb,
    tasks := (upto (taskTotal r)).map fun id =>
      { id := id, coords := coordsOf (recCounts r) id, retries := 0, core := 0, state := .unplaced },
    started := false, failed := false, complete := false, sched := [], snap := [], snapZero := [], phase := 0, orphan := false }

/-- The launch enters its hardware queue; an empty queue counts its time without service from now (R284). -/
def enqueue (s : State) (q : Nat) (l : Launch) : State :=
  { s with launches := amSet s.launches s.nextLaunch l, nextLaunch := s.nextLaunch + 1,
           queues := amMod LaunchQueue.reset s.queues q fun x =>
             { x with since := if x.items.isEmpty then s.wall else x.since, items := x.items ++ [.launch s.nextLaunch] } }

/-- The case of a Launch Record Fault, if any (R273). -/
def launchFault (s : State) (q : Nat) (r : List Byte) (depth part : Nat) : Option Nat :=
  let x := s.lq q
  if !recordOk s x.part r then some 0
  else if 4 < depth then some 1
  else if !x.enabled || !x.isOpen || x.part ≠ part then some 2
  else none

/-- Pages of n bytes of ordinary memory read by the Y slot, recorded as a scalar load (DESIGN CHOICE, log 26). -/
def plainPages (s : State) (va n : Nat) (k : State → List (Nat × Phys) → Out) : Out :=
  match translatePages s (ctxXlat s s.cur) .vectorLoad false false (touched va n 0) [] [] with
  | (s1, pages, []) => k s1 pages
  | (s1, _, fs) => pageFaultNow s1 7 .scalarLoad fs

/-- LAUNCH (R139, R273): the record is checked at the commit, then the launch, with the record as read, enters its
queue. -/
def execLaunch (g : Guard) (sa sb : SCode) (s : State) : Out :=
  let va := (s.readS sa).toNat
  let q := bitsOf (s.readS sb).toNat 0 6
  let depth := (s.launchOf s.ctx.launch).depth + 1
  if s.ctx.phased then illegal s 7 0x11
  else engineOp g 7 5 [sa, sb] s
    (ofSound s sa (va % 64 == 0) (illegal s 7 0x0E))
    (plainPages s va 256 fun s1 pages => lineClean s1 7 (linesOf pages (addrsFrom va 256))
        (let r := viewBytes s1 s1.cur pages (addrsFrom va 256)
         match launchFault s1 q r depth s1.ctx.part with
         | some c => trapNow s1 7 0x17 (BitVec.ofNat 64 c)
         | none => .next (noteBytes (noteRead s1 ((upto 4).map fun i => (homePa (physOf pages (va + 64 * i)).pa, 64))) 7 r)))
    fun s1 num =>
      let who : Launcher := .task s1.ctx.launch s1.ctx.task s1.ctx.slot num
      .next (enqueue s1 q (newLaunch s1 q va (bytesAt s1 7) who depth s1.ctx.arch.asid s1.ctx.arch.ttb))

/-! ### The coverage map (Table 14-6) -/

/-- A map that has been found: its address and pages, and the bytes of memory it is read from. -/
structure CvMap where
  va : Nat
  pages : List (Nat × Phys)
  mem : Memory

/-- Where memory keeps byte o of the map. -/
def CvMap.pa (m : CvMap) (o : Nat) : Nat := homePa (physOf m.pages ((m.va + o) % 2 ^ 64)).pa
/-- The n-byte number at offset o of the map. -/
def CvMap.word (m : CvMap) (o n : Nat) : Nat := leNat ((upto n).map fun i => memGet m.mem (m.pa (o + i)))
/-- ROWS. -/
def CvMap.rows (m : CvMap) : Nat := bitsOf (m.word 0 8) 48 16
/-- COLS. -/
def CvMap.cols (m : CvMap) : Nat := bitsOf (m.word 0 8) 32 16
/-- SREG. -/
def CvMap.sreg (m : CvMap) : Nat := bitsOf (m.word 0 8) 28 4
/-- REL. -/
def CvMap.rel (m : CvMap) : Bool := bitsOf (m.word 0 8) 27 1 == 1
/-- Entries of the claim table. -/
def CvMap.tags (m : CvMap) : Nat := bitsOf (m.word 0 8) 0 12 + 1
/-- Offset of the bitmap. -/
def CvMap.bitmap (m : CvMap) : Nat := 0x40 + 16 * m.tags
/-- Bytes of the whole map. -/
def CvMap.len (m : CvMap) : Nat := m.bitmap + (m.rows * m.cols + 7) / 8
/-- Cell (r, c) is unclaimed. -/
def CvMap.clear (m : CvMap) (r c : Nat) : Bool :=
  let b := m.cols * r + c
  !(memGet m.mem (m.pa (m.bitmap + b / 8))).getLsbD (b % 8)
/-- STATE of entry t. -/
def CvMap.state (m : CvMap) (t : Nat) : Nat := bitsOf (m.word (0x40 + 16 * t) 8) 62 2

/-- Length of the longest prefix of 0, 1, … below n on which p holds. -/
def runLength (p : Nat → Bool) (n : Nat) : Nat := ((upto n).takeWhile p).length

/-- The cells that a claim takes under a schedule (R292): H, W, r0, c0; none when no cell is clear. -/
def CvMap.choose (m : CvMap) (g : Nat) : Option (Nat × Nat × Nat × Nat) :=
  let col := bitsOf g 16 2 == 1
  let th := if bitsOf g 8 8 = 0 then 1 else bitsOf g 8 8
  let tw := if bitsOf g 0 8 = 0 then 1 else bitsOf g 0 8
  let first :=
    if col then ((upto (m.rows * m.cols)).find? fun k => m.clear (k % m.rows) (k / m.rows)).map
      fun k => (k % m.rows, k / m.rows)
    else ((upto (m.rows * m.cols)).find? fun k => m.clear (k / m.cols) (k % m.cols)).map
      fun k => (k / m.cols, k % m.cols)
  first.map fun p =>
    let r0 := p.1
    let c0 := p.2
    let hr := Nat.min (r0 / th * th + th) m.rows - r0
    let hc := Nat.min (c0 / tw * tw + tw) m.cols - c0
    if col then
      let h := runLength (fun i => m.clear (r0 + i) c0) hr
      (h, runLength (fun j => (upto h).all fun i => m.clear (r0 + i) (c0 + j)) hc, r0, c0)
    else
      let w := runLength (fun j => m.clear r0 (c0 + j)) hc
      (runLength (fun i => (upto w).all fun j => m.clear (r0 + i) (c0 + j)) hr, w, r0, c0)

/-- SHAPE as in bits [47:0] of a claim word (Table 13-11). -/
def shapeBits (x : Nat × Nat × Nat × Nat) : Nat := x.1 * 2 ^ 40 + x.2.1 * 2 ^ 32 + x.2.2.1 * 2 ^ 16 + x.2.2.2

/-- Memory cells of n bytes at offset o. -/
def CvMap.cells (m : CvMap) (o n x : Nat) : List (Nat × Byte) :=
  (leBytes n x).zipIdx.map fun p => (m.pa (o + p.2), p.1)

/-- Bitmap bytes with the cells of a shape set or clear. -/
def CvMap.mark (m : CvMap) (shape : Nat) (on : Bool) : List (Nat × Byte) :=
  let cs := (upto (bitsOf shape 40 8)).flatMap fun i => (upto (bitsOf shape 32 8)).map fun j =>
    m.cols * (bitsOf shape 16 16 + i) + (bitsOf shape 0 16 + j)
  let bytes := cs.foldl (fun acc b => insertOnce (b / 8) acc) []
  bytes.map fun k =>
    let old := memGet m.mem (m.pa (m.bitmap + k))
    let bits := BitVec.ofNat 8 ((cs.filter fun b => b / 8 = k).foldl (fun x b => x ||| 2 ^ (b % 8)) 0)
    (m.pa (m.bitmap + k), if on then old ||| bits else old &&& ~~~bits)

/-- Translation context of map accesses: no access of the task (R292). -/
def mapXlat (s : State) : Xlat := { ctxXlat s s.cur with phased := false }

/-- Pages of n bytes of the map, checked as an atomic (R274). -/
def mapPages (s : State) (va n : Nat) (k : State → List (Nat × Phys) → Out) : Out :=
  match translatePages s (mapXlat s) .atomic true false (rangePages va n) [] [] with
  | (s1, pages, []) => k (notePages s1 7 pages) pages
  | (s1, _, fs) => pageFaultNow s1 7 .atomic fs

/-- Memory that the check of a map reads: current, with the context's own withheld stores (R139, R292). -/
def mapMem (s : State) : Memory := if s.ctx.phased then s.mem else viewMem s s.cur

/-- The map's bytes. -/
def CvMap.bytes (m : CvMap) : List Byte := (upto m.len).map fun o => memGet m.mem (m.pa o)

/-- The map that the check has read, on which the operation acts (R139). -/
def mapAt (s : State) (va : Nat) : CvMap :=
  let m : CvMap := { va := va, pages := pagesAt s 7, mem := [] }
  { m with mem := memWriteCells [] ((bytesAt s 7).zipIdx.map fun p => (m.pa p.2, p.1)) }

/-- The map at an address: for the check aligned, every page of it admitted, its lines free of poison. -/
def withMap (s : State) (va : Nat) (k : State → CvMap → Out) : Out :=
  match s.stage with
  | .commit => k s (mapAt s va)
  | .issue =>
    if va % 64 ≠ 0 then alignFault s 7 0
    else mapPages s va 64 fun s1 pages =>
      let head : CvMap := { va := va, pages := pages, mem := mapMem s1 }
      mapPages s1 va head.len fun s2 all =>
        let m : CvMap := { head with pages := all }
        let lines := linesOf all (addrsFrom va m.len)
        let s2 := engAsk s2 s2.cur ((addrsFrom va m.len).map (physOf all))
        let m : CvMap := { m with mem := mapMem s2 }
        lineClean s2 7 lines (touching s2 lines fun s3 =>
          k (noteBytes (noteRead s3 (lines.map fun l => (64 * l, 64))) 7 m.bytes) m)

/-- A Coverage Fault. -/
def coverageFault (s : State) : Out := trapNow s 7 0x12 0

/-- The context runs the launch's tuner (R279). -/
def isTuner (s : State) : Bool :=
  let r := (s.launchOf s.ctx.launch).record
  recTune r && s.ctx.task + 1 == taskTotal r

/-- Lowest free entry of the claim table. -/
def CvMap.free (m : CvMap) : Option Nat := (upto m.tags).find? fun t => m.state t = 0

/-- A page of the map that lies in a module that no link reaches. -/
def CvMap.lost (m : CvMap) (s : State) : Option Nat :=
  (m.pages.find? fun p => rangeOf p.2.pa = .fabric && !reachable s (fabModule p.2.pa)).map fun p => p.2.pa

/-- Schedule register that the map names. -/
def mapSchedule (s : State) (m : CvMap) : Nat := (amGet (0 : Word) (s.launchOf s.ctx.launch).sched m.sreg).toNat

/-- The claim of context n on entry t. -/
def claimCells (s : State) (m : CvMap) (t : Nat) (x : Nat × Nat × Nat × Nat) : List (Nat × Byte) :=
  m.mark (shapeBits x) true ++ m.cells (0x40 + 16 * t) 8 (2 ^ 62 + s.ctx.task)
    ++ m.cells (0x48 + 16 * t) 8 (shapeBits x)

/-- The map's bytes stored, each of which has its own point; those of another module leave as requests, performed after
every earlier one of their lanes (R84, R292). -/
def mapStore (s : State) (cells : List (Nat × Byte)) : State :=
  let far := fun (x : Nat × Byte) => rangeOf x.1 == .fabric
  fabStoreNow (s.perform (some s.cur) (cells.filter fun x => !far x)) s.cur (cells.filter far)

/-- CVCLAIM (R274, R292). -/
def execCvclaim (g : Guard) (sd sa : SCode) (land : BitVec 6) (s : State) : Out :=
  if !s.guardOn g then (match s.stage with | .issue => holdLanding s land | .commit => .next s)
  else readingS s 7 [sa] (withMap s (s.readS sa).toNat fun s1 m =>
    let x := m.choose (mapSchedule s1 m)
    match s1.stage with
    | .issue =>
      if isTuner s1 then coverageFault s1
      else if x.isSome && m.free.isNone then coverageFault s1
      else .next (takeLanding s1 land true true)
    | .commit =>
      match m.lost s1, x, m.free with
        | some pa, _, _ =>
          let s2 := fabSend s1 s1.cur 6 0 pa (.read (bitsOf pa 0 40) 1)
          withAsks s1 (.scalar 64 false) [] [askOf s2 pa 1] [] (finishS s2 sd 0 land.toNat)
        | none, some _, none => coverageFault s1
        | none, some x, some t =>
          let s2 := mapStore s1 (claimCells s1 m t x)
          let k : Claim := { mapPa := m.pa 0, tag := t, dropped := false, va := m.va,
                             pages := m.pages.map fun p => (p.1, p.2.pa) }
          let s3 := s2.setCtx { s2.ctx with claims := s2.ctx.claims ++ [k] }
          finishS s3 sd (BitVec.ofNat 64 (t * 2 ^ 48 + shapeBits x)) land.toNat
        | none, none, _ => finishS s1 sd (BitVec.ofNat 64 (2 ^ 63)) land.toNat)

/-- The context's claim under a tag of the map. -/
def heldClaim (s : State) (m : CvMap) (t : Nat) : Option Claim :=
  s.ctx.claims.find? fun k => k.mapPa == m.pa 0 && k.tag == t

/-- The claim word names cells that the context holds under its TAG: the claim is its own, and the map records it: entry TAG
is held, by the context's task, with the claim word's shape (Table 14-6; DEDUCED, log 31). -/
def claimHeld (s : State) (m : CvMap) (w : Nat) : Bool :=
  let t := bitsOf w 48 12
  (heldClaim s m t).isSome && t < m.tags && m.state t = 1 && m.word (0x40 + 16 * t) 4 = s.ctx.task
    && bitsOf (m.word (0x48 + 16 * t) 8) 0 48 = bitsOf w 0 48 && bitsOf w 63 1 = 0

/-- CVDONE (R274, R292): STATE 10 at its commit; of a released claim no effect (R296). -/
def execCvdone (g : Guard) (sa sb : SCode) (s : State) : Out :=
  guarded g s (readingS s 7 [sa, sb] (withMap s (s.readS sa).toNat fun s1 m =>
    let w := (s1.readS sb).toNat
    let t := bitsOf w 48 12
    let dropped := match heldClaim s1 m t with | some k => k.dropped | none => false
    match s1.stage with
    | .issue =>
      if dropped || claimHeld s1 m w then .next s1 else coverageFault s1
    | .commit =>
      let s2 := if dropped || (m.lost s1).isSome then s1
        else mapStore s1 (m.cells (0x40 + 16 * t) 8 (2 ^ 63 + s1.ctx.task))
      .next (s2.setCtx { s2.ctx with claims := s2.ctx.claims.filter fun k => !(k.mapPa == m.pa 0 && k.tag == t) })))

end Sys2Proof.Machine
end

