-- ==== Sys2Proof/Machine/Place.lean ====
section
/-! DEFINITION. The dispatcher: readiness, the selection of a queue, placement of instances, the start of a task,
pre-emption requests, lending (R280, R282 to R288). -/

namespace Sys2Proof.Machine

/-! ### Units that are free (R286) -/

/-- What one task needs of its core, and whether it runs in a gang. -/
structure Need where
  awin : Nat
  swin : Nat
  wstiles : Nat
  gang : Bool
deriving DecidableEq, Repr

/-- Where a task goes. -/
structure Spot where
  ctx : Nat
  awin : Nat
  swin : Nat
  /-- Tiles of the write set. -/
  ws : List Nat
deriving DecidableEq, Repr

/-- What a context takes of its core: accumulator run, stash run, write-set tiles. -/
structure Taken where
  abase : Nat
  acount : Nat
  sbase : Nat
  scount : Nat
  ws : List Nat
deriving DecidableEq, Repr

/-- First start of n free consecutive places below cap beside the taken runs. -/
def freeRun (used : List (Nat × Nat)) (cap n : Nat) : Option Nat :=
  let starts := 0 :: used.map fun u => u.1 + u.2
  let ok := starts.filter fun b => b + n ≤ cap && used.all fun u => !(rangesMeet b n u.1 u.2)
  match ok with
  | [] => none
  | b :: bs => some (bs.foldl Nat.min b)

/-- The first n tiles, from the highest down, that no run and no write set takes. -/
def freeTiles (used : List (Nat × Nat)) (n : Nat) : Option (List Nat) :=
  let ts := ((upto 512).reverse.filter fun i => used.all fun u => !(rangesMeet i 1 u.1 u.2)).take n
  if ts.length = n then some ts else none

/-- One more task on a core beside what is taken; the write-set tiles may lie anywhere beside every window (R113, R286). -/
def fitTask (need : Need) (taken : List Taken) : Option Taken :=
  let tiles := (taken.map fun t => (t.sbase, t.scount)) ++ taken.flatMap fun t => t.ws.map fun i => (i, 1)
  match freeRun (taken.map fun t => (t.abase, t.acount)) 3072 need.awin, freeRun tiles 512 need.swin with
  | some a, some b =>
    (freeTiles ((b, need.swin) :: tiles) need.wstiles).map fun ws =>
      { abase := a, acount := need.awin, sbase := b, scount := need.swin, ws := ws }
  | _, _ => none

/-- A context of core k counts as holding no task; gone: contexts whose saves are supposed. -/
def isFree (s : State) (gone : List Nat) (n : Nat) : Bool := (s.ctxOf n).life = .idle || n ∈ gone

/-- What the other contexts of a core take. -/
def takenOn (s : State) (gone : List Nat) (k : Nat) : List Taken :=
  (((upto 4).map fun i => 4 * k + i).filter fun n => !isFree s gone n).map fun n =>
    let c := s.ctxOf n
    { abase := c.awinBase, acount := c.awinCount, sbase := c.swinBase, scount := c.swinCount, ws := c.wsPlaces }

/-- Tasks put one after the other on these free contexts. -/
def fitOn (need : Need) : List Nat → List Taken → Nat → Option (List Spot)
  | _, _, 0 => some []
  | [], _, _ + 1 => none
  | n :: ns, taken, k + 1 =>
    match fitTask need taken with
    | none => none
    | some t => (fitOn need ns (t :: taken) k).map fun r => { ctx := n, awin := t.abase, swin := t.sbase, ws := t.ws } :: r

/-- n tasks on core k. -/
def fitCore (s : State) (gone : List Nat) (need : Need) (n k : Nat) : Option (List Spot) :=
  let free := (((upto (if need.gang then 1 else 4)).map fun i => 4 * k + i).filter (isFree s gone))
  fitOn need free (takenOn s gone k) n

/-- n of the units, the first ones in which f finds room. -/
def fitMany (f : Nat → Option (List Spot)) : Nat → List Nat → Option (List Spot)
  | 0, _ => some []
  | _ + 1, [] => none
  | n + 1, u :: us =>
    match f u with
    | none => fitMany f (n + 1) us
    | some r => (fitMany f n us).map fun q => r ++ q

/-- COUNT of the level with a domain; one when the hierarchy has none. -/
def domainCount (r : List Byte) (d : Nat) : Nat :=
  match (upto (levelTotal r)).find? fun n => levelDomain r n = d with
  | some n => levelCount r n
  | none => 1

/-- One instance of a launch on candidate ridges: each member in a distinct unit of its domain, nested (R286). More than
one module or fabric group does not fit in one module (DESIGN CHOICE, log 27). -/
def fitInstance (s : State) (gone ridges : List Nat) (r : List Byte) (need : Need) : Option (List Spot) :=
  let ridge := fun u => fitMany (fitCore s gone need (domainCount r 0)) (domainCount r 1) ((upto 16).map fun k => 16 * u + k)
  if 1 < domainCount r 4 || 1 < domainCount r 5 then none
  else if (upto (levelTotal r)).any fun n => levelDomain r n = 6 then
    (if domainCount r 2 = 1 then fitMany ridge (domainCount r 6) ridges else none)
  else
    fitMany (fun d => fitMany ridge (domainCount r 2) (ridges.filter fun u => u / 13 = d)) (domainCount r 3) (upto 8)

/-- What a launch's tasks need. -/
def needOf (r : List Byte) : Need :=
  { awin := recAwin r, swin := recSwin r, wstiles := recWstiles r, gang := levelGang r 0 }

/-! ### Partitions and lending (R284, R287) -/

/-- Partition p. -/
def State.partition (s : State) (p : Nat) : Partition := amGet Partition.reset s.parts p
/-- LEND of a partition. -/
def Partition.lends (p : Partition) : Bool := p.cfg.getLsbD 32
/-- WDOG of a partition. -/
def Partition.wdog (p : Partition) : Nat := bitsOf p.cfg.toNat 0 32

/-- The dependences of a launch are met (R283). A handle with a reserved code names no counter (DESIGN CHOICE, log 28). -/
def depsMet (s : State) (r : List Byte) : Bool :=
  (upto (recNdep r)).all fun j => !handleIllegal (recDepH r j) && waitMet s (recDepH r j) (recDepV r j)

/-- The head of queue q is ready; an image always is. -/
def headReady (s : State) (q : Nat) : Bool :=
  let x := s.lq q
  x.enabled && match x.items with
    | .launch id :: _ => depsMet s (s.launchOf id).record
    | .image _ :: _ => true
    | [] => false

/-- Queues of partition p with a ready head, ascending. -/
def readyQueues (s : State) (p : Nat) : List Nat := (upto 64).filter fun q => (s.lq q).part = p && headReady s q

/-- All 64 contexts of ridge r hold no task; gone: contexts whose saves are supposed. -/
def ridgeIdle (s : State) (gone : List Nat) (r : Nat) : Bool :=
  s.ctxs.all fun c => c.1 / 64 ≠ r || 2 ^ 20 ≤ c.1 || c.2.life = .idle || c.1 ∈ gone

/-- Ridges that p may borrow, ascending (R287). -/
def borrowable (s : State) (gone : List Nat) (p : Nat) : List Nat :=
  enabledRidges.filter fun r => (upto 16).any fun q =>
    q ≠ p && (s.partition q).lends && r ∈ (s.partition q).ridges && ridgeIdle s gone r && (readyQueues s q).isEmpty

/-- A launch with named barriers takes no ridge whose barriers another launch owns (R280). -/
def barriersFree (s : State) (id nbar : Nat) (r : Nat) : Bool :=
  nbar = 0 || ((upto 16).all fun i => match (s.barrier (17 * r + i)).owner with | some o => o = id | none => true)

/-- Ridges on which an instance of launch id may be placed. -/
def candidates (s : State) (gone : List Nat) (p id : Nat) : List Nat :=
  let l := s.launchOf id
  ((s.partition p).ridges ++ borrowable s gone p).filter fun r => r ∉ s.fused && barriersFree s id (recNbar l.record) r

/-- The module barrier is free for the launch (R280). -/
def moduleBarrierFree (s : State) (id : Nat) : Bool :=
  !recMbar (s.launchOf id).record || match (s.barrier 16).owner with | some o => o = id | none => true

/-! ### Placing an instance -/

/-- Coordinates at the software levels. -/
def softCoords (r : List Byte) (cs : List Nat) : List Nat :=
  (cs.zipIdx.filter fun p => levelDomain r p.2 = 7).map Prod.fst

/-- The next tasks to place together: a retried task alone, or the next instance whole; tasks in ascending identifier. -/
def nextInstance (l : Launch) : List TaskRec :=
  let todo := l.tasks.filter fun t => t.state = .unplaced
  match todo.find? fun t => 0 < t.retries with
  | some t => [t]
  | none =>
    match todo with
    | [] => []
    | t :: _ => todo.filter fun u => softCoords l.record u.coords == softCoords l.record t.coords

/-- Spots for the next tasks of launch id. A retried member of a hardware domain goes back to its core, so that the units of
its instance stay nested, its gang whole and its barriers its own (R147, R280, R286; DESIGN CHOICE, log 97). -/
def spotsFor (s : State) (gone : List Nat) (p id : Nat) : Option (List Spot) :=
  let l := s.launchOf id
  let need := needOf l.record
  let rs := candidates s gone p id
  if !moduleBarrierFree s id then none
  else match nextInstance l with
    | [] => none
    | t :: _ =>
      if t.retries = 0 then fitInstance s gone rs l.record need
      else if (hardDomains l.record).isEmpty then
        fitMany (fun u => fitMany (fitCore s gone need 1) 1 ((upto 16).map fun k => 16 * u + k)) 1 rs
      else if t.core / 16 ∈ rs then fitCore s gone need 1 t.core
      else none

/-- Timeline slots are free for the next tasks of launch id (R87). -/
def slotsFor (s : State) (id : Nat) : Bool := (nextInstance (s.launchOf id)).length ≤ freeSlotCount s

/-- The start of a task (R288): state cleared, registers set, a checkpoint. -/
def startTask (s : State) (id : Nat) (t : TaskRec) (spot : Spot) : State :=
  let l := s.launchOf id
  let r := l.record
  match freeSlot s with
  | none => s
  | some k =>
    let gang := levelGang r 0
    let rank := if gang then t.coords.headD 0 else 0
    let a := { Arch.zero with pc := BitVec.ofNat 64 (recWord r 0), ttb := l.ttb, asid := l.asid }
    let c := { Ctx.idle with
      arch := a, ckpt := a, life := .running, launch := id, task := t.id, levels := (recCounts r).zip t.coords,
      part := l.part, prio := l.prio, awinBase := spot.awin, awinCount := recAwin r, swinBase := spot.swin,
      swinCount := recSwin r, slot := k, gang := gang, rank := rank, skew := if gang then recSkew r rank else 0,
      phased := recPhased r, wstiles := recWstiles r, phase := if recPhased r then l.phase else 0,
      wsPlaces := spot.ws, placed := s.tick, fetchFrom := s.history.length }
    let s1 := (holdSlot s k).setCtxOf spot.ctx c
    s1.modLaunch id fun l => modTask l t.id fun t => { t with state := .placed spot.ctx, core := coreOf spot.ctx }

/-- The barriers of a launch as its placement sets them (R280). -/
def setBarriers (s : State) (id : Nat) (r : List Byte) (spots : List Spot) : State :=
  let rs := spots.foldl (fun acc p => insertOnce (ridgeOf p.ctx) acc) []
  let new := fun e => { expect := e, count := 0, phase := 0, drops := 0, owner := some id : Barrier }
  let s1 := rs.foldl (fun s u =>
    (upto (recNbar r)).foldl (fun s i =>
      { s with barriers := amSet s.barriers (17 * u + i) (new (spots.filter fun p => ridgeOf p.ctx = u).length) }) s) s
  if recMbar r then { s1 with barriers := amSet s1.barriers 16 (new (taskTotal r)) } else s1

/-- What the snapshot read of a launch comes to (R282): GBLK's 128 bytes and the dependence fields, pages that fail, or a
poisoned line. -/
inductive Snapshot where
  | ok (s : State) (gblk deps : List Byte)
  | fault (s : State) (fs : List PageFault)
  | poison (s : State) (line : Nat)

/-- GBLK and the dependence fields of the record read as one access at the snapshot point, checked as a scalar load of
ordinary memory (R282). Before it a head is ready by the fields that the launch's commit has read (R273, R283; DEDUCED,
log 96). -/
def snapshotRead (s : State) (l : Launch) : Snapshot :=
  let gblk := if recGblk l.record = 0 then [] else addrsFrom (recGblk l.record) 128
  let deps := if recNdep l.record = 0 then [] else addrsFrom (l.va + 0xC0) 64
  let x : Xlat := { asid := l.asid, ttb := bitsOf l.ttb.toNat 12 40 * 4096, handler := false, phased := false, ctx := none }
  match translatePages s x .vectorLoad false false (distinctPages ((gblk ++ deps).map fun a => (a / 65536, 0)) []) [] [] with
  | (s1, pages, []) =>
    match (linesOf pages (gblk ++ deps)).find? fun k => decide (k ∈ s1.poison) with
    | some k => .poison s1 k
    | none =>
      let read := fun (a : Nat) => let p := physOf pages a
                                   if p.kind = .zero then 0 else memGet s1.mem (homePa p.pa)
      .ok s1 (if gblk = [] then List.replicate 128 0 else gblk.map read)
        (if deps = [] then l.record.drop 0xC0 else deps.map read)
  | (s1, _, fs) => .fault s1 fs

/-- Number of a launch on engine context 5. -/
def launchNum (l : Launch) : Nat := match l.launcher with | .task _ _ _ n => n | .front _ _ n => n

/-- The launch leaves its queue. -/
def leaveQueue (s : State) (id : Nat) : State :=
  { s with queues := s.queues.map fun q => (q.1, { q.2 with items := q.2.items.filter (· ≠ .launch id) }) }

/-- The launch completes with a failure status, and none of its tasks runs. -/
def failLaunch (s : State) (id : Nat) : State :=
  let s1 := s.modLaunch id fun l => { l with
    failed := true, tasks := l.tasks.map fun t => if t.state.ended then t else { t with state := .failed } }
  launchComplete (leaveQueue s1 id) id

/-- The failure of a snapshot read: one ring entry, then the launch completes (R282). -/
def failSnapshot (s : State) (id : Nat) (fs : List PageFault) : State :=
  let l := s.launchOf id
  let record := faultRecord l.asid.toNat Access.engine.code 7 0 fs (launchNum l)
  failLaunch (forwardEntry s l.asid.toNat (bareEntry l.asid.toNat 0x10 record)).1 id

/-- A launch record with its dependence fields as read at the snapshot point. -/
def withDeps (r deps : List Byte) : List Byte :=
  (upto 256).map fun i => if i < 0xC0 then r.getD i 0 else deps.getD (i - 0xC0) 0

/-- The snapshot point of a launch: schedule registers and dependence fields set, and for a phased launch the memory that its
tasks read (R109, R282). -/
def takeSnapshot (s : State) (id : Nat) (bs deps : List Byte) : State :=
  s.modLaunch id fun l => { l with
    record := withDeps l.record deps, started := true, snap := if recPhased l.record then s.mem else [],
    snapZero := if recPhased l.record then s.zeroLines else [],
    sched := (upto 16).foldl (fun m k => amSet m k (BitVec.ofNat 64 (recWord bs (8 * k)))) [] }

/-- The kernel's entry lies on a page of an object that no longer passes check 0x07, and of none that does (R334). -/
def staleObject (s : State) (l : Launch) : Bool :=
  match walk s.mem s.poison (bitsOf l.ttb.toNat 12 40 * 4096) (recWord l.record 0) with
  | .error _ => false
  | .ok leaf =>
    let chunk := leafPa leaf (recWord l.record 0) / 4096
    let native := fun (o : LoadedObject) => o.native && o.obj.native.any fun x => x.frames.any fun f => f / 65536 == chunk / 16
    let holders := s.trust.objects.filter fun o => native o.2 || o.2.resident.any fun r => r.2 / 4096 == chunk
    !holders.isEmpty && holders.all fun o => decide (o.2.svn < s.trust.fusectr.toNat)

/-- The tasks of a launch that have not been placed never run; those that run go on (R334). -/
def refuseRest (s : State) (id : Nat) : State :=
  let s1 := s.modLaunch id fun l => { l with
    failed := true, tasks := l.tasks.map fun t => if t.state = .unplaced then { t with state := .failed } else t }
  launchCheck (leaveQueue s1 id) id

/-- One instance placed at these spots, and whether it was: none of its tasks runs when the snapshot read fails (R282) or
its object has been refused (R334). -/
def placeAt (s : State) (id : Nat) (spots : List Spot) : State × Bool :=
  let l := s.launchOf id
  let ts := nextInstance l
  let go := fun (s : State) => (ts.zip spots).foldl (fun s p => startTask s id p.1 p.2) s
  if staleObject s l then (refuseRest s id, false)
  else if l.started then (go s, true)
  else match snapshotRead s l with
    | .fault s1 fs => (failSnapshot s1 id fs, false)
    | .poison s1 k => (failLaunch (unitPoison s1 k) id, false)
    | .ok s1 bs deps => (go (setBarriers (takeSnapshot s1 id bs deps) id l.record spots), true)

/-- Instances of launch id placed while they fit; the answer tells whether any was. -/
def placeAll : Nat → State → Nat → Nat → Bool → State × Bool
  | 0, s, _, _, any => (s, any)
  | fuel + 1, s, p, id, any =>
    match nextInstance (s.launchOf id) with
    | [] => (leaveQueue s id, any)
    | _ :: _ =>
      if !slotsFor s id then (s, any)
      else match spotsFor s [] p id with
      | none => (s, any)
      | some spots =>
        match placeAt s id spots with
        | (s1, true) => placeAll fuel s1 p id true
        | (s1, false) => (s1, any)

/-- The instance cannot fit in its partition even when the partition is empty (R286). -/
def neverFits (s : State) (p id : Nat) : Bool :=
  let l := s.launchOf id
  let all := { s with ctxs := [] }
  let hs := (s.partition p).ridges.filter fun r => r ∉ s.fused
  !l.started && (fitInstance all [] hs l.record (needOf l.record)).isNone

/-! ### Restores (R285, R314) -/

/-- The images of a gang's sixteen ranks when im is one of them, by rank; else im alone. -/
def imageSet (s : State) (im : Nat) : List Nat :=
  let c := s.ctxOf (savedKey im)
  if c.gang then
    (upto 16).filterMap fun k => (s.images.find? fun p =>
      let d := s.ctxOf (savedKey p.1)
      d.launch = c.launch && d.gang && d.rank = k && d.levels.drop 1 == c.levels.drop 1).map Prod.fst
  else [im]

/-- The ridge that alone may take an image: of a launch with named barriers the one that held the task (R314), or, for an
image from another module, the one given to the tasks that shared its ridge there (R315). -/
def imageHome (s : State) (im : Nat) : Option Nat :=
  if 0 < recNbar (s.launchOf (s.ctxOf (savedKey im)).launch).record then
    (match amFind s.images im with
     | some x => (match x.foreign with | none => some x.ridge | some f => f.chosen)
     | none => none)
  else none

/-- Ridges to which an image may be restored. -/
def imageRidges (s : State) (gone : List Nat) (p im : Nat) : List Nat :=
  match imageHome s im with
  | some r => [r]
  | none => candidates s gone p (s.ctxOf (savedKey im)).launch

/-- The timeline slot that the task held before is its own, or, for an image from another module, free here (R314,
R315). -/
def imageSlotFree (s : State) (im : Nat) : Bool :=
  match amFind s.images im with
  | some x => x.foreign.isNone || !(amGet TSlot.free s.slots (s.ctxOf (savedKey im)).slot).held
  | none => false

/-- Spots for an image or a gang's image set. -/
def imageSpots (s : State) (gone : List Nat) (p im : Nat) : Option (List Spot) :=
  let c := s.ctxOf (savedKey im)
  let need : Need := { awin := c.awinCount, swin := c.swinCount, wstiles := c.wstiles, gang := c.gang }
  let n := if c.gang then 16 else 1
  if (imageSet s im).length ≠ n || !((imageSet s im).all (imageSlotFree s)) then none
  else fitMany (fun u => fitMany (fitCore s gone need 1) n ((upto 16).map fun k => 16 * u + k)) 1 (imageRidges s gone p im)

/-- The restores of an image set onto its spots are under way. -/
def beginRestore (s : State) (im : Nat) (spots : List Spot) : State :=
  let evs : List Instr := ((imageSet s im).zip spots).map fun x => .contextRestore x.1 (some x.2.ctx)
  if evs.any fun e => s.work.any (· == e) then s else { s with work := s.work ++ evs }

/-! ### Pre-emption (R285) -/

/-- Ridge of context n belongs to partition p. -/
def ownRidge (s : State) (p n : Nat) : Bool := decide (ridgeOf n ∈ (s.partition p).ridges)

/-- A context that could be pre-empted for queue q of partition p: a borrower's task on a ridge of p, or, for a queue with
PREEMPT, a task of p of lower PRIO, on its own ridges or on those lent to it (R285, R287). -/
def isVictim (s : State) (p q : Nat) (n : Nat) (c : Ctx) : Bool :=
  c.life = .running && decide (n < 2 ^ 20)
    && ((ownRidge s p n && c.part ≠ p) || (c.part = p && (s.lq q).preempts && decide (c.prio < (s.lq q).prio)))

/-- a is chosen before b: tasks on lent ridges first, then the lowest PRIO, then the most recently placed. -/
def victimBefore (s : State) (p : Nat) (a b : Nat × Ctx) : Bool :=
  let ka := (a.2.part == p && ownRidge s p a.1, a.2.prio)
  let kb := (b.2.part == p && ownRidge s p b.1, b.2.prio)
  if ka.1 ≠ kb.1 then !ka.1
  else if ka.2 ≠ kb.2 then decide (ka.2 < kb.2)
  else decide (b.2.placed < a.2.placed) || (a.2.placed = b.2.placed && decide (a.1 ≤ b.1))

/-- Insertion in the order of choice. -/
def insertVictim (s : State) (p : Nat) (x : Nat × Ctx) : List (Nat × Ctx) → List (Nat × Ctx)
  | [] => [x]
  | y :: ys => if victimBefore s p x y then x :: y :: ys else y :: insertVictim s p x ys

/-- Victims in the order of choice. -/
def victims (s : State) (p q : Nat) : List Nat :=
  ((s.ctxs.filter fun c => isVictim s p q c.1 c.2).foldl (fun acc c => insertVictim s p c acc) []).map Prod.fst

/-- Contexts pre-empted with context n: all of its gang. -/
def preemptGroup (s : State) (n : Nat) : List Nat := if (s.ctxOf n).gang then gangOf n else [n]

/-- Spots for the head of queue q when some contexts are supposed saved. -/
def headSpots (s : State) (gone : List Nat) (p q : Nat) : Option (List Spot) :=
  match (s.lq q).items with
  | .launch id :: _ => spotsFor s gone p id
  | .image im :: _ => imageSpots s gone p im
  | [] => none

/-- The saves of these victims let the head of queue q fit. -/
def victimsDo (s : State) (p q : Nat) (vs : List Nat) : Bool := (headSpots s (vs.flatMap (preemptGroup s)) p q).isSome

/-- Victims without those, from the last chosen on, whose saves the head does not need. -/
def neededVictims (s : State) (p q : Nat) : List Nat → List Nat → List Nat
  | kept, [] => kept
  | kept, v :: vs => if victimsDo s p q (vs.reverse ++ kept) then neededVictims s p q kept vs else neededVictims s p q (v :: kept) vs

/-- Pre-emption of the first victims in the order of choice whose saves let the head of queue q fit, but for those among them
that do not help (R285; DESIGN CHOICE, log 127). A head that fits already lacks timeline slots alone, which no save frees. -/
def requestPreempt (s : State) (p q : Nat) : State :=
  let vs := victims s p q
  match (upto (vs.length + 1)).find? fun k => victimsDo s p q (vs.take k) with
  | none => s
  | some k => ((neededVictims s p q [] (vs.take k).reverse).flatMap (preemptGroup s)).foldl ctlSave s

/-! ### Selection (R284) -/

/-- Queue q has waited AGE wall cycles or more. -/
def queueAged (s : State) (q : Nat) : Bool := decide (s.age.toNat ≤ s.wall - (s.lq q).since)

/-- Queues of one PRIO, from the one after the last served on. -/
def rotated (last : Option Nat) (qs : List Nat) : List Nat :=
  match last with
  | none => qs
  | some l => (qs.filter fun q => decide (l < q)) ++ qs.filter fun q => decide (q ≤ l)

/-- Order in which the ready queues of a partition are tried: the aged ones ascending, then by PRIO. -/
def tryOrder (s : State) (p : Nat) : List Nat :=
  let ready := readyQueues s p
  let aged := ready.filter (queueAged s)
  let rest := (upto 8).reverse.flatMap fun prio =>
    rotated (amFind (s.partition p).lastServed prio) (ready.filter fun q => (s.lq q).prio = prio)
  aged ++ rest.filter fun q => q ∉ aged

/-- Queue q has been served. -/
def served (s : State) (p q : Nat) : State :=
  { s with queues := amMod LaunchQueue.reset s.queues q fun x => { x with since := s.wall, served := true },
           parts := amMod Partition.reset s.parts p fun x => { x with lastServed := amSet x.lastServed (s.lq q).prio q } }

/-- What the trial of a queue's head comes to. -/
inductive HeadTry where
  /-- An instance was placed. -/
  | served
  /-- The restore of an image is under way: the queue is served once the image has been placed. -/
  | begun
  /-- It can place no instance now. -/
  | passed
  /-- It has left its queue with no instance placed. -/
  | gone
deriving DecidableEq, Repr

/-- The head of queue q tried. -/
def tryHead (s : State) (p q : Nat) : State × HeadTry :=
  match (s.lq q).items with
  | .launch id :: _ =>
    if nextInstance (s.launchOf id) = [] then (leaveQueue s id, .gone)
    else if neverFits s p id then (failLaunch s id, .gone)
    else
      let x := placeAll (s.launchOf id).tasks.length s p id false
      let last := decide (nextInstance (x.1.launchOf id) = [])
      let s1 := if last then leaveQueue x.1 id else x.1
      if x.2 then (served s1 p q, .served) else (s1, if last then .gone else .passed)
  | .image im :: _ =>
    (match imageSpots s [] p im with
     | some spots => (beginRestore s im spots, .begun)
     | none => (s, .passed))
  | [] => (s, .passed)

/-- The queues tried in order until one is served; a head that cannot place an instance may pre-empt and is passed
over. -/
def selectFrom (s : State) (p : Nat) : List Nat → State
  | [] => s
  | q :: qs =>
    match tryHead s p q with
    | (s1, .served) => s1
    | (s1, .begun) => s1
    | (s1, .passed) => selectFrom (requestPreempt s1 p q) p qs
    | (s1, .gone) => selectFrom s1 p qs

/-- The front end accepts launches once HBM is zeroed (R70). -/
def selectPartition (s : State) (p : Nat) : State := if s.hbmReady then selectFrom s p (tryOrder s p) else s

/-- PARTITION_SELECTION (R284). -/
def execPartitionSelection (part : Nat) (s : State) : Out := .next (selectPartition s part)

/-- QUEUE_AGED (R284): a ready queue that has waited AGE wall cycles is served first. -/
def execQueueAged (q : Nat) (s : State) : Out :=
  .next (if headReady s q && queueAged s q then selectPartition s (s.lq q).part else s)

end Sys2Proof.Machine
end

