-- ==== Sys2Proof/Machine/System.lean ====
section
/-! DEFINITION. The system operations of the Y slot, tile fills and drains, the end of a task, phases and their merge, the
watchdog, walks as steps of their own, soft errors (R12, R23 to R25, R53 to R58, R65, R114 to R117, R275 to R277,
R290). -/

namespace Sys2Proof.Machine

/-! ### Trap, fetch fence, retry -/

/-- TRAP (R275): the bundle commits, then the trap is taken with its own checkpoint. In handler mode the bundle takes no
effect (R304). -/
def execTrap (g : Guard) (sa : SCode) (code : BitVec 8) (s : State) : Out :=
  guarded g s (readingS s 7 [sa]
    (let fault := BitVec.ofNat 64 (code.toNat * 2 ^ 56 + bitsOf (s.readS sa).toNat 0 56)
     match s.stage with
     | .issue => if s.isHandler then trapNow s 7 0x08 fault else .next s
     | .commit => .next (s.setCtx { s.ctx with softTrap := some fault })))

/-- FFENCE (R277): later fetches read code as it stands now. -/
def execFfence (g : Guard) (s : State) : Out :=
  guarded g s
    (match s.stage with
     | .issue => .next s
     | .commit => .next (s.setCtx { s.ctx with fetchFrom := s.history.length }))

/-- BLOCKED_BUNDLE_RETRY (R129): the bundle counts as blocked no more, and is tried when its core issues. -/
def execBlockedBundleRetry (c : Nat) (s : State) : Out :=
  .next (s.setCtxOf c { s.ctxOf c with blocked := false })

/-! ### Invalidation of translations (R23 to R25) -/

/-- An invalidation of scope sc (R23): privileged whatever its guard; at the commit the entries are dropped and the wait
of R24 begins. -/
def tinvOp (g : Guard) (ss : List SCode) (sc : BitVec 3) (p : State → TlbEntry → Bool) (s : State) : Out :=
  if !s.isHandler then privileged s 7
  else guarded g s (readingS s 7 ss
    (match s.stage with
     | .issue => .next s
     | .commit =>
       let s1 := tlbDrop s s.cur sc.toNat (p s)
       let s2 := s1.setCtx { s1.ctx with wait := .tinv sc.toNat (droppedRanges s s.cur sc.toNat (p s)) }
       .next { s2 with work := s2.work ++ [.tinvComplete s.cur] }))

/-- TINV_PAGE (R23): bits [15:0] of the address are ignored. -/
def execTinvPage (g : Guard) (sa sb : SCode) (sc : BitVec 3) (s : State) : Out :=
  tinvOp g [sa, sb] sc (fun s => dropsPage (s.readS sa).toNat ((s.readS sb).setWidth 16)) s

/-- TINV_ASID (R23). -/
def execTinvAsid (g : Guard) (sb : SCode) (sc : BitVec 3) (s : State) : Out :=
  tinvOp g [sb] sc (fun s => dropsAsid ((s.readS sb).setWidth 16)) s

/-- TINV_ALL (R23). -/
def execTinvAll (g : Guard) (sc : BitVec 3) (s : State) : Out := tinvOp g [] sc (fun _ _ => true) s

/-- Context m lies in scope of context n: 1 core, 2 ridge, 3 die, 4 module (R23). -/
def ctxInScope (n scope m : Nat) : Bool :=
  match scope with
  | 1 => coreOf m = coreOf n
  | 2 => ridgeOf m = ridgeOf n
  | 3 => dieOf m = dieOf n
  | _ => true

/-- n bytes at a physical address meet one of the ranges. -/
def inRanges (rs : List (Nat × Nat)) (a n : Nat) : Bool := rs.any fun r => rangesMeet r.1 r.2 a n

/-- Addresses of a fabric request in the window, each with a length. -/
def fabSpans (r : FabReq) : List (Nat × Nat) :=
  let at_ := fun (off n : Nat) => (0xC000000000000 + r.dest * 2 ^ 40 + off, n)
  match r.act with
  | .read off n => [at_ off n]
  | .write off bs => [at_ off bs.length]
  | .writes cs => cs.map fun c => at_ c.1 1
  | .atomic _ ty off _ _ => [at_ off ty.bytes]

/-- A context of a core holds the brake line by a wait of its own (R24, R82). -/
def coreWaits (s : State) (k : Nat) : Bool :=
  (upto 4).any fun i => let w := (s.ctxOf (4 * k + i)).wait
                        w != .none && w != .gangHold

/-- Context 0 of the ridge's cores holds a gang. -/
def gangRidge (s : State) (r : Nat) : Bool := (upto 16).any fun i => (s.ctxOf (64 * r + 4 * i)).gang

/-- A context of the core waits for an invalidation. -/
def coreInvalidates (s : State) (k : Nat) : Bool :=
  (upto 4).any fun i => match (s.ctxOf (4 * k + i)).wait with | .tinv _ _ => true | _ => false

/-- Core k cannot issue before an invalidation ends, that of core j or another which may wait for j's: it is braked by its own,
or with the ridge of a gang (R24, R149). -/
def stuckBehind (s : State) (j k : Nat) : Bool :=
  let braked := fun (i : Nat) => i == j || coreInvalidates s i
  braked k || (gangRidge s (k / 16) && (upto 16).any fun i => braked (16 * (k / 16) + i))

/-- An access in the scope of context n that was translated to one of the ranges is still to be performed (R24): a store
withheld, one at a device port, a request in the fabric, a reduction at its unit. Stores withheld on a core that an
invalidation brakes are not waited for, since they cannot commit before it ends, and neither is a request that no link
delivers (DESIGN CHOICE, log 99). -/
def stillToPerform (s : State) (n scope : Nat) (rs : List (Nat × Nat)) : Bool :=
  (s.devOut.any fun d => ctxInScope n scope d.ctx && inRanges rs d.pa d.n) ||
  (s.fabric.out.any fun o => ctxInScope n scope o.ctx && reachable s o.req.dest && (fabSpans o.req).any fun x => inRanges rs x.1 x.2) ||
  (s.reductions.any fun r =>
    (s.ctxs.any fun p => p.2.life ≠ .idle && p.2.slot == r.slot && ctxInScope n scope p.1) &&
      (r.operands.any (·.any (inRanges rs · 65536)) || r.result.any (inRanges rs · 65536) || inRanges rs r.flag 8)) ||
  s.ctxs.any fun p => p.1 < 2 ^ 20 && ctxInScope n scope p.1 && !stuckBehind s (coreOf n) (coreOf p.1) &&
    p.2.withheld.any fun o => o.lines.any fun l => inRanges rs (64 * l) 64

/-- TINV_COMPLETE (R24): the accesses in the scope that the dropped entries translated have been performed. -/
def execTinvComplete (c : Nat) (s : State) : Out :=
  let x := s.ctxOf c
  match x.wait with
  | .tinv scope rs =>
    if stillToPerform s c scope rs then .next { s with work := s.work ++ [.tinvComplete c] }
    else .next (s.setCtxOf c { x with wait := .none })
  | _ => .next s

/-- A walker's translation context for a walk that is asked for by itself. -/
def walkXlat (w : WalkReq) : Xlat := { asid := w.asid, ttb := w.ttb, handler := true, phased := false, ctx := none }

/-- TABLE_WALK (R12, R13): one walk; a completed translation sets A, and D for a write. -/
def execTableWalk (w : WalkReq) (s : State) : Out :=
  .next (translatePages s (walkXlat w) (if w.write then .scalarStore else .scalarLoad) w.write false
    [(w.va.toNat / 65536, 0)] [] []).1

/-! ### Stash tiles (R53, R57, R58) -/

/-- A tile that serves context n maps the page of tile number pa; zero: a zero page. -/
def servingMaps (s : State) (n pa : Nat) (zero : Bool) : Bool :=
  s.stash.any fun p => p.2.state ≠ .empty && p.2.zeroPage == zero && p.2.pa == pa && servedBy s n p.1

/-- Translation of a map of 4 KiB at va as a stash fill, CLASS 6; write: y.smap.z, whose page is written too (R58). -/
def mapTarget (s : State) (va : Nat) (write : Bool) (k : State → Phys → Out) : Out :=
  match s.stage with
  | .commit => k s (physOf (pagesAt s 7) va)
  | .issue =>
    match translatePages s (ctxXlat s s.cur) .stashFill write false [(va / 65536, 0)] [] [] with
    | (s1, _, f :: fs) => pageFaultNow s1 7 .stashFill (f :: fs)
    | (s1, pages, []) => k (notePages s1 7 pages) (physOf pages va)

/-- SMAP (R57, R58). -/
def execSmap (g : Guard) (op : BitVec 2) (q : QCode) (sa : SCode) (s : State) : Out :=
  if s.ctx.swinCount ≤ q.toNat || 2 ≤ op.toNat then illegal s 7 0x0E
  else guarded g s (readingS s 7 [sa]
    (let i := tileIx s s.cur q.toNat
     let va := (s.readS sa).toNat
     let z := op.toNat == 1
     mapTarget0 i va z))
where
  mapTarget0 (i va : Nat) (z : Bool) : Out :=
    if s.stage = .issue && ((s.tile i).state ≠ .empty || va % 4096 ≠ 0) then stashFault s 7
    else mapTarget s va z fun s1 p =>
      let zero := p.kind == .zero
      let cells := cellsAt p.pa (List.replicate 4096 0)
      match s1.stage with
      | .issue =>
        if servingMaps s1 s1.cur (p.pa / 4096) zero then stashFault s1 7
        else if z && wsOverflows s1 s1.cur (s1.ctx.withheld ++ [.store cells]) then trapNow s1 7 0x1B 0
        else .next s1
      | .commit =>
        let all := BitVec.allOnes 64
        let t : StashTile := { StashTile.empty with pa := p.pa / 4096, va := va / 4096, zeroPage := zero }
        if z then
          -- A released claim's write of zeros is dropped, and its flags with it (R296).
          let on : BitVec 64 := if s1.ctx.dropsWrites then 0 else all
          .next ((performStores s1 s1.cur 6 0 cells).setTile i
            { t with state := .ready, present := all, zero := on, dirty := if s1.ctx.phased then 0 else all })
        else .next (s1.setTile i { t with state := .filling })

/-- SDRAIN (R57, R58). -/
def execSdrain (g : Guard) (op : BitVec 2) (q : QCode) (s : State) : Out :=
  if s.ctx.swinCount ≤ q.toNat || 2 ≤ op.toNat then illegal s 7 0x0E
  else guarded g s
    (let i := tileIx s s.cur q.toNat
     let t := s.tile i
     let keep := op.toNat == 1
     match s.stage with
     | .issue => .next s
     | .commit =>
       match t.state with
       | .empty => .next s
       | .draining => .next (s.setTile i { t with keep := keep })
       | _ =>
         let s1 := s.setTile i { t with state := .draining, keep := keep }
         .next { s1 with work := s1.work ++ [.stashDrainComplete s.cur i] })

/-- Line l is zero-flagged in the cache of ridge r as context n finds it: for a phased task at its snapshot point, under its
own writes (R62, R109, R110). -/
def lineFlagged (s : State) (n r l : Nat) : Bool :=
  let c := s.ctxOf n
  if c.phased then decide ((r, l) ∈ (s.launchOf c.launch).snapZero) && !(c.writeSet.any fun w => w.line == l)
  else decide ((r, l) ∈ s.zeroLines)

/-- STASH_LINE_FILL (R53, R62): the line arrives, or a zero flag answers, for a zero page or a line that the ridge's cache
holds zero-flagged. -/
def execStashLineFill (c tile line : Nat) (s : State) : Out :=
  let t := s.tile tile
  if t.state = .empty then .next s
  else
    let b : BitVec 64 := 1#64 <<< line
    let flagged := t.zeroPage || lineFlagged s c (tile / 8192) (64 * t.pa + line)
    .next (s.setTile tile
      { t with present := t.present ||| b, zero := if flagged then t.zero ||| b else t.zero }.settle)

/-- A drain ends: the tile is empty, ready or filling. -/
def StashTile.drained (t : StashTile) : StashTile :=
  if t.keep then
    { t with dirty := 0, keep := false, state := if t.present = BitVec.allOnes 64 then .ready else .filling }
  else StashTile.empty

/-- STASH_DRAIN_COMPLETE (R57): after outstanding fetches and a rule step of the tile have ended. The tile is a coherent
copy of memory, so its write-back changes no byte (R54). -/
def execStashDrainComplete (c tile : Nat) (s : State) : Out :=
  let t := s.tile tile
  if t.state ≠ .draining then .next s
  else if t.rule.isSome || (upto 64).any fun l => fillPending s tile l then
    .next { s with work := s.work ++ [.stashDrainComplete c tile] }
  else .next (s.setTile tile t.drained)

/-! ### The end of a task (R55, R276) -/

/-- HALT (R276): at its commit the context stops issuing. -/
def execHalt (g : Guard) (s : State) : Out :=
  guarded g s
    (match s.stage with
     | .issue => .next s
     | .commit =>
       let s1 := s.setCtx { s.ctx with life := .halting }
       .next { s1 with work := s1.work ++ [.taskHaltComplete s.cur] })

/-- Commands of engine contexts 0 to 3 have completed. -/
def Ctx.enginesDone (c : Ctx) : Bool := c.cmds.all fun k => 4 ≤ k.eng

/-- Tiles of a context's window that are not empty, ascending. -/
def windowTiles (s : State) (n : Nat) : List Nat :=
  ((upto (s.ctxOf n).swinCount).map (tileIx s n)).filter fun i => (s.tile i).state ≠ .empty

/-- The task of context n has halted and signals its completion (R55, R276). -/
def finishTask (s : State) (n : Nat) : State :=
  let c := s.ctxOf n
  let s1 := s.modLaunch c.launch fun l => modTask l c.task fun t => { t with state := .halted }
  launchCheck (releaseCtx s1 n) c.launch

/-- TASK_HALT_COMPLETE (R276): the waits of a halt in order; the merge of a phased task's phase makes it go on. -/
def execTaskHaltComplete (c : Nat) (s : State) : Out :=
  let x := s.ctxOf c
  let later := fun (s : State) => { s with work := s.work ++ [Instr.taskHaltComplete c] }
  if x.life ≠ .halting then .next s
  else if !x.enginesDone then .next (later s)
  else match windowTiles s c with
    | i :: _ =>
      let t := s.tile i
      if t.state = .draining then .next (later (s.setTile i { t with keep := false }))
      else
        let s1 := s.setTile i { t with state := .draining, keep := false }
        .next (later { s1 with work := s1.work ++ [.stashDrainComplete c i] })
    | [] =>
      if x.phased && x.phase = (s.launchOf x.launch).phase then .next (s.setCtxOf c { x with phaseDone := true })
      else .next (finishTask s c)

/-- WATCHDOG_EXPIRY (R290): no safe bundle within WDOG cycles of the request; containment, also from handler mode. -/
def execWatchdogExpiry (c : Nat) (s : State) : Out :=
  let x := s.ctxOf c
  match x.preempt with
  | none => .next s
  | some t0 =>
    let limit := (s.partition x.part).wdog
    if x.life = .running && !x.atSafe && 0 < limit && limit < s.wall - t0 then
      .next (takeTrapOf s c (plainTrap 0x13 0xF 0 (if x.handler then x.hpc else x.arch.pc)))
    else .next s

/-! ### Phases (R106 to R117) -/

/-- PHASE (R117): its bundle commits, and the context waits for the merge. -/
def execPhase (g : Guard) (s : State) : Out :=
  if !s.ctx.phased then illegal s 7 0x11
  else guarded g s
    (match s.stage with
     | .issue => .next s
     | .commit => .next (s.setCtx { s.ctx with phaseDone := true, phaseAt := s.bundle.addr }))

/-- Kinds in which a write set writes byte b of a line. -/
def kindsAt (ws : List WLine) (line b : Nat) : List WKind :=
  (ws.filter fun w => w.line == line && w.mask.getLsbD b).map WLine.kind

/-- Bytes of a write set, by line and byte, ascending. -/
def setBytes (ws : List WLine) : List (Nat × Nat) :=
  let lines := ws.foldl (fun acc w => insertLine w.line acc) []
  lines.flatMap fun l => ((upto 64).filter fun b => ws.any fun w => w.line == l && w.mask.getLsbD b).map fun b => (l, b)
where
  insertLine (x : Nat) : List Nat → List Nat
    | [] => [x]
    | y :: ys => if x = y then y :: ys else if x < y then x :: y :: ys else y :: insertLine x ys

/-- The kinds clash: one is plain and the other not the same write set's, or the element types differ. -/
def kindsClash (a b : WKind) : Bool := a = .plain || b = .plain || a ≠ b

/-- The conflict of a task's set with itself or with the kept sets: lowest byte and holder (R114, R115). Of several kept
tasks that hold the byte by merge-adds the one with the lowest identifier is named (DESIGN CHOICE, log 98). -/
def conflictOf (kept : List (Nat × List WLine)) (id : Nat) (ws : List WLine) : Option (Nat × Nat) :=
  let at1 := fun (p : Nat × Nat) =>
    let own := kindsAt ws p.1 p.2
    if own.any fun k => own.any fun j => k ≠ j then some id
    else (kept.find? fun t => (kindsAt t.2 p.1 p.2).any fun k => own.any fun j => kindsClash k j).map Prod.fst
  match (setBytes ws).find? fun p => (at1 p).isSome with
  | some p => (at1 p).map fun h => (64 * p.1 + p.2, h)
  | none => none

/-- The sets kept in task order, and the tasks discarded with their conflicts. -/
def mergeSets : List (Nat × Nat × List WLine) → List (Nat × List WLine) → List (Nat × Nat × Nat) →
    List (Nat × List WLine) × List (Nat × Nat × Nat)
  | [], kept, bad => (kept, bad)
  | (n, id, ws) :: rest, kept, bad =>
    match conflictOf kept id ws with
    | some c => mergeSets rest kept (bad ++ [(n, c.1, c.2)])
    | none => mergeSets rest (kept ++ [(id, ws)]) bad

/-- Plain cells of each line of a write set, lines ascending; each is one point (R114). -/
def plainLines (ws : List WLine) : List (List (Nat × Byte)) :=
  let ps := ws.filter fun w => w.kind = .plain
  let bytes := setBytes ps
  let lines := bytes.foldl (fun acc p => if p.1 ∈ acc then acc else acc ++ [p.1]) []
  lines.map fun l => (bytes.filter fun p => p.1 = l).map fun p =>
    (64 * l + p.2, match ps.find? fun w => w.line == l && w.mask.getLsbD p.2 with | some w => byteOf w.data p.2 | none => 0)

/-- A task's contribution to the 4-byte element at a physical address (R116). -/
def contribution (fp : Bool) (pa : Nat) (ws : List WLine) : Option Nat :=
  let vs := (ws.filter fun w => w.line == pa / 64 && w.kind == (if fp then .addF32 else .addS32) && w.mask.getLsbD (pa % 64)).map
    fun w => elem w.data.toNat 32 (pa % 64 / 4)
  match vs with
  | [] => none
  | v :: vs => some (vs.foldl (fun a b => if fp then Fmt.fp32.sum a b else (a + b) % 2 ^ 32) v)

/-- Elements that merge-adds of the kept sets name, ascending, with their type. -/
def addElements (kept : List (Nat × List WLine)) : List (Nat × Bool) :=
  let adds := (kept.flatMap fun t => t.2).filter fun w => w.kind ≠ .plain
  ((setBytes adds).filter fun p => p.2 % 4 = 0).map fun p =>
    (64 * p.1 + p.2, (kindsAt adds p.1 p.2).any fun k => k = .addF32)

/-- One merge-add at its element: old + root (R116). ids: the tasks of the launch in order. -/
def mergeAdd (s : State) (kept : List (Nat × List WLine)) (ids : List Nat) (e : Nat × Bool) : State :=
  let op := fun (a b : Nat) => if e.2 then Fmt.fp32.sum a b else (a + b) % 2 ^ 32
  let leaves := ids.map fun i => match kept.find? fun t => t.1 = i with
    | some t => contribution e.2 e.1 t.2
    | none => none
  match tree op leaves with
  | none => s
  | some root => s.perform none (cellsAt e.1 (leBytes 4 (op (memNat s.mem e.1 4) root)))

/-- Contexts of a launch's placed tasks, in task order. -/
def launchCtxs (s : State) (id : Nat) : List (Nat × Nat) :=
  (s.launchOf id).tasks.filterMap fun t => match t.state with | .placed n => some (n, t.id) | _ => none

/-- Every task of the launch that has not ended has reached y.phase or its halt, with its commands complete (R106,
R117, R119). -/
def mergeReady (s : State) (id : Nat) : Bool :=
  let l := s.launchOf id
  recPhased l.record && !(launchCtxs s id).isEmpty &&
    l.tasks.all fun t => match t.state with
      | .placed n => (s.ctxOf n).phaseDone && (s.ctxOf n).enginesDone
      | .halted => true
      | .failed => true
      | _ => false

/-- A context goes on into the next phase; a halting one goes on to its end. -/
def nextPhase (s : State) (n : Nat) : State :=
  let c := s.ctxOf n
  if c.life = .halting then
    { s.setCtxOf n { c with phaseDone := false, writeSet := [] } with work := s.work ++ [.taskHaltComplete n] }
  else s.setCtxOf n { c with phaseDone := false, writeSet := [], phase := c.phase + 1 }

/-- A Merge Conflict Fault with the words of Table 15-3a; that of a task that has halted passes straight to containment. BVA is
the address of the task's last y.phase, 0 before the first, also for one that has halted (R115; DESIGN CHOICE, log 128). -/
def mergeConflict (s : State) (phase : Nat) (x : Nat × Nat × Nat) : State :=
  let c := s.ctxOf x.1
  let c1 := { c with ckpt := { c.ckpt with pc := if c.life = .halting then c.ckpt.pc else c.phaseAt }, writeSet := [],
                     phaseDone := false }
  (if c.life = .halting then takeContained else takeTrapOf) (s.setCtxOf x.1 c1) x.1
    { cause := 0x1A, slot := 7, fault := BitVec.ofNat 64 x.2.1, bva := c.phaseAt, pages := none,
      extra := [phase % 2 ^ 32, x.2.1, x.2.2 % 2 ^ 32] }

/-- PHASE_MERGE (R114 to R117). -/
def execPhaseMerge (launch : Nat) (s : State) : Out :=
  if !mergeReady s launch then .next s
  else
    let ctxs := launchCtxs s launch
    let sets := ctxs.map fun p => (p.1, p.2, (s.ctxOf p.1).writeSet)
    let m := mergeSets sets [] []
    let plain := m.1.flatMap fun t => plainLines t.2
    let adds := addElements m.1
    let l := s.launchOf launch
    let s1 := plain.foldl (fun s c => s.perform none c) s
    let s2 := adds.foldl (fun s e => mergeAdd s m.1 (l.tasks.map TaskRec.id) e) s1
    let s3 := s2.modLaunch launch fun l => { l with phase := l.phase + 1, snap := s2.mem, snapZero := s2.zeroLines }
    let s4 := (ctxs.filter fun p => !(m.2.any fun b => b.1 = p.1)).foldl (fun s p => nextPhase s p.1) s3
    .next (m.2.foldl (fun s x => mergeConflict s l.phase x) s4)

/-! ### Soft errors (R65) -/

/-- SOFT_ERROR_CORRECTED (R65): counted; no value changes. -/
def execSoftErrorCorrected (_line : Nat) (s : State) : Out := .next { s with counted := amMod 0 s.counted 0 (· + 1) }

/-- Register k of context c poisoned, in the state and in the checkpoint. -/
def poisonReg (s : State) (c k : Nat) : State :=
  let x := s.ctxOf c
  let add := fun (a : Arch) => { a with poison := insertOnce k a.poison }
  s.setCtxOf c { x with arch := add x.arch, ckpt := add x.ckpt }

/-- SOFT_ERROR_UNCORRECTABLE (R65): the line or register is poisoned. An accumulator tile is the one of the context in
whose window it lies. -/
def execSoftErrorUncorrectable (t : PoisonTarget) (s : State) : Out :=
  match t with
  | .line n => .next { s with poison := insertOnce n s.poison }
  | .side c r => .next (poisonReg s c (sideMark r))
  | .vector c n => .next (poisonReg s c (n % 384))
  | .tile c n => .next (poisonReg s c (384 + n % 8))
  | .scalar c n =>
    -- s0 has no storage (R122); 64 to 79 name the handler bank.
    .next (if n % 80 = 0 then s else poisonReg s c (if n % 80 < 64 then 392 + n % 80 else 4096 + (n % 80 - 16)))
  | .acc k n =>
    match ((upto 4).map fun i => 4 * k + i).find? fun c =>
        let x := s.ctxOf c
        x.life ≠ .idle && x.awinBase ≤ n && n < x.awinBase + x.awinCount with
    | some c => .next (poisonReg s c (456 + (n - (s.ctxOf c).awinBase)))
    | none => .next s

end Sys2Proof.Machine
end

