-- ==== Sys2Proof/Machine/Image.lean ====
section
/-! DEFINITION. Saving a context and restoring an image (R146, R296, R311 to R314). -/

namespace Sys2Proof.Machine

/-! ### Saving -/

/-- The map of a claim as its claim resolved it. -/
def claimMap (s : State) (k : Claim) : CvMap :=
  { va := k.va, pages := k.pages.map fun p => (p.1, { pa := p.2, kind := .coherent }), mem := s.mem }

/-- A claim released (R296): STATE 11, its cells clear, its tagged writes discarded. -/
def releaseClaim (s : State) (n : Nat) (k : Claim) : State :=
  let m := claimMap s k
  if !m.rel || k.dropped then s
  else
    let shape := bitsOf (m.word (0x48 + 16 * k.tag) 8) 0 48
    let s1 := s.perform none
      (m.mark shape false ++ m.cells (0x40 + 16 * k.tag) 8 (3 * 2 ^ 62 + m.word (0x40 + 16 * k.tag) 4))
    let c := s1.ctxOf n
    s1.setCtxOf n { c with
      writeSet := c.writeSet.filter fun w => w.tag ≠ some (k.mapPa, k.tag),
      claims := c.claims.map fun j => if j.mapPa = k.mapPa && j.tag = k.tag then { j with dropped := true } else j }

/-- Held claims of a phased task are released at its save (R296); an open task's stay (R295). -/
def releaseClaims (s : State) (n : Nat) : State :=
  if (s.ctxOf n).phased then (s.ctxOf n).claims.foldl (fun s k => releaseClaim s n k) s else s

/-- A tile of the window drains or a fetch of one is pending. -/
def windowBusy (s : State) (n : Nat) : Bool :=
  (windowTiles s n).any fun i => (s.tile i).state = .draining || (upto 64).any fun l => fillPending s i l

/-- The context stands where a pre-emption may take it: parked, after a safe bundle, or blocked on one (R146, R311). -/
def Ctx.atSavePoint (c : Ctx) : Bool :=
  c.life = .running && c.preempt.isSome && !c.handler &&
    (c.parked || ((c.atSafe || (c.blocked && c.blockedSafe)) && c.wait = .none))

/-- Nothing that a save waits for is in flight (R312, step 1). -/
def saveQuiet (s : State) (n : Nat) : Bool :=
  let c := s.ctxOf n
  c.landings.all (·.arrived) && c.accFill.isEmpty && c.accMove.isEmpty && !windowBusy s n
    && s.devOut.all fun d => d.ctx != n

/-- The context whose work an event is; commands of engines 2, 3 and 5 run on by themselves. -/
def eventOf : Instr → Option Nat
  | .copyPoint c _ => some c
  | .nestPoint c _ => some c
  | .spillReplay c _ => some c
  | .engineCommandAccept c _ _ => some c
  | .loadDataArrival c _ => some c
  | .accumulatorWriteFinish c _ => some c
  | .ruleGeneration c _ => some c
  | .stashLineFill c _ _ => some c
  | .stashDrainComplete c _ => some c
  | .fenceComplete c => some c
  | .tinvComplete c => some c
  | _ => none

/-- Requests and collective members that name context a name context b. -/
def renameCtx (s : State) (a b : Nat) : State :=
  { s with
    fabric := { s.fabric with out := s.fabric.out.map fun o => if o.ctx = a then { o with ctx := b } else o },
    colls := s.colls.map fun p => (p.1, { p.2 with
      members := p.2.members.map fun m => if m.ctx = a then { m with ctx := b } else m }) }

/-- The saved context: everything complete, commands as they stand. -/
def Ctx.saved (c : Ctx) : Ctx :=
  let a := c.arch.flush
  { c with arch := a, ckpt := a, bypass := [], landings := [], withheld := [], spanReads := [], spanStale := false,
           journalV := [], journalA := [], preempt := none, atSafe := false, blocked := false, blockedSafe := false,
           unmapped := [], cmds := c.cmds.map fun k => if 2 ≤ k.eng then { k with accepted := true } else k }

/-- Context n saved as image im: its stash window drained, its image at the head of its queue (R285, R312). -/
def saveOne (s : State) (n : Nat) : State :=
  let s0 := releaseClaims s n
  let im := s0.nextImage
  let key := savedKey im
  let c := s0.ctxOf n
  let tiles := (upto c.swinCount).map fun k =>
    match c.unmapped.find? fun u => u.1 == k with | some u => u.2 | none => s0.tile (tileIx s0 n k)
  let window := (upto c.swinCount).map (tileIx s0 n)
  let image : Image := { tiles := tiles, ridge := ridgeOf n, feature := 4, arith := 1, latency := 1, atCkpt := c.parked,
                         parked := c.parked, foreign := none }
  let s1 := leaveTokens (renameCtx s0 n key) [n]
  let s2 := { s1 with
    ctxs := amSet (amSet s1.ctxs key c.saved) n Ctx.idle,
    stash := s1.stash.filter fun p => !(p.1 ∈ window),
    work := s1.work.filter fun w => eventOf w ≠ some n,
    images := amSet s1.images im image,
    nextImage := im + 1 }
  let s3 := s2.modLaunch c.launch fun l => modTask l c.task fun t => { t with state := .saved im }
  { s3 with queues := amMod LaunchQueue.reset s3.queues (s3.launchOf c.launch).queue fun x => x.push (.image im) s3.wall }

/-- The module that no link reaches any more from which a landing waits for a result (R105). -/
def Landing.lostTo (s : State) (l : Landing) : Option Nat :=
  if l.arrived then none else (l.asks.find? fun q => !reachable s q.dest).map Ask.dest

/-- The trap that a landing raises at its landing cycle: a result that is poisoned or has too few planes (R65, R265), or one
that no link will ever deliver (R105). SLOT is that of the operation, and BVA the address of the next bundle, which waits at
the landing cycle: neither rule says which bundle the record names (DESIGN CHOICE, log 41). -/
def Landing.failure (s : State) (n : Nat) (l : Landing) : Option Trap :=
  let sl := if l.atomic then 7 else 4
  let pc := (s.ctxOf n).arch.pc
  match l.bad with
  | some b => some (plainTrap b.1 sl b.2 pc)
  | none => (l.lostTo s).map fun d =>
      let lost := (s.fabric.out.filter fun o => o.ctx == n && o.req.dest == d).length
      { fabricTrap s sl (if l.atomic then 3 else 2) d lost with bva := pc }

/-- A landing of the context that raises a trap. -/
def failedLanding (s : State) (n : Nat) : Option (Landing × Trap) :=
  (s.ctxOf n).landings.findSome? fun l => (l.failure s n).map fun t => (l, t)

/-- The context without a landing whose load never completes: its destination receives no value (R105). -/
def Ctx.forgetLanding (c : Ctx) (id : Nat) : Ctx :=
  { c with arch := c.arch.forget id, ckpt := c.ckpt.forget id, hs := c.hs.forget id,
           landings := c.landings.filter fun l => l.id != id }

/-- The trap of a landing: a load's destination never receives a value; a returning atomic's, whose bundle has committed, holds
undefined bits (R65, R105). The context rolls back to its last checkpoint, which for an atomic's is its bundle's own. -/
def takeFailedLanding (s : State) (n : Nat) (x : Landing × Trap) : State :=
  let c := s.ctxOf n
  let bits := ({ s with cur := n }.undef 64 (2100 + x.1.id)).toNat
  let c1 := if x.1.atomic then (c.arrive { x.1 with asks := [], known := [(0, bits)] }).forgetLanding x.1.id
    else c.forgetLanding x.1.id
  { takeTrapOf (s.setCtxOf n c1) n x.2 with issue := .trapped x.2.cause x.2.fault }

/-- CONTEXT_SAVE (R312): once the context, or all sixteen of its gang, stands at a save point with nothing in flight. -/
def execContextSave (c : Nat) (s : State) : Out :=
  let group := preemptGroup s c
  if !(group.all fun n => (s.ctxOf n).atSavePoint) then .next s
  else match group.findSome? fun n => (failedLanding s n).map fun x => (n, x) with
    | some x => .next { takeFailedLanding s x.1 x.2 with issue := s.issue }
    | none =>
      if group.all (saveQuiet s) then .next (group.foldl saveOne s)
      else .next s

/-! ### Restoring (R314) -/

/-- The native bundle of this device at which the program resumes that resumes at bundle a of another module: through the
canonical bundle that both safe-point maps give (R315, R333); that bundle itself where this device has no native text. -/
def mapPoint (s : State) (asid : BitVec 16) (points : List (Word × Word)) (a : Word) : Word :=
  match points.find? fun p => p.1 == a with
  | none => a
  | some p =>
    match (devicePoints s asid).find? fun q => q.2 == p.2 with
    | some q => q.1
    | none => p.2

/-- A context whose program counter and pending target are mapped. -/
def Ctx.mapPoints (s : State) (points : List (Word × Word)) (c : Ctx) : Ctx :=
  let map := mapPoint s c.arch.asid points
  let a := { c.arch with pc := map c.arch.pc, xfer := { c.arch.xfer with target := c.arch.xfer.target.map map },
                         epc := if c.parked then map c.arch.epc else c.arch.epc }
  { c with arch := a, ckpt := a }

/-- What an image from another module brings beside its task: its slot with its GEN and counters, and the ridge for the tasks
that shared its ridge there, which receives their barriers (R314, R315). -/
def admitForeign (s : State) (c : Ctx) (n : Nat) (f : Foreign) : State :=
  let s1 := { s with slots := amSet s.slots c.slot { held := true, gen := f.gen, eng := f.timelines } }
  if recNbar (s.launchOf c.launch).record = 0 || f.chosen.isSome then s1
  else
    let bars := f.bars.zipIdx.foldl (fun m b => amSet m (17 * ridgeOf n + b.2) { b.1 with owner := some c.launch }) s1.barriers
    { s1 with barriers := bars, images := s1.images.map fun p => (p.1, { p.2 with
        foreign := p.2.foreign.map fun g =>
          if g.ridge = f.ridge && (s.ctxOf (savedKey p.1)).launch = c.launch then { g with chosen := some (ridgeOf n) } else g }) }

/-- Image im placed on context n with its new windows. -/
def restoreOne (s : State) (im n : Nat) (image : Image) (t : Taken) : State :=
  let key := savedKey im
  let c0 := s.ctxOf key
  let c := match image.foreign with | some f => c0.mapPoints s f.points | none => c0
  let s1 := renameCtx (match image.foreign with | some f => admitForeign s c n f | none => s) key n
  let c1 := { c with awinBase := t.abase, swinBase := t.sbase, wsPlaces := t.ws, parked := image.parked, placed := s.tick,
                     fetchFrom := s.history.length }
  let qs := s1.queues.map fun (q : Nat × LaunchQueue) => (q.1, { q.2 with items := q.2.items.filter (· ≠ .image im) })
  let s2 := { s1 with ctxs := amSet (amDel s1.ctxs key) n c1, images := amDel s1.images im, queues := qs,
                      work := s1.work ++ resumeEvents n c1 }
  let s3 := s2.modLaunch c.launch fun l => modTask l c.task fun t => { t with state := .placed n, core := coreOf n }
  mapWindow s3 n (image.tiles.zipIdx.map fun p => (p.2, p.1))

/-- One image restored on a context of an enabled ridge that is idle and whose core has room (R1, R286); otherwise none. -/
def restoreAt (o : Option State) (x : Nat × Nat) : Option State :=
  match o with
  | none => none
  | some s =>
    let c := s.ctxOf (savedKey x.1)
    match amFind s.images x.1 with
    | none => none
    | some image =>
      if (s.ctxOf x.2).life ≠ .idle || !imageSlotFree s x.1 || 6656 ≤ x.2 || ridgeOf x.2 ∈ s.fused then none
      else (fitTask { awin := c.awinCount, swin := c.swinCount, wstiles := c.wstiles, gang := c.gang }
              (takenOn s [] (coreOf x.2))).map (restoreOne s x.1 x.2 image)

/-- Images and contexts of a restore of image im on context c: a gang's set whole, on context 0 of the sixteen cores of one
ridge; none where the ridge rule of R314 forbids it. -/
def restoreSet (s : State) (im c : Nat) : List (Nat × Nat) :=
  let saved := s.ctxOf (savedKey im)
  let home := match imageHome s im with | some r => decide (ridgeOf c = r) | none => true
  if !home then []
  else if saved.gang then
    (if c = 64 * ridgeOf c + 4 * saved.rank && (imageSet s im).length = 16 then (imageSet s im).zip (gangOf c) else [])
  else [(im, c)]

/-- The image is released by the device operating system: its task never runs, and counts as one that failed (R87; DESIGN
CHOICE, log 100). -/
def releaseImage (s : State) (im : Nat) : State :=
  let c := s.ctxOf (savedKey im)
  launchCheck (stopTasks s c.launch (fun t => t.id = c.task) .failed) c.launch

/-- What the streams of R315 bring of one task: its image, its context as saved, and its launch, under the launch's number. -/
structure Arrival where
  image : Image
  foreign : Foreign
  ctx : Ctx
  launch : Launch
deriving DecidableEq, Repr

end Sys2Proof.Machine

namespace Sys2Proof

/-- The task that another module has streamed here under an image number that this module has not given, if it has streamed one by
this tick: what it is, is the other module's (free, log 85). -/
opaque Config.arrival : Nat → Nat → Option Machine.Arrival

end Sys2Proof

namespace Sys2Proof.Machine

/-- The task streamed here under an image number takes its place beside the saved tasks (R315). A launch of that number stands
here already when another of its tasks has come before. -/
def admitArrival (s : State) (im : Nat) (a : Arrival) : State :=
  { s with
    images := amSet s.images im { a.image with foreign := some a.foreign },
    ctxs := amSet s.ctxs (savedKey im) { a.ctx.saved with life := .running, handler := false, parked := a.image.parked },
    launches := match amFind s.launches a.ctx.launch with
      | some _ => s.launches
      | none => amSet s.launches a.ctx.launch a.launch,
    nextImage := Nat.max s.nextImage (im + 1) }

/-- The state in which an image is restored: one that has come from another module is admitted first. -/
def withArrival (s : State) (im : Nat) : State :=
  match amFind s.images im with
  | some _ => s
  | none => match Config.arrival s.tick im with | some a => admitArrival s im a | none => s

/-- The restore of an image that stands here. -/
def restoreImage (image : Nat) (c : Option Nat) (s : State) : Out :=
  match amFind s.images image with
  | none => .next s
  | some x =>
    let saved := s.ctxOf (savedKey image)
    match c with
    | none => .next (releaseImage s image)
    | some c =>
      if 4 < x.feature || x.arith ≠ 1 || x.latency ≠ 1 then
        .next (forwardEntry s saved.arch.asid.toNat
          (ringEntry s (savedKey image) 0 0 saved.arch.epc saved.fault saved.record)).1
      else match restoreSet s image c with
        | [] => .next s
        | xs => match xs.foldl restoreAt (some s) with
          | none => .next s
          | some s1 =>
            let q := (s.launchOf saved.launch).queue
            .next (if .image image ∈ (s.lq q).items then served s1 (s.lq q).part q else s1)

/-- CONTEXT_RESTORE (R314, R315): refused when the image asks for more than the device has; nothing while the image or its gang's
set does not fit, or its slot is occupied. A queue whose image has been placed has been served (R284). -/
def execContextRestore (image : Nat) (c : Option Nat) (s : State) : Out := restoreImage image c (withArrival s image)

end Sys2Proof.Machine
end

