-- ==== Sys2Proof/Machine/Commit.lean ====
section
/-! DEFINITION. The commit of a checkpoint bundle and the end of every bundle (R77, R78, R128, R139 to R141, R158, R180,
R183, R300, R303). -/

namespace Sys2Proof.Machine

/-! ### The checks of a commit (R139) -/

/-- Every withheld arrive or drop finds its barrier owned by the launch and with an arrive to come, when the ones before
it have taken effect (R97, R281). -/
def arrivesOk : State → List WithheldOp → Bool
  | _, [] => true
  | s, o :: os =>
    let ok := fun (k : Nat) => (s.barrier k).owner == some s.ctx.launch && (s.barrier k).expect != 0
    match o with
    | .arrive k => ok k && arrivesOk (arriveNow s s.cur k false) os
    | .drop k => ok k && arrivesOk (arriveNow s s.cur k true) os
    | _ => arrivesOk s os

/-- Bytes that a withheld operation writes. -/
def WithheldOp.cells : WithheldOp → List (Nat × Byte)
  | .store cells => cells
  | .zeroLine pa _ => cellsAt pa (List.replicate 64 0)
  | .atomic _ ty pa _ => cellsAt pa (List.replicate ty.bytes 0)
  | .mergeAdd _ _ _ => []
  | .arrive _ => []
  | .drop _ => []

/-- The poisoned line of this module that a withheld atomic would use, ps being the lines poisoned when the operations before
it have been performed (R65). -/
def withheldPoison : List Nat → List WithheldOp → Option Nat
  | _, [] => none
  | ps, .atomic _ _ pa _ :: os => if rangeOf pa ≠ .fabric && pa / 64 ∈ ps then some (pa / 64) else withheldPoison ps os
  | ps, o :: os => withheldPoison (stillPoisoned ps (homeCells o.cells)) os

/-- A rollback under R78: as a trap's, with no cause and no handler; the ranks of a gang that stand at one schedule cycle roll
back together (R149). -/
def validationRollback (s : State) : State :=
  let back := fun (s : State) (n : Nat) => s.setCtxOf n { (s.ctxOf n).rollback with rollbacks := (s.ctxOf n).rollbacks + 1 }
  let ranks := (matesOf s s.cur).filter fun n => (s.ctxOf n).arch.sched == s.ctx.arch.sched
  { ranks.foldl back s with issue := .trapped 0 0, raised := none }

/-- The checks of a commit that its withheld operations make, its validation, and the stash lines that its stores wait for
(R53, R57, R65, R77, R78, R97, R113, R247). -/
def commitChecks (s : State) : State :=
  let c := s.ctx
  let cells := c.withheld.flatMap WithheldOp.cells
  if !arrivesOk s c.withheld then takeTrap s (plainTrap 0x1C 7 0 s.bundle.addr)
  else if wsOverflows s s.cur c.withheld then takeTrap s (plainTrap 0x1B 0xF 0 s.bundle.addr)
  else match (if c.phased then none else withheldPoison s.poison c.withheld) with
    | some l => takeTrap s (plainTrap 0x20 7 (BitVec.ofNat 64 (64 * l)) s.bundle.addr)
    | none =>
      if c.spanStale then validationRollback s
      else if storeWaits s s.cur cells then { requestCells s s.cur cells with issue := .interlocked }
      else s

/-! ### The withheld operations performed (R77) -/

/-- Line l of the tile has its zero flag set. -/
def StashTile.flag (t : StashTile) (l : Nat) : StashTile := { t with zero := t.zero ||| (1#64 <<< l) }

/-- The zero flag of a line that context n has stored as zeros: in the tile that serves it, or else in the ridge's cache
(R62). A phased task's line is its own, and a dropped write sets nothing (R110, R296). -/
def flagZero (s : State) (n line : Nat) : State :=
  let c := s.ctxOf n
  if c.dropsWrites then s
  else
    let mine := fun (p : Nat × StashTile) => p.2.maps line && servedBy s n p.1
    if s.stash.any mine then { s with stash := s.stash.map fun p => (p.1, if mine p then p.2.flag (line % 64) else p.2) }
    else if c.phased || 2 ^ 34 ≤ line then s
    else { s with zeroLines := (ridgeOf n, line) :: s.zeroLines.filter (· ≠ (ridgeOf n, line)) }

/-- One withheld store, zero-line store, atomic or merge-add at its point. -/
def performOp (s : State) : WithheldOp → State
  | .store cells => performStores s s.cur 6 0 cells
  | .zeroLine pa cached =>
    let s1 := performStores s s.cur 6 0 (cellsAt pa (List.replicate 64 0))
    if cached then flagZero s1 s.cur (pa / 64) else s1
  | .atomic op ty pa x =>
    if rangeOf pa = .fabric then fabSend s s.cur 6 0 pa (.atomic op ty (bitsOf pa 0 40) x 0)
    else (atomicNow s op ty pa x 0).1
  | .mergeAdd fp pa x =>
    let c := s.ctx
    if c.dropsWrites then s else s.setCtx { c with writeSet := wsMerge c.writeSet c.tag fp pa x.toNat }
  | .arrive _ => s
  | .drop _ => s

/-- One withheld arrive or drop, after the commit's stores. -/
def performArrive (s : State) : WithheldOp → State
  | .arrive k => arriveNow s s.cur k false
  | .drop k => arriveNow s s.cur k true
  | _ => s

/-- The withheld operations performed in program order, then the arrives. -/
def performWithheld (s : State) : State :=
  let ops := s.ctx.withheld
  ops.foldl performArrive (ops.foldl performOp (s.setCtx { s.ctx with withheld := [] }))

/-- The write set of the context in issue has more entries than its room (R113). -/
def overfull (s : State) : Bool :=
  s.ctx.phased && decide (wsRoom s.ctx (s.launchOf s.ctx.launch).record < wsCount s.ctx.writeSet)

/-- The commit of a bundle that has issued: its checks, the withheld operations, then the irrevocable operations k (R139).
A write set that all of it together fills past its room lets none of it take effect (R113). -/
def commitBundle (k : State → Out) (s : State) : Out :=
  if !s.bundle.ckpt then .next s
  else
    let s1 := commitChecks s
    if s1.issue ≠ .ok then .next s1
    else match k { performWithheld s1 with stage := .commit } with
      | .next s2 =>
        .next (if s2.issue = .ok && overfull s2 then takeTrap s1 (plainTrap 0x1B 0xF 0 s.bundle.addr)
               else { s2 with stage := .issue })
      | o => o

/-! ### The end of a bundle -/

/-- The transfer and the address of the bundle after the one at addr (R180). -/
def nextAddr (addr : Word) (x : Transfer) : Word × Transfer :=
  match x.delay, x.target with
  | 0, _ => (addr + 64, x)
  | 1, some t => (t, { delay := 0, target := none })
  | 1, none => (addr + 64, { delay := 0, target := none })
  | d + 2, t => (addr + 64, { delay := d + 1, target := t })

/-- Writes to system registers, shape shadows and matrix parameters that hold from the next bundle on (R185, R187). -/
def Arch.applyWrites (a : Arch) : Arch :=
  { a.side.foldl applySide (a.srw.foldl applySys a) with srw := [], side := [] }

/-- The registers when the bundle at addr has issued: next address, transfer, clock and every write due (R128, R130,
R180). -/
def Arch.stepTo (a : Arch) (addr : Word) : Arch :=
  let x := nextAddr addr a.xfer
  let a1 := a.applyWrites
  { a1.advance (a.sched + 1) with pc := x.1, xfer := x.2, sched := a.sched + 1 }

/-- The span starts anew after a commit (R137, R140, R141). -/
def Ctx.newSpan (c : Ctx) (now : Nat) : Ctx :=
  { c with ckpt := c.arch.flush, bypass := c.bypass.filter (fun b => b.issued = now), withheld := [], spanReads := [],
           spanStale := false, rollbacks := 0, journalV := [], journalA := [] }

/-- The context of a task after its bundle (R128, R146). -/
def Ctx.taskEnd (c : Ctx) (b : BundleInfo) : Ctx :=
  let c1 := { c with arch := c.arch.stepTo b.addr, atSafe := b.safe, resolved := [], checked := [], reserved := none, waitPhase := none,
                     blocked := false, blockedSafe := false, preempt := c.preempt }
  if b.ckpt then c1.newSpan c.arch.sched else c1

/-- The context in handler mode after its bundle: canonical, so that every write has been made; the task's clock and
checkpoint stand, but a tret makes the state its checkpoint (R158, R183, R300, R303). -/
def Ctx.handlerEnd (c : Ctx) (b : BundleInfo) : Ctx :=
  let a := c.arch.applyWrites.flush
  let x := nextAddr b.addr c.hxfer
  { c with arch := a, ckpt := if c.tretting then a else c.ckpt, hs := c.hs.flush, hp := c.hp.flush, hpc := x.1, hxfer := x.2,
           landings := c.landings.map fun l => { l with due := c.arch.sched }, withheld := [], spanReads := [],
           spanStale := false, journalV := [], journalA := [], resolved := [], checked := [], reserved := none, waitPhase := none,
           blocked := false, blockedSafe := false, ctl := 0 }

/-- What ends a handler: the second delay bundle of a tret, or a store to the own CTLc (R183, R303). -/
def leaveHandler (s : State) (last : Bool) (ctl : Nat) : State :=
  if ctl ≠ 0 then ctlApply s s.cur ctl else if last then returnFromTrap s s.cur else s

/-- The end of the bundle in issue. -/
def bundleEnd (s : State) : State :=
  let c := s.ctx
  if c.handler then
    leaveHandler (s.setCtx (c.handlerEnd s.bundle)) (c.tretting && c.hxfer.delay == 1) c.ctl
  else s.setCtx (c.taskEnd s.bundle)

/-- The registers, clocks and transfers of a bundle's contexts move on. Then the software traps that ranks have committed
are taken, each after the commit with its own checkpoint (R275, R298, R305). -/
def endGroup (group : List Nat) (s : State) : State :=
  let s1 := group.foldl (fun s n => bundleEnd { s with cur := n }) s
  let traps := group.filterMap fun n => (s1.ctxOf n).softTrap.map fun f => (n, f)
  let s2 := traps.foldl (fun s t => s.setCtxOf t.1 { s.ctxOf t.1 with softTrap := none }) s1
  traps.foldl (fun s t => takeTrap { s with cur := t.1 } (plainTrap 0x08 7 t.2 s.bundle.addr)) s2

/-- The commit and the end of a bundle of one context that has issued. -/
def finishBundle (k : State → Out) (s : State) : Out :=
  match commitBundle k s with
  | .next s1 => .next (if s1.issue = .ok then endGroup [s.cur] s1 else s1)
  | o => o

/-- EMPTY_BUNDLE (R155): nothing but the commit of its span, when it is a checkpoint, and the clock. -/
def execEmptyBundle (s : State) : Out := finishBundle .next s

end Sys2Proof.Machine
end

