-- ==== Sys2Proof/Machine/Control.lean ====
section
/-! DEFINITION. Control transfers and the return from a trap (R179 to R183). -/

namespace Sys2Proof.Machine

/-- The transfer on its way of the stream that issues: the handler's or the task's. -/
def Ctx.xferNow (c : Ctx) : Transfer := if c.handler then c.hxfer else c.arch.xfer

/-- A control operation sets the transfer and its two delay bundles (R180); none: not taken. -/
def State.setXfer (s : State) (t : Option Word) : State :=
  let x : Transfer := { delay := 3, target := t }
  if s.ctx.handler then s.setCtx { s.ctx with hxfer := x } else s.modArch fun a => { a with xfer := x }

/-- A branch target: off bundles from the bundle's own address (R179). -/
def branchTarget (s : State) (off : BitVec 25) : Word := s.bundle.addr + (off.signExtend 64 <<< 6)

/-- The address of the first bundle after the delay bundles (R179). -/
def linkAddr (s : State) : Word := s.bundle.addr + 192

/-- A link or counter written with L = 1 (R182). -/
def linked (s : State) (sd : SCode) (x : Word) : State := (clearPoison s [s.ctx.markS sd]).writeS sd x 1

/-- A control operation: not taken when its guard is false, though its delay bundles follow (R168, R180). -/
def controlOp (g : Guard) (s : State) (k : Out) : Out := if s.guardOn g then k else .next (s.setXfer none)

/-- A transfer to an address held in a register: its low six bits must be zero (R179). -/
def goTo (s : State) (t : Word) (s1 : State) : Out :=
  if t.toNat % 64 = 0 then .next (s1.setXfer (some t)) else illegal s 0 0x0E

/-- BR (R179). -/
def execBr (g : Guard) (off : BitVec 25) (s : State) : Out :=
  controlOp g s (.next (s.setXfer (some (branchTarget s off))))

/-- CALL (R179). -/
def execCall (g : Guard) (sd : SCode) (off : BitVec 25) (s : State) : Out :=
  controlOp g s (.next ((linked s sd (linkAddr s)).setXfer (some (branchTarget s off))))

/-- JMP (R179). -/
def execJmp (g : Guard) (sa : SCode) (s : State) : Out :=
  controlOp g s (readingS s 0 [sa] (goTo s (s.readS sa) s))

/-- CALLI (R179). -/
def execCalli (g : Guard) (sd sa : SCode) (s : State) : Out :=
  controlOp g s (readingS s 0 [sa] (goTo s (s.readS sa) (linked s sd (linkAddr s))))

/-- RET (R179). -/
def execRet (g : Guard) (sa : SCode) (s : State) : Out :=
  controlOp g s (readingS s 0 [sa] (goTo s (s.readS sa) s))

/-- LOOP (R179). -/
def execLoop (g : Guard) (sd : SCode) (off : BitVec 25) (s : State) : Out :=
  controlOp g s (readingS s 0 [sd]
    (let k := s.readS sd - 1
     .next ((linked s sd k).setXfer (if k = 0 then none else some (branchTarget s off)))))

/-- TRET (R183, R303): privileged; the return is made at the commit, and the handler's two delay bundles follow. -/
def execTret (g : Guard) (s : State) : Out :=
  if !s.ctx.handler then privileged s 0
  else match s.stage with
    | .issue => .next (s.setXfer none)
    | .commit => guarded g s (.next (s.setCtx { s.ctx with tretting := true }))

end Sys2Proof.Machine
end

