-- ==== Sys2Proof/Machine/VectorFp.lean ====
section
/-! DEFINITION. The V slots: lanewise floating point and in-vector reductions (R193, R199). -/

namespace Sys2Proof.Machine

/-- The format of a lanewise floating-point type; FP32 where the type names none (no legal form does). -/
def vecFmt (t : Ty) : Fmt := (fmtOf t).getD .fp32

/-- Lane l of a vector field as a value. -/
def State.laneF (s : State) (c : VCode) (t : Ty) (l : Nat) : FVal := (vecFmt t).value (s.laneBits c t l)

/-- A lanewise floating-point form, rounded once to nearest even (R193). -/
def vfOp (g : Guard) (v1 : Bool) (t : Ty) (srcs : List VCode) (vd : VCode) (m : MCode) (f : Nat → FVal) (s : State) :
    Out :=
  laneOp g v1 t srcs vd m (fun l => (vecFmt t).rne (f l)) 4 s

/-- VFADD (R193). -/
def execVfadd (g : Guard) (v1 : Bool) (ty : Ty) (vd va vb : VCode) (m : MCode) (s : State) : Out :=
  vfOp g v1 ty [va, vb] vd m (fun l => (s.laneF va ty l).add (s.laneF vb ty l)) s

/-- VFSUB (R193). -/
def execVfsub (g : Guard) (v1 : Bool) (ty : Ty) (vd va vb : VCode) (m : MCode) (s : State) : Out :=
  vfOp g v1 ty [va, vb] vd m (fun l => (s.laneF va ty l).add (s.laneF vb ty l).neg) s

/-- VFMUL (R193). -/
def execVfmul (g : Guard) (v1 : Bool) (ty : Ty) (vd va vb : VCode) (m : MCode) (s : State) : Out :=
  vfOp g v1 ty [va, vb] vd m (fun l => (s.laneF va ty l).mul (s.laneF vb ty l)) s

/-- VFFMA (R193): one rounding. -/
def execVffma (g : Guard) (v1 : Bool) (ty : Ty) (vd va vb vc : VCode) (m : MCode) (s : State) : Out :=
  vfOp g v1 ty [va, vb, vc] vd m (fun l => ((s.laneF va ty l).mul (s.laneF vb ty l)).add (s.laneF vc ty l)) s

/-- VFNMA (R193): one rounding. -/
def execVfnma (g : Guard) (v1 : Bool) (ty : Ty) (vd va vb vc : VCode) (m : MCode) (s : State) : Out :=
  vfOp g v1 ty [va, vb, vc] vd m (fun l => ((s.laneF va ty l).mul (s.laneF vb ty l)).neg.add (s.laneF vc ty l)) s

/-- VFDIV (R193). -/
def execVfdiv (g : Guard) (v1 : Bool) (ty : Ty) (vd va vb : VCode) (m : MCode) (s : State) : Out :=
  laneOp g v1 ty [va, vb] vd m (fun l => (vecFmt ty).quotient .rn true (s.laneF va ty l) (s.laneF vb ty l)) 14 s

/-- VFSQRT (R193). -/
def execVfsqrt (g : Guard) (v1 : Bool) (ty : Ty) (vd va : VCode) (m : MCode) (s : State) : Out :=
  laneOp g v1 ty [va] vd m (fun l => (vecFmt ty).sqrt (s.laneF va ty l)) 14 s

/-- VFMIN (R193). -/
def execVfmin (g : Guard) (v1 : Bool) (ty : Ty) (vd va vb : VCode) (m : MCode) (s : State) : Out :=
  laneOp g v1 ty [va, vb] vd m (fun l => (vecFmt ty).min (s.laneBits va ty l) (s.laneBits vb ty l)) 4 s

/-- VFMAX (R193). -/
def execVfmax (g : Guard) (v1 : Bool) (ty : Ty) (vd va vb : VCode) (m : MCode) (s : State) : Out :=
  laneOp g v1 ty [va, vb] vd m (fun l => (vecFmt ty).max (s.laneBits va ty l) (s.laneBits vb ty l)) 4 s

/-- A pattern with its sign bit set as given; a NaN becomes canonical (R193). -/
def withSign (f : Fmt) (neg : Bool → Bool) (x : Nat) : Nat :=
  let v := f.value x
  if v.isNan then f.qnan else f.sign (neg (elem x 1 (f.ebits + f.mbits) == 1)) + bitsOf x 0 (f.ebits + f.mbits)

/-- VFABS (R193). -/
def execVfabs (g : Guard) (v1 : Bool) (ty : Ty) (vd va : VCode) (m : MCode) (s : State) : Out :=
  laneOp g v1 ty [va] vd m (fun l => withSign (vecFmt ty) (fun _ => false) (s.laneBits va ty l)) 4 s

/-- VFNEG (R193). -/
def execVfneg (g : Guard) (v1 : Bool) (ty : Ty) (vd va : VCode) (m : MCode) (s : State) : Out :=
  laneOp g v1 ty [va] vd m (fun l => withSign (vecFmt ty) not (s.laneBits va ty l)) 4 s

/-! ### Reductions (R199) -/

/-- Active lanes of a vector field as the leaves of the tree. -/
def State.leaves (s : State) (va : VCode) (t : Ty) (m : MCode) : List (Option Nat) :=
  let k := s.readM m
  let x := s.readV va
  (upto t.lanes).map fun l => if activeIn k l t then some (Machine.lane x t l) else none

/-- A NaN in canonical form, also when it only passes through (R28); an integer as it stands. -/
def canonNan (t : Ty) (x : Nat) : Nat :=
  match fmtOf t with
  | some f => if (f.value x).isNan then f.qnan else x
  | none => x

/-- A reduction: the root in lane 0 of vd, every other lane zero; an absent root is the identity. -/
def reduceOp (g : Guard) (v1 : Bool) (t : Ty) (vd va : VCode) (m : MCode) (op : Nat → Nat → Nat) (unit : Nat)
    (s : State) : Out :=
  let root := canonNan t ((tree op (s.leaves va t m)).getD unit)
  guarded g s (readingV s (vNum v1) [va]
    (storeV s (vNum v1) vd true (BitVec.ofNat 2048 (root % 2 ^ t.bits)) (s.due 6)))

/-- VSUM (R199). -/
def execVsum (g : Guard) (v1 : Bool) (ty : Ty) (sat : Bool) (vd va : VCode) (m : MCode) (s : State) : Out :=
  reduceOp g v1 ty vd va m (fun a b => narrow ty sat (intOf ty a + intOf ty b)) 0 s

/-- VRMAX (R199). -/
def execVrmax (g : Guard) (v1 : Bool) (ty : Ty) (vd va : VCode) (m : MCode) (s : State) : Out :=
  reduceOp g v1 ty vd va m (fun a b => if intOf ty a ≤ intOf ty b then b else a) (wrapTy ty (tyMin ty)) s

/-- VRMIN (R199). -/
def execVrmin (g : Guard) (v1 : Bool) (ty : Ty) (vd va : VCode) (m : MCode) (s : State) : Out :=
  reduceOp g v1 ty vd va m (fun a b => if intOf ty a ≤ intOf ty b then a else b) (wrapTy ty (tyMax ty)) s

/-- VFSUM (R199). -/
def execVfsum (g : Guard) (v1 : Bool) (ty : Ty) (vd va : VCode) (m : MCode) (s : State) : Out :=
  reduceOp g v1 ty vd va m (vecFmt ty).sum 0 s

/-- VFRMAX (R199). -/
def execVfrmax (g : Guard) (v1 : Bool) (ty : Ty) (vd va : VCode) (m : MCode) (s : State) : Out :=
  reduceOp g v1 ty vd va m (vecFmt ty).max ((vecFmt ty).sign true + (vecFmt ty).infinity) s

/-- VFRMIN (R199). -/
def execVfrmin (g : Guard) (v1 : Bool) (ty : Ty) (vd va : VCode) (m : MCode) (s : State) : Out :=
  reduceOp g v1 ty vd va m (vecFmt ty).min (vecFmt ty).infinity s

end Sys2Proof.Machine
end

