-- ==== Sys2Proof/Machine/Convert.lean ====
section
/-! DEFINITION. The V slots: conversions between element types and to and from shared-exponent blocks
(R194 to R196). -/

namespace Sys2Proof.Machine

/-- Lanes of vd that a conversion of n elements writes, and the source element of each: lane d of dt takes element i
(R194). -/
def partLane (dt : Ty) (n : Nat) (part : Nat) (d : Nat) : Option Nat :=
  if dt.lanes ≤ n then some d
  else if part * n ≤ d && d < part * n + n then some (d - part * n) else none

/-- A converting form: lane d of vd takes f i where the part places element i there, and keeps its value elsewhere
(R188, R194). -/
def convertOp (g : Guard) (v1 : Bool) (dt : Ty) (n : Nat) (part : BitVec 3) (srcs : List VCode) (vd : VCode) (m : MCode)
    (f : Nat → Nat) (s : State) : Out :=
  laneOp g v1 dt srcs vd m
    (fun d => match partLane dt n part.toNat d with | some i => f i | none => lane (s.keptV vd) dt d) 4 s

/-- An integer converted to an integer type saturates (R194); every other conversion is cvt. -/
def cvtElem (dt st : Ty) (rm : Rm) (inf : Bool) (x : Nat) : Nat :=
  if st.isFloat || dt.isFloat then cvt dt rm inf (valueOf st x) else satTy dt (intOf st x)

/-- VCVT (R194). -/
def execVcvt (g : Guard) (v1 : Bool) (dt st : Ty) (part : BitVec 3) (inf : Bool) (rm : Rm) (vd va : VCode) (m : MCode)
    (s : State) : Out :=
  let n := Nat.min st.lanes dt.lanes
  convertOp g v1 dt n part [va] vd m
    (fun i => cvtElem dt st rm inf (s.laneBits va st (if dt.lanes < st.lanes then part.toNat * n + i else i))) s

/-- VCVTS (R195). -/
def execVcvts (g : Guard) (v1 : Bool) (dt : Ty) (part : BitVec 3) (inf : Bool) (rm : Rm) (vd va vb : VCode) (m : MCode)
    (s : State) : Out :=
  convertOp g v1 dt 64 part [va, vb] vd m
    (fun i => cvtScaled dt rm inf (s.laneF va .f32 i) (s.laneF vb .f32 i)) s

/-- VSBPK (R196): four blocks of lanes 16g to 16g + 15 at the part's bytes; the other bytes keep their values. -/
def execVsbpk (g : Guard) (v1 : Bool) (f : BitVec 2) (part : BitVec 3) (inf : Bool) (rm : Rm) (vd va : VCode)
    (_m : MCode) (s : State) : Out :=
  let mag := sbMag f
  let b := sbBits mag
  let blocks := packElems b (fun gi => sbEncode mag rm inf ((upto 16).map fun j => s.laneF va .f32 (16 * gi + j))) 4
  let at0 := part.toNat * 4 * b
  let mask : VReg := BitVec.ofNat 2048 ((2 ^ (4 * b) - 1) * 2 ^ at0)
  guarded g s (readingV s (vNum v1) [va]
    (storeV s (vNum v1) vd false ((s.keptV vd &&& ~~~mask) ||| (BitVec.ofNat 2048 (blocks * 2 ^ at0) &&& mask)) (s.due 4)))

/-- VSBUN (R196): lane 16g + j takes the exact value of element j of block g. -/
def execVsbun (g : Guard) (v1 : Bool) (f : BitVec 2) (part : BitVec 3) (_inf : Bool) (_rm : Rm) (vd va : VCode)
    (m : MCode) (s : State) : Out :=
  let mag := sbMag f
  let b := sbBits mag
  laneOp g v1 .f32 [va] vd m
    (fun l => Fmt.fp32.rne (sbDecode mag (bitsOf (s.readV va).toNat ((part.toNat * 4 + l / 16) * b) b) (l % 16))) 4 s

end Sys2Proof.Machine
end

