-- ==== Sys2Proof/Machine/FrontEnd.lean ====
section
/-! DEFINITION. The command front end: fetch windows, packets, the event queue, power gating, and what the host writes
(R344 to R351). -/

namespace Sys2Proof.Machine

/-! ### Fetching (R344, R349) -/

/-- Translation context of a queue's accesses, with the rights of device firmware. -/
def cqXlat (c : CmdQueue) : Xlat :=
  { asid := c.asid, ttb := c.ttb.toNat, handler := true, phased := false, ctx := none }

/-- Number under which requests of a command queue are sent: no context's, and no ring's. -/
def cqAgent (c : CmdQueue) : Nat := 2 ^ 30 + 16 + c.slot

/-- Number of the level that runs. -/
def CmdQueue.level (c : CmdQueue) : Nat := c.levels.length - 1

/-- Virtual address of dword i of the level that runs; level 0 is a ring. -/
def CmdQueue.va (c : CmdQueue) (l : CqLevel) (i : Nat) : Nat :=
  (l.base.toNat + 4 * (if c.level = 0 then i % c.size.toNat else i)) % 2 ^ 64

/-- An access of a queue to a line faults: it holds poison, or no link reaches its module (R65, R105; the error that stops the
queue: DEDUCED, log 129). -/
def cqBadLine (s : State) (l : Nat) : Bool :=
  (rangeOf (64 * l) = .fabric && !reachable s (fabModule (64 * l))) || homePa (64 * l) / 64 ∈ s.poison

/-- The bytes at translated addresses as a queue reads them in one access; lines in the fabric window go as requests of the
queue. none: the access faults. -/
def cqBytes (s : State) (c : CmdQueue) (ps : List Phys) : State × Option (List Byte) :=
  let lines := insertAll ((ps.filter fun p => p.kind ≠ .zero).map fun p => p.pa / 64) []
  let far := lines.filter fun l => rangeOf (64 * l) = .fabric
  if lines.any (cqBadLine s) then (s, none)
  else
    let s1 := if far.isEmpty then s else fabReadNow s (cqAgent c) far
    (s1, some (ps.map fun p => if p.kind = .zero then 0 else memGet s1.mem (homePa p.pa)))

/-- A dword read now; none when the access faults, one to a device page among them. -/
def cqRead (s : State) (c : CmdQueue) (va : Nat) : State × Option W32 :=
  match translatePages s (cqXlat c) .vectorLoad false false (rangePages va 4) [] [] with
  | (s1, pages, []) =>
    let r := cqBytes s1 c ((addrsFrom va 4).map (physOf pages))
    (r.1, r.2.map fun bs => BitVec.ofNat 32 (leNat bs))
  | (s1, _, _) => (s1, none)

/-- LOOP of the level that runs. -/
def CmdQueue.loop (c : CmdQueue) : Option CqLoop :=
  match c.loops with | l :: _ => if l.level = c.level then some l else none | [] => none

/-- A dword that the queue holds: of the body of the running LOOP, or of the window. -/
def CmdQueue.held (c : CmdQueue) (l : CqLevel) (i : Nat) : Option W32 :=
  match c.loop.bind fun b => amFind b.body i with
  | some x => some x
  | none => amFind l.window i

/-- A dword that the queue holds, or reads now. -/
def cqDword (s : State) (c : CmdQueue) (l : CqLevel) (i : Nat) : State × Option W32 :=
  match c.held l i with
  | some x => (s, some x)
  | none => cqRead s c (c.va l i)

/-- Dwords from i on; none when one fails. -/
def cqDwords (s : State) (c : CmdQueue) (l : CqLevel) (i : Nat) : Nat → State × Option (List W32)
  | 0 => (s, some [])
  | n + 1 =>
    match cqDword s c l i with
    | (s1, none) => (s1, none)
    | (s1, some x) =>
      let r := cqDwords s1 c l (i + 1) n
      (r.1, r.2.map fun xs => x :: xs)

/-- End of the level's window: of its buffer, or QTAIL. -/
def CmdQueue.limit (c : CmdQueue) (l : CqLevel) : Nat := if c.level = 0 then c.tail.toNat else l.len

/-- The window with the dwords of these numbers read that it does not hold; a page that fails leaves its dwords out. -/
def fillWindow (s : State) (c : CmdQueue) (l : CqLevel) : List Nat → State × CqLevel
  | [] => (s, l)
  | i :: is =>
    match amFind l.window i with
    | some _ => fillWindow s c l is
    | none =>
      match cqRead s c (c.va l i) with
      | (s1, some x) => fillWindow s1 c { l with window := amSet l.window i x } is
      | (s1, none) => fillWindow s1 c l is

/-- The window at the packet about to be performed: 256 bytes from it on (R349). -/
def fetchAhead (s : State) (q : Nat) : State :=
  let c := s.cq q
  match c.levels with
  | [] => s
  | l :: ls =>
    let l0 := { l with window := l.window.filter fun w => l.pos ≤ w.1 && w.1 < l.pos + 64 }
    let n := Nat.min 64 (c.limit l - l.pos)
    let x := fillWindow s c l0 ((upto n).map fun i => l.pos + i)
    x.1.modCq q fun c => { c with levels := x.2 :: ls }

/-! ### Position (R347, R351) -/

/-- OPC of a header. -/
def hdrOpc (h : W32) : Nat := bitsOf h.toNat 24 8
/-- ARG of a header. -/
def hdrArg (h : W32) : Nat := bitsOf h.toNat 16 8
/-- NDW of a header. -/
def hdrNdw (h : W32) : Nat := bitsOf h.toNat 0 16

/-- QHEAD follows level 0 when no call and no LOOP holds its packet. -/
def CmdQueue.settleHead (c : CmdQueue) : CmdQueue :=
  match c.levels with
  | [l] => if c.loops.isEmpty then { c with head := BitVec.ofNat 32 l.pos } else c
  | _ => c

/-- A packet of n dwords has passed at the level that runs; body: packets that pass with a skipped LOOP. Packets to skip are
counted as the queue comes to them, so those of a LOOP's later passes count too (log 68). -/
def CmdQueue.pass (c : CmdQueue) (n body : Nat) : CmdQueue :=
  match c.levels with
  | [] => c
  | l :: ls =>
    let runs := (c.runs.map fun r => if r.level = c.level then { r with left := r.left - 1 + body } else r).filter
      fun r => r.left ≠ 0
    let c1 := { c with levels := { l with pos := l.pos + n } :: ls, runs := runs }
    match c.loop with
    | none => c1.settleHead
    | some b =>
      if 1 < b.todo then { c1 with loops := { b with todo := b.todo - 1 } :: c1.loops.tail }
      else if 1 < b.left then
        { c1 with levels := { l with pos := b.start } :: ls,
                  loops := { b with left := b.left - 1, todo := b.packets } :: c1.loops.tail }
      else ({ c1 with loops := c1.loops.tail } : CmdQueue).settleHead

/-- The level that runs ends, and its caller goes on. -/
def CmdQueue.return (c : CmdQueue) : CmdQueue :=
  let lv := c.level
  ({ c with levels := c.levels.tail, loops := c.loops.filter fun b => b.level < lv,
            runs := c.runs.filter fun r => r.level < lv } : CmdQueue).settleHead

/-- The level that runs is to skip its next n packets. -/
def CmdQueue.skipNext (c : CmdQueue) (n : Nat) : CmdQueue := { c with runs := { level := c.level, left := n } :: c.runs }

/-- The next packet is skipped by a PRED or a LOOP of COUNT zero. -/
def CmdQueue.skipping (c : CmdQueue) : Bool :=
  c.runs.any fun r => r.level = c.level

/-- The ordering lock is given back (R345). -/
def cqUnlock (s : State) (q : Nat) : State := s.modCq q fun c => { c with locked := none }

/-- The queue stops at the packet at its position (R351). -/
def cqStop (s : State) (q code : Nat) : State :=
  let c := s.cq q
  let at1 := match c.levels with | l :: _ => c.va l l.pos | [] => 0
  cqUnlock (cqError (s.modCq q fun c => { c with failAt := BitVec.ofNat 64 at1 }) q code) q

/-! ### LOOP bodies -/

/-- What the packets of a LOOP's body come to: its end, an error, or not all written yet. -/
inductive BodyEnd where
  | ok (s : State) (e : Nat)
  | error (s : State) (code : Nat)
  | wait (s : State)

/-- End of n packets from dword i on; start: the body's first dword (R347). -/
def bodyEnd (c : CmdQueue) (l : CqLevel) (start : Nat) : Nat → State → Nat → BodyEnd
  | 0, s, i => .ok s i
  | n + 1, s, i =>
    if c.level = 0 && c.tail.toNat ≤ i then .wait s
    else if c.level ≠ 0 && l.len ≤ i then .error s 5
    else match cqDword s c l i with
      | (s1, none) => .error s1 7
      | (s1, some h) =>
        let e := i + 1 + hdrNdw h
        if hdrOpc h = 5 || 64 < e - start || (c.level ≠ 0 && l.len < e) then .error s1 5
        else if c.level = 0 && c.tail.toNat < e then .wait s1
        else bodyEnd c l start n s1 e

/-- The body of n packets read once (R349): its end and bytes. -/
def readBody (s : State) (c : CmdQueue) (l : CqLevel) (start n : Nat) : BodyEnd × List (Nat × W32) :=
  match bodyEnd c l start n s start with
  | .ok s1 e =>
    (match cqDwords s1 c l start (e - start) with
     | (s2, some xs) => (.ok s2 e, xs.zipIdx.map fun p => (start + p.2, p.1))
     | (s2, none) => (.error s2 7, []))
  | r => (r, [])

/-! ### The next packet (R345, R346) -/

/-- The packet as a step of its queue; none for a reserved OPC. -/
def packetStep (q : Nat) (p : Packet) : Option Instr :=
  match p.opc.toNat with
  | 0 => some (.nopPacket q p)
  | 1 => some (.launchPacket q p)
  | 2 => some (.ibcallPacket q p)
  | 3 => some (.ibretPacket q p)
  | 4 => some (.predPacket q p)
  | 5 => some (.loopPacket q p)
  | 6 => some (.writePacket q p)
  | 7 => some (.twaitPacket q p)
  | 8 => some (.tsigPacket q p)
  | 9 => some (.ffencePacket q p)
  | 10 => some (.wakearmPacket q p)
  | _ => none

/-- The packet at the position, found and fetched, becomes the queue's next step; an error stops the queue. -/
def offerPacket (s : State) (q : Nat) (c : CmdQueue) (l : CqLevel) (h : W32) : State :=
  let n := hdrNdw h
  let pay := if hdrOpc h = 0 then (s, some (List.replicate n 0)) else cqDwords s c l (l.pos + 1) n
  match pay with
  | (s1, none) => cqStop s1 q 7
  | (s1, some xs) =>
    match packetStep q { opc := BitVec.ofNat 8 (hdrOpc h), arg := BitVec.ofNat 8 (hdrArg h), payload := xs } with
    | some i => { s1 with work := s1.work ++ [i] }
    | none => cqStop s1 q 1

/-- The body of a LOOP whose bytes an FFENCE has dropped is read again as its pass begins (R349). -/
def renewBody (s : State) (q : Nat) : Option State :=
  let c := s.cq q
  match c.loop, c.levels with
  | some b, l :: _ =>
    if b.body.isEmpty && b.todo = b.packets then
      match readBody s c l b.start b.packets with
      | (.ok s1 _, xs) => some (s1.modCq q fun c => { c with loops := { b with body := xs } :: c.loops.tail })
      | (.error s1 code, _) => some (cqStop s1 q code)
      | (.wait s1, _) => some (cqUnlock s1 q)
    else none
  | _, _ => none

/-- The holder of a queue's lock goes on: levels that have ended return, skipped packets pass, the window is fetched, and
the next packet becomes a step. The lock is given back when there is none (R344 to R349). -/
def cqGoOn : Nat → State → Nat → State
  | 0, s, q => cqUnlock s q
  | fuel + 1, s, q =>
    let c := s.cq q
    match c.levels with
    | [] => cqUnlock s q
    | l :: ls =>
      if !c.en || c.err ≠ 0 || c.locked.isNone then cqUnlock s q
      else if !ls.isEmpty && l.len ≤ l.pos then cqGoOn fuel (s.modCq q CmdQueue.return) q
      else if ls.isEmpty && (c.tail.toNat < c.head.toNat || c.head.toNat + c.size.toNat < c.tail.toNat) then cqStop s q 9
      else if ls.isEmpty && c.tail.toNat ≤ l.pos then cqUnlock s q
      else match renewBody s q with
        | some s1 => if (s1.cq q).locked.isSome then cqGoOn fuel s1 q else s1
        | none =>
          let s1 := fetchAhead s q
          let c1 := s1.cq q
          match c1.levels with
          | [] => cqUnlock s1 q
          | l1 :: _ =>
            match cqDword s1 c1 l1 l1.pos with
            | (s2, none) => cqStop s2 q 7
            | (s2, some h) =>
              let e := l1.pos + 1 + hdrNdw h
              if ls.isEmpty && c1.tail.toNat < e then cqUnlock s2 q
              else if !ls.isEmpty && l1.len < e then cqStop s2 q 5
              else if c1.skipping then
                cqGoOn fuel (s2.modCq q fun c => c.pass (1 + hdrNdw h) (if hdrOpc h = 5 then hdrArg h else 0)) q
              else offerPacket s2 q c1 l1 h

/-- Packets that may pass without a step of their own: a PRED or LOOP skips at most 255, each with a body of 255. -/
def cqFuel : Nat := 66000

/-- The packet has taken effect: the queue goes on behind it. -/
def cqNext (s : State) (q : Nat) (p : Packet) : Out :=
  .next (cqGoOn cqFuel (s.modCq q fun c => c.pass (1 + p.payload.length) 0) q)

/-- A packet of a queue that runs; ok: its NDW and ARG are in its row of Table 20-2 (R346). -/
def packetOp (q : Nat) (ok : Bool) (s : State) (k : CmdQueue → CqLevel → Out) : Out :=
  let c := s.cq q
  match c.levels with
  | [] => .next (cqUnlock s q)
  | l :: _ =>
    if !c.en || c.err ≠ 0 then .next (cqUnlock s q)
    else if !ok then .next (cqStop s q 2)
    else k c l

/-- Payload dword i. -/
def pkDword (p : Packet) (i : Nat) : Nat := (p.payload.getD i 0).toNat
/-- The 64-bit value of payload dwords i and i + 1, the low one first. -/
def pkLong (p : Packet) (i : Nat) : Nat := pkDword p i + 2 ^ 32 * pkDword p (i + 1)
/-- NDW. -/
def pkNdw (p : Packet) : Nat := p.payload.length

/-! ### The packets (R347) -/

/-- NOP. -/
def execNopPacket (q : Nat) (p : Packet) (s : State) : Out := packetOp q (p.arg = 0) s fun _ _ => cqNext s q p

/-- The wall cycle in which the front end's launch enters its queue: one in which no task has launched yet, so that it comes
first in its cycle (R283). -/
def launchCycle (s : State) : State := if s.lastIssue.1 = s.wall then { s with wall := s.wall + 1 } else s

/-- LAUNCH: depth 0, the next number on the queue's engine context 5. -/
def execLaunchPacket (q : Nat) (p : Packet) (s : State) : Out :=
  packetOp q (p.arg = 0 && pkNdw p = 3 && pkDword p 2 < 64) s fun c _ =>
    let va := pkLong p 0
    let hw := pkDword p 2
    if va % 64 ≠ 0 then .next (cqStop s q 6)
    else match translatePages s (cqXlat c) .vectorLoad false false (touched va 256 0) [] [] with
      | (s1, _, _ :: _) => .next (cqStop s1 q 7)
      | (s1, pages, []) =>
        match cqBytes s1 c ((addrsFrom va 256).map (physOf pages)) with
        | (s2, none) => .next (cqStop s2 q 7)
        | (s2, some r) =>
          if !recordOk s2 (s2.lq hw).part r || !(s2.lq hw).enabled then .next (cqStop s2 q 8)
          else
            let x := takeNumber (launchCycle s2) c.slot 5
            cqNext (enqueue x.2 hw (newLaunch x.2 hw va r (.front q c.slot x.1) 0 c.asid c.ttb)) q p

/-- IBCALL. -/
def execIbcallPacket (q : Nat) (p : Packet) (s : State) : Out :=
  packetOp q (p.arg = 0 && pkNdw p = 3) s fun c _ =>
    if pkLong p 0 % 4 ≠ 0 || pkDword p 2 = 0 || 2 ^ 24 < pkDword p 2 then .next (cqStop s q 6)
    else if 4 ≤ c.level then .next (cqStop s q 3)
    else
      let new : CqLevel := { base := BitVec.ofNat 64 (pkLong p 0), len := pkDword p 2, pos := 0, window := [] }
      .next (cqGoOn cqFuel (s.modCq q fun c =>
        let c1 := c.pass 4 0
        { c1 with levels := new :: c1.levels, head := c.head }) q)

/-- IBRET. -/
def execIbretPacket (q : Nat) (p : Packet) (s : State) : Out :=
  packetOp q (p.arg = 0 && pkNdw p = 0) s fun c _ =>
    if c.level = 0 then .next (cqStop s q 4)
    else .next (cqGoOn cqFuel (s.modCq q CmdQueue.return) q)

/-- The condition of a PRED. -/
def predHolds (w mask value cond : Nat) : Bool :=
  let x := w &&& mask
  match cond with | 0 => x == value | 1 => x != value | 2 => decide (value ≤ x) | _ => decide (x < value)

/-- Of the n packets from dword i on, those behind the running LOOP, and where they begin: the LOOP's passes come first. -/
def runBehind (s : State) (c : CmdQueue) (l : CqLevel) (n i : Nat) : Nat × Nat :=
  match c.loop with
  | none => (n, i)
  | some b =>
    match bodyEnd c l b.start b.packets s b.start with
    | .ok _ e => (n - (b.todo - 1 + (b.left - 1) * b.packets), e)
    | _ => (0, i)

/-- The n packets from dword i on lie within their buffer; a LOOP counts with its body (R347). A header that cannot be
read is left to its own turn. -/
def runFits (s : State) (c : CmdQueue) (l : CqLevel) : Nat → Nat → Nat → Bool
  | 0, _, _ => true
  | _ + 1, 0, _ => true
  | fuel + 1, n + 1, i =>
    if l.len ≤ i then false
    else match (cqDword s c l i).2 with
      | none => true
      | some h =>
        let e := i + 1 + hdrNdw h
        e ≤ l.len && runFits s c l fuel (if hdrOpc h = 5 then n + hdrArg h else n) e

/-- The word that a PRED loads; a device page is a device access. none: the access faults. -/
def predWord (s : State) (c : CmdQueue) (va : Nat) (k : State → Option Nat → Out) : Out :=
  match translatePages s (cqXlat c) .scalarLoad false false (rangePages va 4) [] [] with
  | (s1, _, _ :: _) => k s1 none
  | (s1, pages, []) =>
    let x := physOf pages va
    if rangeOf x.pa = .device && x.kind ≠ .zero then k s1 (some (deviceLoad s1 none x.pa 4))
    else
      let r := cqBytes s1 c ((addrsFrom va 4).map (physOf pages))
      k r.1 (r.2.map leNat)

/-- PRED. -/
def execPredPacket (q : Nat) (p : Packet) (s : State) : Out :=
  packetOp q (p.arg ≠ 0 && pkNdw p = 5 && pkDword p 4 < 4) s fun c l =>
    let n := p.arg.toNat
    if pkLong p 0 % 4 ≠ 0 then .next (cqStop s q 6)
    else if c.level ≠ 0 && !runFits s c l cqFuel (runBehind s c l n (l.pos + 6)).1 (runBehind s c l n (l.pos + 6)).2 then
      .next (cqStop s q 5)
    else predWord s c (pkLong p 0) fun s1 w =>
      match w with
      | none => .next (cqStop s1 q 7)
      | some w =>
        .next (cqGoOn cqFuel (s1.modCq q fun c =>
          let c1 := c.pass 6 0
          if predHolds w (pkDword p 2) (pkDword p 3) (pkDword p 4) then c1 else c1.skipNext n) q)

/-- LOOP: its body is read as it starts; at level 0 it waits until QTAIL covers the body. -/
def execLoopPacket (q : Nat) (p : Packet) (s : State) : Out :=
  packetOp q (p.arg ≠ 0 && pkNdw p = 1) s fun c l =>
    let n := p.arg.toNat
    let start := l.pos + 2
    match readBody s c l start n with
    | (.error s1 code, _) => .next (cqStop s1 q code)
    | (.wait s1, _) => .next (cqUnlock s1 q)
    | (.ok s1 _, xs) =>
      if c.loop.isSome then .next (cqStop s1 q 5)
      else if pkDword p 0 = 0 then
        .next (cqGoOn cqFuel (s1.modCq q fun c => (c.pass 2 0).skipNext n) q)
      else
        let b : CqLoop := { level := c.level, left := pkDword p 0, packets := n, todo := n, start := start, body := xs }
        .next (cqGoOn cqFuel (s1.modCq q fun c =>
          let c1 := c.pass 2 0
          { c1 with loops := b :: c1.loops, head := c.head }) q)

/-- Data bytes of a WRITE. -/
def writeBytes (p : Packet) : List Byte := (p.payload.drop 2).flatMap fun x => leBytes 4 x.toNat

/-- Stores of a queue at one point of the module order; those through the fabric window go as requests of the queue and are
performed before the next packet (R345, R348). -/
def cqPerform (s : State) (c : CmdQueue) (cells : List (Nat × Byte)) : State :=
  let far := cells.filter fun x => rangeOf x.1 = .fabric
  let near := cells.filter fun x => rangeOf x.1 ≠ .fabric
  let s1 := s.perform none near
  fabStoreNow s1 (cqAgent c) far

/-- WRITE: one point in the module order. More than one dword is no device access: a device page then fails with reason 7,
and gets neither A nor D (R13, R344). A module that no link reaches takes no store (R105, log 129). -/
def execWritePacket (q : Nat) (p : Packet) (s : State) : Out :=
  packetOp q (p.arg = 0 && 3 ≤ pkNdw p && pkNdw p ≤ 66) s fun c _ =>
    let va := pkLong p 0
    let bs := writeBytes p
    let cls : Access := if pkNdw p = 3 then .scalarStore else .vectorStore
    if va % 4 ≠ 0 then .next (cqStop s q 6)
    else match translatePages s (cqXlat c) cls true false (rangePages va bs.length) [] [] with
      | (s1, _, _ :: _) => .next (cqStop s1 q 7)
      | (s1, pages, []) =>
        let x := physOf pages va
        if pages.any fun y => rangeOf y.2.pa = .device then
          (if pkNdw p = 3 then cqNext (deviceNarrow s1 none x.pa 4 (pkDword p 2)) q p else .next (cqStop s q 7))
        else
          let cells := physCells pages va bs
          if cells.any fun y => rangeOf y.1 = .fabric && !reachable s1 (fabModule y.1) then .next (cqStop s1 q 7)
          else cqNext (cqPerform s1 c cells) q p

/-- TWAIT: a blocked queue gives its control core back. -/
def execTwaitPacket (q : Nat) (p : Packet) (s : State) : Out :=
  let h := BitVec.ofNat 64 (pkLong p 0)
  packetOp q (p.arg = 0 && pkNdw p = 4 && !handleIllegal h) s fun _ _ =>
    if waitMet s h (pkLong p 2) then cqNext s q p
    else .next (cqUnlock (s.modCq q fun c => { c with waiting := some (h, pkLong p 2) }) q)

/-- TSIG: engine context 4 of the queue. -/
def execTsigPacket (q : Nat) (p : Packet) (s : State) : Out :=
  packetOp q (p.arg = 0 && pkNdw p = 2) s fun c _ =>
    let t := s.timeline c.slot 4
    cqNext (noteProgress (s.setTimeline c.slot 4 { t with count := Nat.max t.count (pkLong p 0) })) q p

/-- FFENCE: every window and LOOP body of the queue is emptied (R349). -/
def execFfencePacket (q : Nat) (p : Packet) (s : State) : Out :=
  packetOp q (p.arg = 0 && pkNdw p = 0) s fun _ _ =>
    cqNext (s.modCq q fun c => { c with levels := c.levels.map fun l => { l with window := [] },
                                        loops := c.loops.map fun b => { b with body := [] } }) q p

/-- WAKEARM: the armed set is replaced (R350). -/
def execWakearmPacket (q : Nat) (p : Packet) (s : State) : Out :=
  packetOp q (p.arg = 0 && pkNdw p = 1 && pkDword p 0 < 2 ^ 16) s fun _ _ =>
    let fs := (upto 16).foldl (fun m f =>
      amMod WakeFilter.reset m f fun x => { x with armed := (pkDword p 0).testBit f }) s.front.filters
    cqNext { s with front := { s.front with filters := fs } } q p

/-! ### The control pool (R345, R350) -/

/-- Queue that an event belongs to. -/
def FeEvent.queue : FeEvent → Option Nat
  | .doorbell q => some q
  | .progress q => some q
  | .errClear q => some q
  | .wake => none

/-- The event can be handed out: its queue is not locked. -/
def eventFree (s : State) (e : FeEvent) : Bool :=
  match e.queue with | some q => (s.cq q).locked.isNone | none => true

/-- All twelve control cores are gated. -/
def FrontEnd.allGated (f : FrontEnd) : Bool := (upto 12).all fun k => k ∈ f.gated

/-- The control core can take an event: it holds no lock, and it is powered, or a core must be restored. -/
def coreTakes (s : State) (core : Nat) : Bool :=
  core < 12 && (s.cqs.all fun p => p.2.locked ≠ some core) && (core ∉ s.front.gated || s.front.allGated)

/-- The oldest event that can be handed out. -/
def nextEvent (s : State) : Option FeEvent := s.front.events.find? (eventFree s)

/-- Held frames are replayed to the network stack in order. -/
def FrontEnd.replay (f : FrontEnd) : FrontEnd := { f with delivered := f.delivered ++ f.frames, frames := [] }

/-- CONTROL_EVENT_DISPATCH (R345): an event goes to a control core, which takes its queue's lock and goes on with its
packets. -/
def execControlEventDispatch (core : Nat) (s : State) : Out :=
  if !coreTakes s core then .next s
  else match nextEvent s with
    | none => .next s
    | some e =>
      let woken := core ∈ s.front.gated
      let f := ({ s.front with events := s.front.events.erase e, gated := s.front.gated.filter (· ≠ core),
                               lastEvent := amSet s.front.lastEvent core s.wall } : FrontEnd).settle
      let s1 := { s with front := if woken || e = .wake then f.replay else f }
      match e.queue with
      | none => .next s1
      | some q => .next (cqGoOn cqFuel (s1.modCq q fun c => { c with locked := some core, waiting := none }) q)

/-- A control core may gate itself: GATE cycles of the 1.6 GHz clock, two of them in a wall cycle, without an event (R350,
Table 9-10). -/
def gateDue (s : State) (core : Nat) : Bool :=
  core < 12 && s.front.gate ≠ 0 && core ∉ s.front.gated && (s.cqs.all fun p => p.2.locked ≠ some core)
    && decide (s.front.gate.toNat ≤ 2 * (s.wall - amGet 0 s.front.lastEvent core))

/-- CONTROL_CORE_GATE (R350). -/
def execControlCoreGate (core : Nat) (s : State) : Out :=
  .next (if gateDue s core then { s with front := { s.front with gated := insertOnce core s.front.gated } } else s)

/-- A frame matches a wake filter. -/
def WakeFilter.matches (f : WakeFilter) (frame : List Byte) : Bool :=
  f.armed && f.off.toNat + 8 ≤ frame.length
    && BitVec.ofNat 64 (leNat ((frame.drop f.off.toNat).take 8)) &&& f.mask == f.value

/-- WAKE_FRAME (R350): a frame at port 0; a match wakes a core, and the frames from it on are held up to 32 KiB. -/
def execWakeFrame (frame : List Byte) (s : State) : Out :=
  let f := s.front
  if !f.allGated then .next { s with front := { f with delivered := f.delivered ++ [frame] } }
  else
    let hit := !f.frames.isEmpty || (f.filters.any fun p => p.2.matches frame)
    let room := (f.frames.map List.length).foldl (· + ·) frame.length ≤ 32768
    if hit && room then
      .next (feEvent { s with front := { f with frames := f.frames ++ [frame] } } .wake)
    else .next { s with front := { f with dropped := f.dropped + 1 } }

/-! ### The host and the consumers of rings (R73, R307) -/

/-- HOST_MEMORY_WRITE (R73, R352): a posted write of the host to module memory, at one point; bytes past the end of the range make
no access (R8). -/
def execHostMemoryWrite (pa : Nat) (bytes : List Byte) (s : State) : Out :=
  if rangeOf pa ≠ .hbm && rangeOf pa ≠ .host then .fault (.addressGap pa)
  else .next (s.perform none ((cellsAt pa bytes).filter fun c => rangeOf c.1 = rangeOf pa))

/-- The store of HEAD by the consumer of ring k. -/
def headCells (s : State) (k : Nat) (head : Word) : List (Nat × Byte) :=
  cellsAt (homePa ((amGet Ring.reset s.rings k).base + 8)) (leBytes 8 head.toNat)

/-- RING_HEAD_ADVANCE (R307): the consumer of ring k stores HEAD; records that it makes room for are written as the rings
move on. -/
def execRingHeadAdvance (k : Nat) (head : Word) (s : State) : Out := .next (s.perform none (inMap (headCells s k head)))

end Sys2Proof.Machine
end

