-- ==== Sys2Proof/Machine/Permute.lean ====
section
/-! DEFINITION. The V slots: permutes (R198). They move bit patterns (R189). -/

namespace Sys2Proof.Machine

/-- A permute with a write mask, L = 3. -/
def permOp (g : Guard) (v1 : Bool) (t : Ty) (srcs : List VCode) (vd : VCode) (m : MCode) (f : Nat → Nat) (s : State) :
    Out :=
  laneOp g v1 t srcs vd m f 3 s

/-- VPERM (R198). -/
def execVperm (g : Guard) (v1 : Bool) (ty : Ty) (zero : Bool) (vd va vb : VCode) (m : MCode) (s : State) : Out :=
  permOp g v1 ty [va, vb] vd m
    (fun i => let j := s.laneBits vb ty i
              if zero && ty.lanes ≤ j then 0 else s.laneBits va ty (j % ty.lanes)) s

/-- VROT (R198). -/
def execVrot (g : Guard) (v1 : Bool) (ty : Ty) (vd va : VCode) (m : MCode) (sa : SCode) (imm : BitVec 16) (s : State) :
    Out :=
  wideOp g v1 ty [va] vd m sa
    (fun i => s.laneBits va ty ((i + ty.lanes - s.wCount sa imm % ty.lanes) % ty.lanes)) 3 s

/-- VBCL (R198). -/
def execVbcl (g : Guard) (v1 : Bool) (ty : Ty) (vd va : VCode) (m : MCode) (sa : SCode) (imm : BitVec 16) (s : State) :
    Out :=
  wideOp g v1 ty [va] vd m sa (fun _ => s.laneBits va ty (s.wCount sa imm % ty.lanes)) 3 s

/-- VZIP (R198). -/
def execVzip (g : Guard) (v1 : Bool) (ty : Ty) (hi : Bool) (vd va vb : VCode) (m : MCode) (s : State) : Out :=
  let h := if hi then ty.lanes / 2 else 0
  permOp g v1 ty [va, vb] vd m
    (fun i => if i % 2 = 0 then s.laneBits va ty (h + i / 2) else s.laneBits vb ty (h + i / 2)) s

/-- VUZP (R198). -/
def execVuzp (g : Guard) (v1 : Bool) (ty : Ty) (odd : Bool) (vd va vb : VCode) (m : MCode) (s : State) : Out :=
  permOp g v1 ty [va, vb] vd m
    (fun i => let j := 2 * i + odd.toNat
              if j < ty.lanes then s.laneBits va ty j else s.laneBits vb ty (j - ty.lanes)) s

/-- Lanes where the mask is active, ascending. -/
def activeLanes (k : Word) (t : Ty) : List Nat := (upto t.lanes).filter fun l => activeIn k l t

/-- A permute that writes every lane: the mask selects lanes (R198). -/
def selectOp (g : Guard) (v1 : Bool) (t : Ty) (vd va : VCode) (f : Nat → Nat) (s : State) : Out :=
  guarded g s (readingV s (vNum v1) [va] (storeV s (vNum v1) vd true (ofLanes t f) (s.due 3)))

/-- VCOMP (R198). -/
def execVcomp (g : Guard) (v1 : Bool) (ty : Ty) (vd va : VCode) (m : MCode) (s : State) : Out :=
  let act := activeLanes (s.readM m) ty
  selectOp g v1 ty vd va
    (fun i => match (act.drop i).head? with | some l => s.laneBits va ty l | none => 0) s

/-- VEXPD (R198). -/
def execVexpd (g : Guard) (v1 : Bool) (ty : Ty) (vd va : VCode) (m : MCode) (s : State) : Out :=
  let k := s.readM m
  selectOp g v1 ty vd va
    (fun i => if activeIn k i ty then s.laneBits va ty ((upto i).filter fun l => activeIn k l ty).length else 0) s

/-- VSLIDE (R198). -/
def execVslide (g : Guard) (v1 : Bool) (ty : Ty) (down : Bool) (vd va : VCode) (m : MCode) (sa : SCode)
    (imm : BitVec 16) (s : State) : Out :=
  let k := s.wCount sa imm
  wideOp g v1 ty [va] vd m sa
    (fun i => if down then (if i + k < ty.lanes then s.laneBits va ty (i + k) else 0)
              else if k ≤ i then s.laneBits va ty (i - k) else 0) 3 s

end Sys2Proof.Machine
end

