-- ==== Sys2Proof/Machine/Prob.lean ====
section
/-! DEFINITION. The V slots: probability operations (R241 to R243). -/

namespace Sys2Proof.Machine

/-- psqz on one lane: scaled with halves rounded up, then clamped (R241). -/
def squeeze (k pmin : Nat) (x : Int) : Int :=
  let y := if k = 0 then x else (2 * x + ((2 ^ k : Nat) : Int)) / ((2 ^ (k + 1) : Nat) : Int)
  clampInt y pmin (32768 - pmin)

/-- PSQZ (R241). -/
def execPsqz (g : Guard) (v1 : Bool) (ty : Ty) (k : BitVec 4) (pmin : BitVec 16) (vd va : VCode) (m : MCode) (s : State) :
    Out :=
  laneOp g v1 .z32 [va] vd m (fun l => patternOf 32 (squeeze k.toNat pmin.toNat (s.laneInt va ty l))) 3 s

/-- PLUT (R242). -/
def execPlut (g : Guard) (v1 : Bool) (vd va vb : VCode) (m : MCode) (s : State) : Out :=
  laneOp g v1 .z32 [va, vb] vd m
    (fun l => let i := s.laneBits va .z32 l
              elem (s.readV vb).toNat 16 (16 * bitsOf i 4 3 + bitsOf i 0 4)) 3 s

/-- pmix on one lane (R243). -/
def mixLane (a b c : Nat) : Nat :=
  let w := Nat.min c 65536
  (a * w + b * (65536 - w) + 32768) / 65536

/-- PMIX (R243). -/
def execPmix (g : Guard) (v1 : Bool) (vd va vb vc : VCode) (m : MCode) (s : State) : Out :=
  laneOp g v1 .z32 [va, vb, vc] vd m
    (fun l => mixLane (s.laneBits va .z32 l) (s.laneBits vb .z32 l) (s.laneBits vc .z32 l)) 3 s

end Sys2Proof.Machine
end

