-- ==== Sys2Proof/Machine/ScalarFp.lean ====
section
/-! DEFINITION. The S slot: scalar FP32 arithmetic and conversion (R177, R178). -/

namespace Sys2Proof.Machine

/-- The FP32 value in bits [31:0] of s[n] (R167). -/
def State.readF (s : State) (n : SCode) : FVal := Fmt.fp32.value (s.readS n).toNat

/-- A scalar FP operation: sources, the result pattern, the latency. Bits [63:32] of the result are zero (R167). -/
def fpOp (g : Guard) (sd : SCode) (srcs : List SCode) (y : Nat) (l : Nat) (s : State) : Out :=
  guarded g s (readingS s 0 srcs (finishS s sd (BitVec.ofNat 64 y) l))

/-- FADD (R177). -/
def execFadd (g : Guard) (sd sa sb : SCode) (s : State) : Out :=
  fpOp g sd [sa, sb] (Fmt.fp32.rne ((s.readF sa).add (s.readF sb))) 4 s

/-- FSUB (R177). -/
def execFsub (g : Guard) (sd sa sb : SCode) (s : State) : Out :=
  fpOp g sd [sa, sb] (Fmt.fp32.rne ((s.readF sa).add (s.readF sb).neg)) 4 s

/-- FMUL (R177). -/
def execFmul (g : Guard) (sd sa sb : SCode) (s : State) : Out :=
  fpOp g sd [sa, sb] (Fmt.fp32.rne ((s.readF sa).mul (s.readF sb))) 4 s

/-- FFMA (R177): one rounding. -/
def execFfma (g : Guard) (sd sa sb sc : SCode) (s : State) : Out :=
  fpOp g sd [sa, sb, sc] (Fmt.fp32.rne (((s.readF sa).mul (s.readF sb)).add (s.readF sc))) 4 s

/-- FDIV (R177). -/
def execFdiv (g : Guard) (sd sa sb : SCode) (s : State) : Out :=
  fpOp g sd [sa, sb] (Fmt.fp32.quotient .rn true (s.readF sa) (s.readF sb)) 14 s

/-- FSQRT (R177). -/
def execFsqrt (g : Guard) (sd sa : SCode) (s : State) : Out := fpOp g sd [sa] (Fmt.fp32.sqrt (s.readF sa)) 14 s

/-- FMIN (R177). -/
def execFmin (g : Guard) (sd sa sb : SCode) (s : State) : Out :=
  fpOp g sd [sa, sb] (Fmt.fp32.min (s.readS sa).toNat (s.readS sb).toNat) 4 s

/-- FMAX (R177). -/
def execFmax (g : Guard) (sd sa sb : SCode) (s : State) : Out :=
  fpOp g sd [sa, sb] (Fmt.fp32.max (s.readS sa).toNat (s.readS sb).toNat) 4 s

/-- The result of fcvt as a 64-bit register: sign-extended for .s32, zero-extended for every other type (R178). -/
def fcvtResult (t : Ty) (toF32 : Bool) (rm : Rm) (inf : Bool) (x : Word) : Word :=
  if toF32 then BitVec.ofNat 64 (Fmt.fp32.ofValue rm true (valueOf t (x.toNat % 2 ^ t.bits)))
  else
    let y := cvt t rm inf (Fmt.fp32.value x.toNat)
    if t = .s32 then sext64 32 y else BitVec.ofNat 64 y

/-- FCVT (R178). A TYPE outside the eight listed is an Illegal Operation with REASON 0x0E. -/
def execFcvt (g : Guard) (ty : BitVec 4) (toF32 : Bool) (rm : Rm) (inf : Bool) (sd sa : SCode) (s : State) : Out :=
  match Ty.ofCode ty.toNat with
  | none => illegal s 0 0x0E
  | some t => guarded g s (readingS s 0 [sa] (finishS s sd (fcvtResult t toF32 rm inf (s.readS sa)) 4))

end Sys2Proof.Machine
end

