-- ==== Sys2Proof/Machine/Trust.lean ====
section
/-! DEFINITION. Cold reset and life cycle, the loader of Bolmon objects, security versions and attestation (R4, R70,
R329 to R337, R362). -/

namespace Sys2Proof.Machine

/-! ### Measured boot (R335) -/

/-- A measurement register extended with the digest of an image. -/
def measure (m : AMap (BitVec 256)) (n : Nat) (image : List Byte) : AMap (BitVec 256) :=
  amMod 0 m n fun x => sha256 (digestBytes x ++ digestBytes (sha256 image))

/-- The boot ROM measures every firmware image (Table 17-3). -/
def bootMeasures : AMap (BitVec 256) := (upto 5).foldl (fun m n => measure m n (Config.firmwareImage n)) []

/-- What the measured firmware then measures into MEAS5 to MEAS15. -/
def laterMeasures (m : AMap (BitVec 256)) (later : List (Nat × List Byte)) : AMap (BitVec 256) :=
  (later.filter fun p => 5 ≤ p.1 && p.1 ≤ 15).foldl (fun m p => measure m p.1 p.2) m

/-! ### Cold reset and life cycle (R4, R70, R335, R337) -/

/-- Memory outside HBM, which a wipe leaves. -/
def outsideHbm (m : Memory) : Memory := m.filter fun c => rangeOf c.1 != .hbm

/-- The wipe of R4 and R70. What stays is what is outside the module (host memory, the links, requests of other
modules), the fuses, and the model's own counters. -/
def wipe (s : State) : State :=
  { State.reset with
    mem := outsideHbm s.mem, fused := s.fused, wall := s.wall, tick := s.tick, inputs := s.inputs,
    trust := { Trust.reset with lc := s.trust.lc, fusectr := s.trust.fusectr, deviceKey := s.trust.deviceKey },
    fabric := { Fabric.reset with
      seen := s.fabric.seen, failedLinks := s.fabric.failedLinks, unreachable := s.fabric.unreachable } }

/-- COLD_RESET (R70, R335): the wipe, the measured boot, and the measurements that measured firmware adds while it boots
(log 73; DESIGN CHOICE: which images is free). -/
def execColdReset (s : State) : Out :=
  let s1 := wipe s
  .next { s1 with wall := 0, trust := { s1.trust with meas := laterMeasures bootMeasures (Config.laterImages s.tick) } }

/-- HBM_ZERO_COMPLETE (R70): all sixteen units have reported. -/
def execHbmZeroComplete (s : State) : Out := .next { s with hbmReady := true }

/-- Place of a life-cycle state on its one way (R337). -/
def lifeIndex : LifeCycle → Nat
  | .manufacturing => 0
  | .provisioned => 1
  | .deployed => 2
  | .returned => 3

/-- The device key after a transition: created by the one to provisioned, destroyed by the one to returned (R337). -/
def keyAfter (s : State) : LifeCycle → Option Nat
  | .provisioned => some s.tick
  | .returned => none
  | _ => s.trust.deviceKey

/-- One task ended by containment without a policy of its own (R310, R337): its ring entry, with CAUSE 0 and no deciding level,
since neither is given (DESIGN CHOICE, log 107). -/
def endTask (s : State) (n : Nat) : State :=
  let c := s.ctxOf n
  let record := plainRecord c.arch.asid.toNat 0 0xF c.arch.pc.toNat 0 c.arch.epc.toNat []
  (forwardEntry s c.arch.asid.toNat (putByte (ringEntry s n 0 0 c.arch.epc 0 record) (0x40 + 0x7F) 0xFF)).1

/-- Every task, saved ones too, ended by containment, in ascending order of their contexts; none is retried, and their engine
commands run on (R310, R337). -/
def endTasks (s : State) : State :=
  let s1 := ((s.ctxs.filter fun p => p.2.life = .running || p.2.life = .halting).map Prod.fst).foldl endTask s
  (s1.launches.map Prod.fst).foldl (fun s id => leaveQueue (stopTasks s id (fun _ => true) .failed) id) s1

/-- A command that still runs to completion: it is not paused, its group has issued, and no link has lost its requests. -/
def cmdRuns (s : State) (n : Nat) (k : Cmd) : Bool :=
  !k.paused && (lostOut s (pendingOut s n fun o => o.eng == k.eng && o.num == k.num)).isNone &&
    match k.work with
    | .collective coll => (amFind s.colls coll).any Collective.full
    | _ => true

/-- LIFECYCLE_TRANSITION (R337): one place forward; the tasks end by containment, their engine commands run to completion,
for which the event waits, then comes the wipe, before the new state takes effect. -/
def execLifecycleTransition (goal : LifeCycle) (s : State) : Out :=
  .next (if lifeIndex goal = lifeIndex s.trust.lc + 1 then
    let s1 := endTasks s
    if s1.ctxs.any fun p => p.2.cmds.any (cmdRuns s1 p.1) then { s1 with issue := .braked }
    else
      let s2 := wipe s1
      { s2 with trust := { s2.trust with lc := goal, deviceKey := keyAfter s goal } }
  else s)

/-! ### Security versions (R334) -/

/-- A load that has not mapped any text yet and no longer passes check 0x07. -/
def refusedLoad (value : Nat) (o : LoadedObject) : Bool := decide (o.svn < value) && o.resident.isEmpty && !o.native

/-- The stores that unmap the pages of an object's sections, since the load of one that is refused maps nothing (R331, R334). -/
def unmapCells (s : State) (o : BmoObject) : List (Nat × Byte) :=
  (o.sections.filter fun x => x.kind ≠ .text).flatMap fun x => (sectPages x).flatMap fun p =>
    match leafPlace s.mem (65536 * p) 3 0 o.ttb with
    | some a => inMap (cellsAt a (leBytes 8 0))
    | none => []

/-- FUSECTR_ADVANCE (R334). -/
def execFusectrAdvance (value : BitVec 8) (s : State) : Out :=
  .next (if s.trust.fusectr.toNat < value.toNat then
    let bad := s.trust.objects.filter fun o => refusedLoad value.toNat o.2
    let s1 := if bad.isEmpty then s else s.perform none (bad.flatMap fun o => unmapCells s o.2.obj)
    { s1 with
      tlb := s1.tlb.filter fun e => !(e.leaf && bad.any fun o => e.asid == o.2.obj.asid),
      trust := { s1.trust with
        fusectr := value, cache := s1.trust.cache.filter (fun e => value.toNat ≤ e.svn),
        objects := s1.trust.objects.filter (fun o => !refusedLoad value.toNat o.2),
        loadCode := if bad.isEmpty then s1.trust.loadCode else 7 } }
  else s)

/-! ### The checks of a load (R329 to R331) -/

/-- Check 0x01: MAGIC, VERSION and every zero field of Table 17-1. -/
def headerOk (bs : List Byte) : Bool :=
  decide (256 ≤ bs.length) && headBits bs 0 0 32 == 0x424F4D42 && headBits bs 0 32 16 == 1 && headBits bs 0 48 16 == 0
    && headBits bs 8 26 38 == 0 && recWord bs 0x18 == 0 && ((bs.drop 0x88).take 120).all (· == 0)

/-- Check 0x02. -/
def signatureOk (bs : List Byte) : Bool :=
  slhVerify slh128s (signerOf bs) (bs.take 128) (signatureOf bs) && Config.signerTrusted (signerOf bs)

/-- Check 0x03: at most 32 levels pair any number of chunks. -/
def rootOk (bs : List Byte) : Bool :=
  hashRoot 33 ((upto (nchunk bs)).map fun i => chunkLeaf (chunkOf bs i)) == some (rootOf bs)

/-- The first check of Table 17-2 that fails, or 0. -/
def loadCheck (s : State) (o : BmoObject) : Nat :=
  let bs := o.bytes
  if !headerOk bs then 1
  else if !signatureOk bs then 2
  else if !rootOk bs then 3
  else if deviceFeature < headBits bs 8 0 8 then 4
  else if headBits bs 8 8 8 ≠ deviceArith then 5
  else if headBits bs 8 24 1 = 1 && headBits bs 8 16 8 ≠ deviceLatency then 6
  else if headBits bs 0x10 0 32 < s.trust.fusectr.toNat then 7
  else if !o.relocs.all (relocOk s o) then 8
  else 0

/-! ### Placing and mapping (R320, R332, R362) -/

/-- Every section of an object, its native text among them. -/
def allSections (o : BmoObject) : List Section := o.sections ++ o.native.toList

/-- Frames that a loaded object has. -/
def framesOf (x : LoadedObject) : List Nat :=
  (allSections x.obj).flatMap Section.frames ++ x.resident.map fun r => r.2 / 65536 * 65536

/-- A section as the loader may place it: on 64 KiB pages in HBM, text on a chunk boundary of the body (R329, R362). -/
def sectionOk (x : Section) : Bool :=
  x.base % 65536 == 0 && decide (x.base + x.len ≤ 2 ^ 64) && (x.frames.all fun f => f % 65536 == 0 && rangeOf f == .hbm)

/-- The native text of an object is that of its canonical text, on as many frames as it needs. -/
def nativeOk (o : BmoObject) : Bool :=
  o.native.all fun x => headBits o.bytes 8 25 1 = 1
    && x.len == (translationOf deviceLatency (bodyOf o.bytes)).1.length && x.frames.length == (sectPages x).length

/-- The loader's choices keep to R362: every section on pages and frames of its own. -/
def placementOk (s : State) (o : BmoObject) : Bool :=
  let xs := allSections o
  let others := s.trust.objects.filter fun p => p.2.obj.asid == o.asid || p.2.obj.ttb == o.ttb
  let pages := xs.flatMap sectPages
  let frames := xs.flatMap Section.frames
  xs.all sectionOk && nativeOk o
    && o.sections.all (fun x => if x.kind = .text then x.off % 4096 == 0 && x.frames.isEmpty
                                else x.frames.length == (sectPages x).length)
    && decide pages.Nodup && decide frames.Nodup
    && !pages.any (fun p => others.any fun q => p ∈ (allSections q.2.obj).flatMap sectPages)
    && !frames.any (fun f => s.trust.objects.any fun q => f ∈ framesOf q.2)

/-- The stores that place and map the pages of a section with these bytes: page by page, its bytes and its entry. -/
def sectionCells (s : State) (o : BmoObject) (x : Section) (bs : List Byte) : List (Nat × Byte) :=
  (((sectPages x).zip x.frames).zipIdx).flatMap fun p =>
    cellsAt p.1.2 ((bs.drop (65536 * p.2)).take 65536) ++ mapCells s o x.kind p.1.1 p.1.2

/-- The stores of a load: every section but text, with its relocations made. -/
def loadCells (s : State) (o : BmoObject) : List (Nat × Byte) :=
  o.sections.zipIdx.flatMap fun p =>
    if p.1.kind = .text then [] else sectionCells s o p.1 (relocated s o p.2 0 (sectBytes o p.1))

/-! ### Translation at the load (R333) -/

/-- Canonical text goes through jarsol-x once for its ROOT, the device's latency level and the translator's version, and the
entry is signed under the device key. -/
def translateObject (s : State) (bs : List Byte) : List CachedText :=
  match s.trust.deviceKey with
  | none => s.trust.cache
  | some k =>
    if headBits bs 8 25 1 = 0 || s.trust.cache.any (entryFor (rootOf bs)) then s.trust.cache
    else
      let x := translationOf deviceLatency (bodyOf bs)
      let e : CachedText :=
        { root := rootOf bs, latency := deviceLatency, version := Config.translatorVersion, text := x.1, points := x.2, svn := headBits bs 0x10 0 32, key := k, signature := [] }
      s.trust.cache ++ [{ e with signature := deviceSign k s.tick (entryMessage e) }]

/-- A relocation made in native text at base. -/
def nativeReloc (s : State) (o : BmoObject) (base : Nat) (bs : List Byte) (r : Reloc) : List Byte :=
  match symbolOf s o r with
  | some t => putReloc r.kind t (base + r.off) r.off bs
  | none => bs

/-- The native text of canonical text where it has been given a place, relocated. -/
def nativeText (s : State) (o : BmoObject) : Option (Section × List Byte) :=
  match o.native, cachedFor s (rootOf o.bytes) with
  | some x, some e => some ({ x with kind := .text },
      (Config.nativeRelocs deviceLatency (bodyOf o.bytes)).foldl (nativeReloc s o x.base) e.text)
  | _, _ => none

/-- The stores that place and map it. -/
def nativeCells (s : State) (o : BmoObject) : List (Nat × Byte) :=
  match nativeText s o with
  | some x => sectionCells s o x.1 x.2
  | none => []

/-- The lowest number above every loaded object's. -/
def nextObject (m : AMap LoadedObject) : Nat := m.foldl (fun n p => Nat.max n (p.1 + 1)) 0

/-- The state with an accepted object, its sections placed and mapped. -/
def placeObject (s : State) (o : BmoObject) : State :=
  let s1 := s.perform none (loadCells s o)
  let s2 := { s1 with trust := { s1.trust with loadCode := 0, cache := translateObject s1 o.bytes } }
  let x : LoadedObject := { obj := o, svn := headBits o.bytes 0x10 0 32, resident := [], native := (nativeText s2 o).isSome }
  let s3 := { s2 with trust := { s2.trust with objects := amSet s2.trust.objects (nextObject s2.trust.objects) x } }
  s3.perform none (nativeCells s3 o)

/-- OBJECT_LOAD (R329, R331, R362): the object is kept, placed and mapped only when every check passes; text comes by chunks. A
placement that R362 rules out is none of the loader's, and what is not in the object's tables is not the object's. -/
def execObjectLoad (o : BmoObject) (s : State) : Out :=
  let code := loadCheck s o
  .next (if code ≠ 0 then { s with trust := { s.trust with loadCode := code } }
         else if tablesOk o && placementOk s o then placeObject s o else s)

/-! ### Paging in text (R332) -/

/-- The text section, with its index, that holds a chunk of the body. -/
def textSection (o : BmoObject) (chunk : Nat) : Option (Section × Nat) :=
  o.sections.zipIdx.find? fun p => p.1.kind = .text && p.1.off ≤ 4096 * chunk && decide (4096 * chunk < p.1.off + p.1.len)

/-- Chunks of the text page that holds a chunk of section x. -/
def pageChunks (x : Section) (chunk : Nat) : List Nat :=
  let first := x.off / 4096
  let page := (chunk - first) / 16
  ((upto 16).map fun i => first + 16 * page + i).filter fun c => decide (4096 * c < x.off + x.len)

/-- The bytes of a chunk of text section i as they lie in memory: relocated, without what follows the section. -/
def chunkBytes (s : State) (o : BmoObject) (x : Section) (i chunk : Nat) : List Byte :=
  let lo := 4096 * chunk - x.off
  relocated s o i lo ((chunkOf o.bytes chunk).take (x.len - lo))

/-- Place of a chunk in its page. -/
def chunkPlace (x : Section) (chunk : Nat) : Nat := (4096 * chunk - x.off) % 65536

/-- A frame whose resident chunks can serve the whole page of a chunk: each of the page's chunks has its leaf there, at its
place, and memory holds the bytes that it needs (R332). A page maps one frame, so that copies are shared by pages (DESIGN
CHOICE, log 108). -/
def sharedFrame (s : State) (o : BmoObject) (x : Section) (i chunk : Nat) : Option Nat :=
  let copies := s.trust.objects.flatMap fun q => q.2.resident.map fun r => (chunkLeaf (chunkOf q.2.obj.bytes r.1), r.2)
  let serves := fun (f c : Nat) => copies.any fun k =>
    k.1 == chunkLeaf (chunkOf o.bytes c) && k.2 == f + chunkPlace x c
      && memRead s.mem k.2 (chunkBytes s o x i c).length == chunkBytes s o x i c
  (copies.map fun k => k.2 / 65536 * 65536).find? fun f => (pageChunks x chunk).all (serves f)

/-- The frame of pa is free for the page of a chunk: it holds nothing of another page that the loader has placed, and nothing at
the chunk's place (R362). -/
def chunkFree (s : State) (obj : Nat) (x : Section) (chunk pa : Nat) : Bool :=
  s.trust.objects.all fun o => !(pa / 65536 * 65536 ∈ (allSections o.2.obj).flatMap Section.frames)
    && o.2.resident.all fun r => r.2 / 65536 ≠ pa / 65536
      || (o.1 == obj && decide (r.1 ∈ pageChunks x chunk) && r.2 / 4096 ≠ pa / 4096)

/-- The stores that map a page of text when every chunk in it has matched and lies in one frame, X = 1 and W = 0. -/
def textCells (s : State) (o : LoadedObject) (x : Section) (chunk : Nat) : List (Nat × Byte) :=
  let cs := pageChunks x chunk
  match cs.map fun c => (o.resident.find? fun r => r.1 = c).map Prod.snd with
  | some f :: ps =>
    if f % 65536 = 0 && ps.zipIdx.all fun p => p.1 == some (f + 4096 * (p.2 + 1)) then
      mapCells s o.obj .text (x.base / 65536 + (chunk - x.off / 4096) / 16) f
    else []
  | _ => []

/-- The object with a chunk resident at pa. -/
def withChunk (o : LoadedObject) (chunk pa : Nat) : LoadedObject :=
  { o with resident := o.resident.filter (fun r => r.1 ≠ chunk) ++ [(chunk, pa)] }

/-- A leaf that fails at page-in: the page stays unmapped, and the failure is forwarded and counted (the entry's cause is
not given: DESIGN CHOICE, log 108). -/
def leafFailure (s : State) (o : BmoObject) (va : Nat) : State :=
  let s1 := { s with trust := { s.trust with leafFailures := s.trust.leafFailures + 1 } }
  (forwardEntry s1 o.asid.toNat (bareEntry o.asid.toNat 0 (plainRecord o.asid.toNat 0 0xF va 0 0 []))).1

/-- A chunk that has matched: it shares the resident copy of its page, or its bytes enter memory; its page is mapped when it is
whole. -/
def placeChunk (s : State) (obj : Nat) (o : LoadedObject) (x : Section) (i chunk pa : Nat) : State :=
  let put := fun (s : State) (p : Nat) =>
    let o1 := withChunk o chunk p
    let s1 := { s with trust := { s.trust with objects := amSet s.trust.objects obj o1 } }
    s1.perform none (textCells s1 o1 x chunk)
  match sharedFrame s o.obj x i chunk with
  | some f => put s (f + chunkPlace x chunk)
  | none =>
    let frames := (o.resident.filter fun r => r.1 ∈ pageChunks x chunk && r.1 ≠ chunk).map fun r => r.2 / 65536
    if chunkFree s obj x chunk pa && frames.all (· == pa / 65536) then
      put (s.perform none (cellsAt pa (chunkBytes s o.obj x i chunk))) pa
    else s

/-- TEXT_PAGE_IN (R332): the loader's place for the chunk is one of HBM at the chunk's place in its page. -/
def execTextPageIn (obj chunk pa : Nat) (bytes : List Byte) (s : State) : Out :=
  .next (match amFind s.trust.objects obj with
  | none => s
  | some o => match textSection o.obj chunk with
    | none => s
    | some (x, i) =>
      if nchunk o.obj.bytes ≤ chunk || pa % 65536 ≠ chunkPlace x chunk || rangeOf pa ≠ .hbm then s
      else if chunkLeaf bytes ≠ chunkLeaf (chunkOf o.obj.bytes chunk) then leafFailure s o.obj (x.base + (4096 * chunk - x.off))
      else placeChunk s obj o x i chunk pa)

/-! ### Attestation (R336) -/

/-- Bytes 0x000 to 0x24F of the report (Table 17-5). -/
def reportBody (s : State) (nonce : BitVec 256) : List Byte :=
  let key := match s.trust.deviceKey with | some k => devicePublicKey k | none => List.replicate 32 0
  wordsBytes [1 + 2 ^ 16 * lifeIndex s.trust.lc + 2 ^ 24 * s.trust.fusectr.toNat,
              deviceFeature + 2 ^ 8 * deviceArith + 2 ^ 16 * deviceLatency]
    ++ digestBytes nonce ++ (upto 16).flatMap (fun n => digestBytes (amGet 0 s.trust.meas n)) ++ key

/-- The signature; zero in manufacturing and returned state. -/
def reportSignature (s : State) (body : List Byte) : List Byte :=
  match s.trust.lc, s.trust.deviceKey with
  | .provisioned, some k => deviceSign k s.tick body
  | .deployed, some k => deviceSign k s.tick body
  | _, _ => List.replicate 17088 0

/-- ATTESTATION_REQUEST (R336). -/
def execAttestationRequest (nonce : BitVec 256) (s : State) : Out :=
  let body := reportBody s nonce
  .next { s with trust := { s.trust with reports := s.trust.reports ++ [body ++ reportSignature s body] } }

end Sys2Proof.Machine
end

