-- ==== Sys2Proof/Machine/Dispatch.lean ====
section
/-! DEFINITION. The dispatcher: one arm per constructor of Instr, each a direct call of that instruction's meaning. -/

namespace Sys2Proof.Machine

/-- The meaning of an instruction at a state. -/
def exec (i : Instr) (s : State) : Host.Outcome State Fault Refusal :=
  match i with
  | .emptyBundle => Sys2Proof.Machine.execEmptyBundle s
  | .nop slot => Sys2Proof.Machine.execNop slot s
  | .blockedBundleRetry c => Sys2Proof.Machine.execBlockedBundleRetry c s
  | .add g sd sa sb => Sys2Proof.Machine.execAdd g sd sa sb s
  | .sub g sd sa sb => Sys2Proof.Machine.execSub g sd sa sb s
  | .mul g sd sa sb => Sys2Proof.Machine.execMul g sd sa sb s
  | .mulh g sg sd sa sb => Sys2Proof.Machine.execMulh g sg sd sa sb s
  | .div g sg sd sa sb => Sys2Proof.Machine.execDiv g sg sd sa sb s
  | .rem g sg sd sa sb => Sys2Proof.Machine.execRem g sg sd sa sb s
  | .and g sd sa sb => Sys2Proof.Machine.execAnd g sd sa sb s
  | .or g sd sa sb => Sys2Proof.Machine.execOr g sd sa sb s
  | .xor g sd sa sb => Sys2Proof.Machine.execXor g sd sa sb s
  | .andn g sd sa sb => Sys2Proof.Machine.execAndn g sd sa sb s
  | .shl g sd sa sb => Sys2Proof.Machine.execShl g sd sa sb s
  | .shr g sg sd sa sb => Sys2Proof.Machine.execShr g sg sd sa sb s
  | .min g sg sd sa sb => Sys2Proof.Machine.execMin g sg sd sa sb s
  | .max g sg sd sa sb => Sys2Proof.Machine.execMax g sg sd sa sb s
  | .addi g sd sa imm => Sys2Proof.Machine.execAddi g sd sa imm s
  | .andi g sd sa imm => Sys2Proof.Machine.execAndi g sd sa imm s
  | .ori g sd sa imm => Sys2Proof.Machine.execOri g sd sa imm s
  | .xori g sd sa imm => Sys2Proof.Machine.execXori g sd sa imm s
  | .shli g sd sa imm => Sys2Proof.Machine.execShli g sd sa imm s
  | .shri g sg sd sa imm => Sys2Proof.Machine.execShri g sg sd sa imm s
  | .movi g sd imm => Sys2Proof.Machine.execMovi g sd imm s
  | .movhi g sd sa imm => Sys2Proof.Machine.execMovhi g sd sa imm s
  | .lea g k sd sa imm => Sys2Proof.Machine.execLea g k sd sa imm s
  | .cmp g cc pt pf sa sb => Sys2Proof.Machine.execCmp g cc pt pf sa sb s
  | .cmpi g cc pt pf sa imm => Sys2Proof.Machine.execCmpi g cc pt pf sa imm s
  | .fcmp g fc pt pf sa sb => Sys2Proof.Machine.execFcmp g fc pt pf sa sb s
  | .plog g pt pf pa pb tt => Sys2Proof.Machine.execPlog g pt pf pa pb tt s
  | .fadd g sd sa sb => Sys2Proof.Machine.execFadd g sd sa sb s
  | .fsub g sd sa sb => Sys2Proof.Machine.execFsub g sd sa sb s
  | .fmul g sd sa sb => Sys2Proof.Machine.execFmul g sd sa sb s
  | .ffma g sd sa sb sc => Sys2Proof.Machine.execFfma g sd sa sb sc s
  | .fdiv g sd sa sb => Sys2Proof.Machine.execFdiv g sd sa sb s
  | .fsqrt g sd sa => Sys2Proof.Machine.execFsqrt g sd sa s
  | .fmin g sd sa sb => Sys2Proof.Machine.execFmin g sd sa sb s
  | .fmax g sd sa sb => Sys2Proof.Machine.execFmax g sd sa sb s
  | .fcvt g ty toF32 rm inf sd sa => Sys2Proof.Machine.execFcvt g ty toF32 rm inf sd sa s
  | .br g off => Sys2Proof.Machine.execBr g off s
  | .call g sd off => Sys2Proof.Machine.execCall g sd off s
  | .jmp g sa => Sys2Proof.Machine.execJmp g sa s
  | .calli g sd sa => Sys2Proof.Machine.execCalli g sd sa s
  | .ret g sa => Sys2Proof.Machine.execRet g sa s
  | .loop g sd off => Sys2Proof.Machine.execLoop g sd off s
  | .tret g => Sys2Proof.Machine.execTret g s
  | .rdsp g sd r => Sys2Proof.Machine.execRdsp g sd r s
  | .wrsp g ss r => Sys2Proof.Machine.execWrsp g ss r s
  | .vadd g v1 ty sat vd va vb m => Sys2Proof.Machine.execVadd g v1 ty sat vd va vb m s
  | .vsub g v1 ty sat vd va vb m => Sys2Proof.Machine.execVsub g v1 ty sat vd va vb m s
  | .vmul g v1 ty sat vd va vb m => Sys2Proof.Machine.execVmul g v1 ty sat vd va vb m s
  | .vmulh g v1 ty vd va vb m => Sys2Proof.Machine.execVmulh g v1 ty vd va vb m s
  | .vmin g v1 ty vd va vb m => Sys2Proof.Machine.execVmin g v1 ty vd va vb m s
  | .vmax g v1 ty vd va vb m => Sys2Proof.Machine.execVmax g v1 ty vd va vb m s
  | .vabs g v1 ty sat vd va m => Sys2Proof.Machine.execVabs g v1 ty sat vd va m s
  | .vneg g v1 ty sat vd va m => Sys2Proof.Machine.execVneg g v1 ty sat vd va m s
  | .vand g v1 ty vd va vb m => Sys2Proof.Machine.execVand g v1 ty vd va vb m s
  | .vor g v1 ty vd va vb m => Sys2Proof.Machine.execVor g v1 ty vd va vb m s
  | .vxor g v1 ty vd va vb m => Sys2Proof.Machine.execVxor g v1 ty vd va vb m s
  | .vandn g v1 ty vd va vb m => Sys2Proof.Machine.execVandn g v1 ty vd va vb m s
  | .vshl g v1 ty vd va vb m => Sys2Proof.Machine.execVshl g v1 ty vd va vb m s
  | .vshr g v1 ty vd va vb m => Sys2Proof.Machine.execVshr g v1 ty vd va vb m s
  | .vsel g v1 ty vd va vb m => Sys2Proof.Machine.execVsel g v1 ty vd va vb m s
  | .vaddi g v1 ty sat vd va m imm => Sys2Proof.Machine.execVaddi g v1 ty sat vd va m imm s
  | .vandi g v1 ty vd va m imm => Sys2Proof.Machine.execVandi g v1 ty vd va m imm s
  | .vshli g v1 ty vd va m sa imm => Sys2Proof.Machine.execVshli g v1 ty vd va m sa imm s
  | .vshri g v1 ty vd va m sa imm => Sys2Proof.Machine.execVshri g v1 ty vd va m sa imm s
  | .vmovi g v1 ty vd m imm => Sys2Proof.Machine.execVmovi g v1 ty vd m imm s
  | .vfadd g v1 ty vd va vb m => Sys2Proof.Machine.execVfadd g v1 ty vd va vb m s
  | .vfsub g v1 ty vd va vb m => Sys2Proof.Machine.execVfsub g v1 ty vd va vb m s
  | .vfmul g v1 ty vd va vb m => Sys2Proof.Machine.execVfmul g v1 ty vd va vb m s
  | .vffma g v1 ty vd va vb vc m => Sys2Proof.Machine.execVffma g v1 ty vd va vb vc m s
  | .vfnma g v1 ty vd va vb vc m => Sys2Proof.Machine.execVfnma g v1 ty vd va vb vc m s
  | .vfdiv g v1 ty vd va vb m => Sys2Proof.Machine.execVfdiv g v1 ty vd va vb m s
  | .vfsqrt g v1 ty vd va m => Sys2Proof.Machine.execVfsqrt g v1 ty vd va m s
  | .vfmin g v1 ty vd va vb m => Sys2Proof.Machine.execVfmin g v1 ty vd va vb m s
  | .vfmax g v1 ty vd va vb m => Sys2Proof.Machine.execVfmax g v1 ty vd va vb m s
  | .vfabs g v1 ty vd va m => Sys2Proof.Machine.execVfabs g v1 ty vd va m s
  | .vfneg g v1 ty vd va m => Sys2Proof.Machine.execVfneg g v1 ty vd va m s
  | .vcvt g v1 dt st part inf rm vd va m => Sys2Proof.Machine.execVcvt g v1 dt st part inf rm vd va m s
  | .vcvts g v1 dt part inf rm vd va vb m => Sys2Proof.Machine.execVcvts g v1 dt part inf rm vd va vb m s
  | .vsbpk g v1 f part inf rm vd va m => Sys2Proof.Machine.execVsbpk g v1 f part inf rm vd va m s
  | .vsbun g v1 f part inf rm vd va m => Sys2Proof.Machine.execVsbun g v1 f part inf rm vd va m s
  | .vperm g v1 ty zero vd va vb m => Sys2Proof.Machine.execVperm g v1 ty zero vd va vb m s
  | .vrot g v1 ty vd va m sa imm => Sys2Proof.Machine.execVrot g v1 ty vd va m sa imm s
  | .vbcl g v1 ty vd va m sa imm => Sys2Proof.Machine.execVbcl g v1 ty vd va m sa imm s
  | .vzip g v1 ty hi vd va vb m => Sys2Proof.Machine.execVzip g v1 ty hi vd va vb m s
  | .vuzp g v1 ty odd vd va vb m => Sys2Proof.Machine.execVuzp g v1 ty odd vd va vb m s
  | .vcomp g v1 ty vd va m => Sys2Proof.Machine.execVcomp g v1 ty vd va m s
  | .vexpd g v1 ty vd va m => Sys2Proof.Machine.execVexpd g v1 ty vd va m s
  | .vslide g v1 ty down vd va m sa imm => Sys2Proof.Machine.execVslide g v1 ty down vd va m sa imm s
  | .vsum g v1 ty sat vd va m => Sys2Proof.Machine.execVsum g v1 ty sat vd va m s
  | .vrmax g v1 ty vd va m => Sys2Proof.Machine.execVrmax g v1 ty vd va m s
  | .vrmin g v1 ty vd va m => Sys2Proof.Machine.execVrmin g v1 ty vd va m s
  | .vfsum g v1 ty vd va m => Sys2Proof.Machine.execVfsum g v1 ty vd va m s
  | .vfrmax g v1 ty vd va m => Sys2Proof.Machine.execVfrmax g v1 ty vd va m s
  | .vfrmin g v1 ty vd va m => Sys2Proof.Machine.execVfrmin g v1 ty vd va m s
  | .vcmp g v1 cc ty vec vd va vb m => Sys2Proof.Machine.execVcmp g v1 cc ty vec vd va vb m s
  | .vfcmp g v1 fc ty vec vd va vb m => Sys2Proof.Machine.execVfcmp g v1 fc ty vec vd va vb m s
  | .mlog g v1 md ma mb tt => Sys2Proof.Machine.execMlog g v1 md ma mb tt s
  | .vtmask g v1 ty fill kb vd va vb m => Sys2Proof.Machine.execVtmask g v1 ty fill kb vd va vb m s
  | .psqz g v1 ty k pmin vd va m => Sys2Proof.Machine.execPsqz g v1 ty k pmin vd va m s
  | .plut g v1 vd va vb m => Sys2Proof.Machine.execPlut g v1 vd va vb m s
  | .pmix g v1 vd va vb vc m => Sys2Proof.Machine.execPmix g v1 vd va vb vc m s
  | .cdec g cs vd va m => Sys2Proof.Machine.execCdec g cs vd va m s
  | .cenc g cs va vb m => Sys2Proof.Machine.execCenc g cs va vb m s
  | .cdecm g cs vd va m => Sys2Proof.Machine.execCdecm g cs vd va m s
  | .cencm g cs va vb m => Sys2Proof.Machine.execCencm g cs va vb m s
  | .cinit g enc cs va vb vc m => Sys2Proof.Machine.execCinit g enc cs va vb vc m s
  | .cflush g cs m => Sys2Proof.Machine.execCflush g cs m s
  | .csave g cs vd m => Sys2Proof.Machine.execCsave g cs vd m s
  | .cload g cs va m => Sys2Proof.Machine.execCload g cs va m s
  | .cstat g sel cs md m => Sys2Proof.Machine.execCstat g sel cs md m s
  | .mma g o => Sys2Proof.Machine.execMma g o s
  | .mmaz g o => Sys2Proof.Machine.execMmaz g o s
  | .mmam g o rmk cmk => Sys2Proof.Machine.execMmam g o rmk cmk s
  | .mcall g entry => Sys2Proof.Machine.execMcall g entry s
  | .mret g => Sys2Proof.Machine.execMret g s
  | .mcb g t => Sys2Proof.Machine.execMcb g t s
  | .mzb g t => Sys2Proof.Machine.execMzb g t s
  | .mrgat g vx mk => Sys2Proof.Machine.execMrgat g vx mk s
  | .mrule g qt mode chk bnd fix gens => Sys2Proof.Machine.execMrule g qt mode chk bnd fix gens s
  | .mrtab g t row => Sys2Proof.Machine.execMrtab g t row s
  | .aclr g acc cntm1 => Sys2Proof.Machine.execAclr g acc cntm1 s
  | .mpld g t entry row nrm1 => Sys2Proof.Machine.execMpld g t entry row nrm1 s
  | .lds g ty sd sa imm land => Sys2Proof.Machine.execLds g ty sd sa imm land s
  | .ldv g ty vd sa imm land m => Sys2Proof.Machine.execLdv g ty vd sa imm land m s
  | .ldvs g ty vd sa sx imm land m => Sys2Proof.Machine.execLdvs g ty vd sa sx imm land m s
  | .ldg g ty scaled vd sa vx imm land m => Sys2Proof.Machine.execLdg g ty scaled vd sa vx imm land m s
  | .ldb g ty vd sa imm land m => Sys2Proof.Machine.execLdb g ty vd sa imm land m s
  | .ldt g t grp sa imm land => Sys2Proof.Machine.execLdt g t grp sa imm land s
  | .ldp g f k mid vd sa sx land m => Sys2Proof.Machine.execLdp g f k mid vd sa sx land m s
  | .ldc g cs land m => Sys2Proof.Machine.execLdc g cs land m s
  | .sts g ty ss sa imm => Sys2Proof.Machine.execSts g ty ss sa imm s
  | .stv g ty vs sa imm m => Sys2Proof.Machine.execStv g ty vs sa imm m s
  | .stvs g ty vs sa sx imm m => Sys2Proof.Machine.execStvs g ty vs sa sx imm m s
  | .stsc g ty scaled vs sa vx imm m => Sys2Proof.Machine.execStsc g ty scaled vs sa vx imm m s
  | .stt g t grp sa imm => Sys2Proof.Machine.execStt g t grp sa imm s
  | .stq g t q => Sys2Proof.Machine.execStq g t q s
  | .stz g sa imm => Sys2Proof.Machine.execStz g sa imm s
  | .tableWalk w => Sys2Proof.Machine.execTableWalk w s
  | .loadDataArrival c id => Sys2Proof.Machine.execLoadDataArrival c id s
  | .xsv g ty lane vd sa => Sys2Proof.Machine.execXsv g ty lane vd sa s
  | .xsvb g ty vd sa => Sys2Proof.Machine.execXsvb g ty vd sa s
  | .xvs g ty lane sd va => Sys2Proof.Machine.execXvs g ty lane sd va s
  | .xvt g va t col idx w => Sys2Proof.Machine.execXvt g va t col idx w s
  | .xtv g vd t col idx w => Sys2Proof.Machine.execXtv g vd t col idx w s
  | .xav g vd acc => Sys2Proof.Machine.execXav g vd acc s
  | .xva g va acc => Sys2Proof.Machine.execXva g va acc s
  | .xcopy g lenm1 sa sb => Sys2Proof.Machine.execXcopy g lenm1 sa sb s
  | .xpack g f rm inf sa sb => Sys2Proof.Machine.execXpack g f rm inf sa sb s
  | .xunpk g f sa sb => Sys2Proof.Machine.execXunpk g f sa sb s
  | .xdec g sa sb => Sys2Proof.Machine.execXdec g sa sb s
  | .xzs g exp sa sb => Sys2Proof.Machine.execXzs g exp sa sb s
  | .xcrc g lenm1 sa sb => Sys2Proof.Machine.execXcrc g lenm1 sa sb s
  | .xnest g entry sa sb => Sys2Proof.Machine.execXnest g entry sa sb s
  | .xbcast g sa => Sys2Proof.Machine.execXbcast g sa s
  | .xgath g sa => Sys2Proof.Machine.execXgath g sa s
  | .xsend g sa => Sys2Proof.Machine.execXsend g sa s
  | .xrecv g sa => Sys2Proof.Machine.execXrecv g sa s
  | .xrscat g sa => Sys2Proof.Machine.execXrscat g sa s
  | .xallred g sa => Sys2Proof.Machine.execXallred g sa s
  | .xcancel g sa sb => Sys2Proof.Machine.execXcancel g sa sb s
  | .twait g sa sb => Sys2Proof.Machine.execTwait g sa sb s
  | .tsig g sb => Sys2Proof.Machine.execTsig g sb s
  | .tread g sd sa land => Sys2Proof.Machine.execTread g sd sa land s
  | .fence g sc => Sys2Proof.Machine.execFence g sc s
  | .aadd g ty ret sd sa sb land => Sys2Proof.Machine.execAadd g ty ret sd sa sb land s
  | .aand g ty ret sd sa sb land => Sys2Proof.Machine.execAand g ty ret sd sa sb land s
  | .aor g ty ret sd sa sb land => Sys2Proof.Machine.execAor g ty ret sd sa sb land s
  | .axor g ty ret sd sa sb land => Sys2Proof.Machine.execAxor g ty ret sd sa sb land s
  | .amin g ty ret sd sa sb land => Sys2Proof.Machine.execAmin g ty ret sd sa sb land s
  | .amax g ty ret sd sa sb land => Sys2Proof.Machine.execAmax g ty ret sd sa sb land s
  | .aswp g ty ret sd sa sb land => Sys2Proof.Machine.execAswp g ty ret sd sa sb land s
  | .acas g ty ret sd sa sb land => Sys2Proof.Machine.execAcas g ty ret sd sa sb land s
  | .afadd g ret sd sa sb land => Sys2Proof.Machine.execAfadd g ret sd sa sb land s
  | .mred g sa => Sys2Proof.Machine.execMred g sa s
  | .arrive g bar => Sys2Proof.Machine.execArrive g bar s
  | .bwait g bar => Sys2Proof.Machine.execBwait g bar s
  | .drop g bar => Sys2Proof.Machine.execDrop g bar s
  | .qpush g sa sb => Sys2Proof.Machine.execQpush g sa sb s
  | .qpop g sd sa land => Sys2Proof.Machine.execQpop g sd sa land s
  | .launch g sa sb => Sys2Proof.Machine.execLaunch g sa sb s
  | .cvclaim g sd sa land => Sys2Proof.Machine.execCvclaim g sd sa land s
  | .cvdone g sa sb => Sys2Proof.Machine.execCvdone g sa sb s
  | .pwait g sa sb => Sys2Proof.Machine.execPwait g sa sb s
  | .trap g sa code => Sys2Proof.Machine.execTrap g sa code s
  | .halt g => Sys2Proof.Machine.execHalt g s
  | .ffence g => Sys2Proof.Machine.execFfence g s
  | .tinvPage g sa sb sc => Sys2Proof.Machine.execTinvPage g sa sb sc s
  | .tinvAsid g sb sc => Sys2Proof.Machine.execTinvAsid g sb sc s
  | .tinvAll g sc => Sys2Proof.Machine.execTinvAll g sc s
  | .tinvComplete c => Sys2Proof.Machine.execTinvComplete c s
  | .smap g op q sa => Sys2Proof.Machine.execSmap g op q sa s
  | .sdrain g op q => Sys2Proof.Machine.execSdrain g op q s
  | .phase g => Sys2Proof.Machine.execPhase g s
  | .stashLineFill c tile line => Sys2Proof.Machine.execStashLineFill c tile line s
  | .stashDrainComplete c tile => Sys2Proof.Machine.execStashDrainComplete c tile s
  | .accumulatorWriteFinish c tile => Sys2Proof.Machine.execAccumulatorWriteFinish c tile s
  | .ruleGeneration c tile => Sys2Proof.Machine.execRuleGeneration c tile s
  | .engineCommandAccept c eng num => Sys2Proof.Machine.execEngineCommandAccept c eng num s
  | .fenceComplete c => Sys2Proof.Machine.execFenceComplete c s
  | .copyPoint c num => Sys2Proof.Machine.execCopyPoint c num s
  | .spillReplay c num => Sys2Proof.Machine.execSpillReplay c num s
  | .nestPoint c num => Sys2Proof.Machine.execNestPoint c num s
  | .planeLanding coll rank tile => Sys2Proof.Machine.execPlaneLanding coll rank tile s
  | .cancelPropagation coll rank tile => Sys2Proof.Machine.execCancelPropagation coll rank tile s
  | .mredArrival cmd => Sys2Proof.Machine.execMredArrival cmd s
  | .msuReductionLine stack => Sys2Proof.Machine.execMsuReductionLine stack s
  | .phaseMerge launch => Sys2Proof.Machine.execPhaseMerge launch s
  | .taskHaltComplete c => Sys2Proof.Machine.execTaskHaltComplete c s
  | .partitionSelection part => Sys2Proof.Machine.execPartitionSelection part s
  | .queueAged q => Sys2Proof.Machine.execQueueAged q s
  | .contextSave c => Sys2Proof.Machine.execContextSave c s
  | .contextRestore image c => Sys2Proof.Machine.execContextRestore image c s
  | .watchdogExpiry c => Sys2Proof.Machine.execWatchdogExpiry c s
  | .fabricRequestArrival r => Sys2Proof.Machine.execFabricRequestArrival r s
  | .coldReset => Sys2Proof.Machine.execColdReset s
  | .hbmZeroComplete => Sys2Proof.Machine.execHbmZeroComplete s
  | .controlEventDispatch core => Sys2Proof.Machine.execControlEventDispatch core s
  | .nopPacket q p => Sys2Proof.Machine.execNopPacket q p s
  | .launchPacket q p => Sys2Proof.Machine.execLaunchPacket q p s
  | .ibcallPacket q p => Sys2Proof.Machine.execIbcallPacket q p s
  | .ibretPacket q p => Sys2Proof.Machine.execIbretPacket q p s
  | .predPacket q p => Sys2Proof.Machine.execPredPacket q p s
  | .loopPacket q p => Sys2Proof.Machine.execLoopPacket q p s
  | .writePacket q p => Sys2Proof.Machine.execWritePacket q p s
  | .twaitPacket q p => Sys2Proof.Machine.execTwaitPacket q p s
  | .tsigPacket q p => Sys2Proof.Machine.execTsigPacket q p s
  | .ffencePacket q p => Sys2Proof.Machine.execFfencePacket q p s
  | .wakearmPacket q p => Sys2Proof.Machine.execWakearmPacket q p s
  | .controlCoreGate core => Sys2Proof.Machine.execControlCoreGate core s
  | .fabricAcknowledgement dest lane seq => Sys2Proof.Machine.execFabricAcknowledgement dest lane seq s
  | .millraceDelivery ridge => Sys2Proof.Machine.execMillraceDelivery ridge s
  | .collectiveDelivery coll rank tile => Sys2Proof.Machine.execCollectiveDelivery coll rank tile s
  | .ringHeadAdvance k head => Sys2Proof.Machine.execRingHeadAdvance k head s
  | .wakeFrame frame => Sys2Proof.Machine.execWakeFrame frame s
  | .hostMemoryWrite pa bytes => Sys2Proof.Machine.execHostMemoryWrite pa bytes s
  | .registerWrite pa n value => Sys2Proof.Machine.execRegisterWrite pa n value s
  | .qtailDoorbell q tail => Sys2Proof.Machine.execQtailDoorbell q tail s
  | .commandQueueEnable q => Sys2Proof.Machine.execCommandQueueEnable q s
  | .errClear q => Sys2Proof.Machine.execErrClear q s
  | .attestationRequest nonce => Sys2Proof.Machine.execAttestationRequest nonce s
  | .objectLoad o => Sys2Proof.Machine.execObjectLoad o s
  | .textPageIn obj chunk pa bytes => Sys2Proof.Machine.execTextPageIn obj chunk pa bytes s
  | .lifecycleTransition goal => Sys2Proof.Machine.execLifecycleTransition goal s
  | .fusectrAdvance value => Sys2Proof.Machine.execFusectrAdvance value s
  | .ringEnable k => Sys2Proof.Machine.execRingEnable k s
  | .tokenQueueEnable q depth parts => Sys2Proof.Machine.execTokenQueueEnable q depth parts s
  | .tokenQueueDisable q => Sys2Proof.Machine.execTokenQueueDisable q s
  | .softErrorCorrected line => Sys2Proof.Machine.execSoftErrorCorrected line s
  | .softErrorUncorrectable t => Sys2Proof.Machine.execSoftErrorUncorrectable t s
  | .linkFailure link => Sys2Proof.Machine.execLinkFailure link s
  | .destinationUnreachable dest => Sys2Proof.Machine.execDestinationUnreachable dest s
  | .linkLevelRetry link r => Sys2Proof.Machine.execLinkLevelRetry link r s
  | .eresume c => Sys2Proof.Machine.execEresume c s
  | .save c => Sys2Proof.Machine.execSave c s
  | .resume c => Sys2Proof.Machine.execResume c s
  | .contain c => Sys2Proof.Machine.execContain c s
  | .fwd c => Sys2Proof.Machine.execFwd c s
  | .park c => Sys2Proof.Machine.execPark c s
  | .msuAccess a => Sys2Proof.Machine.execMsuAccess a s

end Sys2Proof.Machine
end

