-- ==== Sys2Proof/Machine/Fields.lean ====
section
/-! DEFINITION. What the checks of a bundle ask of one operation alone: its destinations, landing field, and whether it is a control operation or legal in a checkpoint bundle only (R132, R134, R144, R157, R180). -/

namespace Sys2Proof.Machine

/-- The landing field of an operation that has one. -/
def landField : Instr → Option (BitVec 6)
  | .lds _ _ _ _ _ land | .ldv _ _ _ _ _ land _ | .ldvs _ _ _ _ _ _ land _ | .ldg _ _ _ _ _ _ _ land _
  | .ldb _ _ _ _ _ land _ | .ldt _ _ _ _ _ land | .ldp _ _ _ _ _ _ _ land _ | .ldc _ _ land _
  | .tread _ _ _ land | .qpop _ _ _ land | .cvclaim _ _ _ land => some land
  | .aadd _ _ ret _ _ _ land | .aand _ _ ret _ _ _ land | .aor _ _ ret _ _ _ land | .axor _ _ ret _ _ _ land
  | .amin _ _ ret _ _ _ land | .amax _ _ ret _ _ _ land | .aswp _ _ ret _ _ _ land | .acas _ _ ret _ _ _ land
  | .afadd _ ret _ _ _ land => if ret then some land else none
  | _ => none

/-- Scalar sn as a destination; s0 is none (R132). -/
def destS (n : SCode) : List Nat := if n = 0 then [] else [n.toNat]
/-- Predicates as destinations. -/
def destP (ns : List PCode) : List Nat := (ns.filter fun n => n ≠ 0).map fun n => 64 + n.toNat
/-- A lane mask as a destination. -/
def destM (n : MCode) : List Nat := if n = 0 then [] else [80 + n.toNat]
/-- Vector registers or a bypass name as destinations. -/
def destV (c : VCode) (n : Nat) : List Nat := (List.range n).map fun i => 128 + c.toNat + i
/-- Accumulator tiles as destinations. -/
def destA (a : ACode) (n : Nat) : List Nat := (List.range n).map fun i => 1000 + a.toNat + i
/-- A stream register that an operation replaces, or that an ldc appends to (R239). -/
def destC (cs : BitVec 2) : List Nat := [5000 + cs.toNat]

/-- The destinations that an operation names, tile registers apart (R47, R132). -/
def dests : Instr → List Nat
  | .add _ sd _ _ | .sub _ sd _ _ | .mul _ sd _ _ | .mulh _ _ sd _ _ | .div _ _ sd _ _ | .rem _ _ sd _ _ | .and _ sd _ _
  | .or _ sd _ _ | .xor _ sd _ _ | .andn _ sd _ _ | .shl _ sd _ _ | .shr _ _ sd _ _ | .min _ _ sd _ _ | .max _ _ sd _ _
  | .addi _ sd _ _ | .andi _ sd _ _ | .ori _ sd _ _ | .xori _ sd _ _ | .shli _ sd _ _ | .shri _ _ sd _ _ | .movi _ sd _
  | .movhi _ sd _ _ | .lea _ _ sd _ _ | .fadd _ sd _ _ | .fsub _ sd _ _ | .fmul _ sd _ _ | .ffma _ sd _ _ _
  | .fdiv _ sd _ _ | .fsqrt _ sd _ | .fmin _ sd _ _ | .fmax _ sd _ _ | .fcvt _ _ _ _ _ sd _ | .call _ sd _
  | .calli _ sd _ | .loop _ sd _ | .rdsp _ sd _ | .lds _ _ sd _ _ _ | .xvs _ _ _ sd _ | .tread _ sd _ _
  | .qpop _ sd _ _ | .cvclaim _ sd _ _ => destS sd
  | .cmp _ _ pt pf _ _ | .cmpi _ _ pt pf _ _ | .fcmp _ _ pt pf _ _ | .plog _ pt pf _ _ _ => destP [pt, pf]
  | .wrsp _ _ (.mask n) => destM n
  | .mlog _ _ md _ _ _ | .cstat _ _ _ md _ => destM md
  | .vcmp _ _ _ _ vec vd _ _ _ | .vfcmp _ _ _ _ vec vd _ _ _ => if vec then destV vd 1 else destM (vd.setWidth 3)
  | .vadd _ _ _ _ vd _ _ _ | .vsub _ _ _ _ vd _ _ _ | .vmul _ _ _ _ vd _ _ _ | .vmulh _ _ _ vd _ _ _
  | .vmin _ _ _ vd _ _ _ | .vmax _ _ _ vd _ _ _ | .vand _ _ _ vd _ _ _ | .vor _ _ _ vd _ _ _
  | .vxor _ _ _ vd _ _ _ | .vandn _ _ _ vd _ _ _ | .vshl _ _ _ vd _ _ _ | .vshr _ _ _ vd _ _ _
  | .vsel _ _ _ vd _ _ _ | .vfadd _ _ _ vd _ _ _ | .vfsub _ _ _ vd _ _ _ | .vfmul _ _ _ vd _ _ _
  | .vfdiv _ _ _ vd _ _ _ | .vfmin _ _ _ vd _ _ _ | .vfmax _ _ _ vd _ _ _ | .vcvts _ _ _ _ _ _ vd _ _ _
  | .vperm _ _ _ _ vd _ _ _ | .vzip _ _ _ _ vd _ _ _ | .vuzp _ _ _ _ vd _ _ _ | .vtmask _ _ _ _ _ vd _ _ _
  | .plut _ _ vd _ _ _ | .vffma _ _ _ vd _ _ _ _ | .vfnma _ _ _ vd _ _ _ _ | .pmix _ _ vd _ _ _ _
  | .vabs _ _ _ _ vd _ _ | .vneg _ _ _ _ vd _ _ | .vaddi _ _ _ _ vd _ _ _ | .vandi _ _ _ vd _ _ _
  | .vshli _ _ _ vd _ _ _ _ | .vshri _ _ _ vd _ _ _ _ | .vfsqrt _ _ _ vd _ _ | .vfabs _ _ _ vd _ _
  | .vfneg _ _ _ vd _ _ | .vcvt _ _ _ _ _ _ _ vd _ _ | .vsbpk _ _ _ _ _ _ vd _ _ | .vsbun _ _ _ _ _ _ vd _ _
  | .vrot _ _ _ vd _ _ _ _ | .vbcl _ _ _ vd _ _ _ _ | .vcomp _ _ _ vd _ _ | .vexpd _ _ _ vd _ _
  | .vslide _ _ _ _ vd _ _ _ _ | .vsum _ _ _ _ vd _ _ | .vrmax _ _ _ vd _ _ | .vrmin _ _ _ vd _ _
  | .vfsum _ _ _ vd _ _ | .vfrmax _ _ _ vd _ _ | .vfrmin _ _ _ vd _ _ | .psqz _ _ _ _ _ vd _ _
  | .cdec _ _ vd _ _ | .cdecm _ _ vd _ _ | .vmovi _ _ _ vd _ _ | .ldv _ _ vd _ _ _ _ | .ldvs _ _ vd _ _ _ _ _
  | .ldg _ _ _ vd _ _ _ _ _ | .ldb _ _ vd _ _ _ _ | .ldp _ _ _ _ vd _ _ _ _ | .xsv _ _ _ vd _ | .xsvb _ _ vd _
  | .xtv _ vd _ _ _ _ => destV vd 1
  | .csave _ _ vd _ => destV vd 12
  | .xav _ vd _ => destV vd 4
  | .xva _ _ acc => destA acc 1
  | .mma _ o | .mmaz _ o | .mmam _ o _ _ => destA o.acc 16
  | .aclr _ acc n => destA acc (n.toNat + 1)
  | .cinit _ _ cs _ _ _ _ | .cload _ cs _ _ | .ldc _ cs _ _ => destC cs
  | .aadd _ _ ret sd _ _ _ | .aand _ _ ret sd _ _ _ | .aor _ _ ret sd _ _ _ | .axor _ _ ret sd _ _ _
  | .amin _ _ ret sd _ _ _ | .amax _ _ ret sd _ _ _ | .aswp _ _ ret sd _ _ _ | .acas _ _ ret sd _ _ _
  | .afadd _ ret sd _ _ _ => if ret then destS sd else []
  | _ => []

/-- Control operations, which may not stand in a delay bundle (R180). -/
def isControl : Instr → Bool
  | .br .. | .call .. | .jmp .. | .calli .. | .ret .. | .loop .. | .tret .. => true
  | _ => false

/-- Operations legal in a checkpoint bundle only (R144, Table 7-9, Table 13-9). -/
def isIrrevocable : Instr → Bool
  | .tret .. | .mrule .. | .stq .. | .xcopy .. | .xpack .. | .xunpk .. | .xdec .. | .xzs .. | .xcrc .. | .xnest ..
  | .xbcast .. | .xgath .. | .xsend .. | .xrecv .. | .xrscat .. | .xallred .. | .xcancel .. | .tsig .. | .fence ..
  | .mred .. | .qpush .. | .qpop .. | .launch .. | .cvclaim .. | .cvdone .. | .trap .. | .halt .. | .ffence ..
  | .tinvPage .. | .tinvAsid .. | .tinvAll .. | .smap .. | .sdrain .. | .phase .. => true
  | .wrsp _ _ (.sched _) => true
  | .aadd _ _ ret _ _ _ _ | .aand _ _ ret _ _ _ _ | .aor _ _ ret _ _ _ _ | .axor _ _ ret _ _ _ _
  | .amin _ _ ret _ _ _ _ | .amax _ _ ret _ _ _ _ | .aswp _ _ ret _ _ _ _ | .acas _ _ ret _ _ _ _
  | .afadd _ ret _ _ _ _ => ret
  | _ => false

/-- Operations that may act at their bundle's commit: the irrevocable ones and the scalar accesses, which reach device
registers then (R79, R139). -/
def actsAtCommit : Instr → Bool
  | .lds .. | .sts .. => true
  | i => isIrrevocable i

/-- The guard of a slot operation; control transfers and microprogram calls, whose delay bundles and time pass whatever
their guard, have statements of their own (R159, R168, R223). -/
def guardOf : Instr → Option Guard
  | .add g .. | .sub g .. | .mul g .. | .mulh g .. | .div g .. | .rem g .. | .and g .. | .or g .. | .xor g ..
  | .andn g .. | .shl g .. | .shr g .. | .min g .. | .max g .. | .addi g .. | .andi g .. | .ori g ..
  | .xori g .. | .shli g .. | .shri g .. | .movi g .. | .movhi g .. | .lea g .. | .cmp g .. | .cmpi g ..
  | .fcmp g .. | .plog g .. | .fadd g .. | .fsub g .. | .fmul g .. | .ffma g .. | .fdiv g .. | .fsqrt g ..
  | .fmin g .. | .fmax g .. | .fcvt g .. | .rdsp g .. | .wrsp g .. | .vadd g .. | .vsub g .. | .vmul g ..
  | .vmulh g .. | .vmin g .. | .vmax g .. | .vabs g .. | .vneg g .. | .vand g .. | .vor g .. | .vxor g ..
  | .vandn g .. | .vshl g .. | .vshr g .. | .vsel g .. | .vaddi g .. | .vandi g .. | .vshli g .. | .vshri g ..
  | .vmovi g .. | .vfadd g .. | .vfsub g .. | .vfmul g .. | .vffma g .. | .vfnma g .. | .vfdiv g ..
  | .vfsqrt g .. | .vfmin g .. | .vfmax g .. | .vfabs g .. | .vfneg g .. | .vcvt g .. | .vcvts g ..
  | .vsbpk g .. | .vsbun g .. | .vperm g .. | .vrot g .. | .vbcl g .. | .vzip g .. | .vuzp g .. | .vcomp g ..
  | .vexpd g .. | .vslide g .. | .vsum g .. | .vrmax g .. | .vrmin g .. | .vfsum g .. | .vfrmax g ..
  | .vfrmin g .. | .vcmp g .. | .vfcmp g .. | .mlog g .. | .vtmask g .. | .psqz g .. | .plut g .. | .pmix g ..
  | .cdec g .. | .cenc g .. | .cdecm g .. | .cencm g .. | .cinit g .. | .cflush g .. | .csave g ..
  | .cload g .. | .cstat g .. | .mma g .. | .mmaz g .. | .mmam g .. | .mcb g .. | .mzb g .. | .mrgat g ..
  | .mrule g .. | .mrtab g .. | .aclr g .. | .mpld g .. | .lds g .. | .ldv g .. | .ldvs g .. | .ldg g ..
  | .ldb g .. | .ldt g .. | .ldp g .. | .ldc g .. | .sts g .. | .stv g .. | .stvs g .. | .stsc g .. | .stt g ..
  | .stq g .. | .stz g .. | .xsv g .. | .xsvb g .. | .xvs g .. | .xvt g .. | .xtv g .. | .xav g .. | .xva g ..
  | .xcopy g .. | .xpack g .. | .xunpk g .. | .xdec g .. | .xzs g .. | .xcrc g .. | .xnest g .. | .xbcast g ..
  | .xgath g .. | .xsend g .. | .xrecv g .. | .xrscat g .. | .xallred g .. | .xcancel g .. | .twait g ..
  | .tsig g .. | .tread g .. | .fence g .. | .aadd g .. | .aand g .. | .aor g .. | .axor g .. | .amin g ..
  | .amax g .. | .aswp g .. | .acas g .. | .afadd g .. | .mred g .. | .arrive g .. | .bwait g .. | .drop g ..
  | .qpush g .. | .qpop g .. | .launch g .. | .cvclaim g .. | .cvdone g .. | .pwait g .. | .trap g ..
  | .halt g .. | .ffence g .. | .tinvPage g .. | .tinvAsid g .. | .tinvAll g .. | .smap g .. | .sdrain g ..
  | .phase g .. => some g
  | _ => none

/-- The guard of an operation of a slot, whatever it is (R159). -/
def anyGuard : Instr → Option Guard
  | .br g .. | .call g .. | .jmp g .. | .calli g .. | .ret g .. | .loop g .. | .tret g | .mcall g .. | .mret g => some g
  | i => guardOf i

/-- The lane masks that an operation reads (R188). -/
def masksOf : Instr → List MCode
  | .vadd _ _ _ _ _ _ _ m | .vsub _ _ _ _ _ _ _ m | .vmul _ _ _ _ _ _ _ m | .vmulh _ _ _ _ _ _ m
  | .vmin _ _ _ _ _ _ m | .vmax _ _ _ _ _ _ m | .vabs _ _ _ _ _ _ m | .vneg _ _ _ _ _ _ m | .vand _ _ _ _ _ _ m
  | .vor _ _ _ _ _ _ m | .vxor _ _ _ _ _ _ m | .vandn _ _ _ _ _ _ m | .vshl _ _ _ _ _ _ m | .vshr _ _ _ _ _ _ m
  | .vsel _ _ _ _ _ _ m | .vaddi _ _ _ _ _ _ m _ | .vandi _ _ _ _ _ m _ | .vshli _ _ _ _ _ m _ _
  | .vshri _ _ _ _ _ m _ _ | .vmovi _ _ _ _ m _ | .vfadd _ _ _ _ _ _ m | .vfsub _ _ _ _ _ _ m
  | .vfmul _ _ _ _ _ _ m | .vffma _ _ _ _ _ _ _ m | .vfnma _ _ _ _ _ _ _ m | .vfdiv _ _ _ _ _ _ m
  | .vfsqrt _ _ _ _ _ m | .vfmin _ _ _ _ _ _ m | .vfmax _ _ _ _ _ _ m | .vfabs _ _ _ _ _ m | .vfneg _ _ _ _ _ m
  | .vcvt _ _ _ _ _ _ _ _ _ m | .vcvts _ _ _ _ _ _ _ _ _ m | .vsbpk _ _ _ _ _ _ _ _ m
  | .vsbun _ _ _ _ _ _ _ _ m | .vperm _ _ _ _ _ _ _ m | .vrot _ _ _ _ _ m _ _ | .vbcl _ _ _ _ _ m _ _
  | .vzip _ _ _ _ _ _ _ m | .vuzp _ _ _ _ _ _ _ m | .vcomp _ _ _ _ _ m | .vexpd _ _ _ _ _ m
  | .vslide _ _ _ _ _ _ m _ _ | .vsum _ _ _ _ _ _ m | .vrmax _ _ _ _ _ m | .vrmin _ _ _ _ _ m
  | .vfsum _ _ _ _ _ m | .vfrmax _ _ _ _ _ m | .vfrmin _ _ _ _ _ m | .vcmp _ _ _ _ _ _ _ _ m
  | .vfcmp _ _ _ _ _ _ _ _ m | .vtmask _ _ _ _ _ _ _ _ m | .psqz _ _ _ _ _ _ _ m | .plut _ _ _ _ _ m
  | .pmix _ _ _ _ _ _ m | .cdec _ _ _ _ m | .cenc _ _ _ _ m | .cdecm _ _ _ _ m | .cencm _ _ _ _ m
  | .cinit _ _ _ _ _ _ m | .cflush _ _ m | .csave _ _ _ m | .cload _ _ _ m | .cstat _ _ _ _ m
  | .ldv _ _ _ _ _ _ m | .ldvs _ _ _ _ _ _ _ m | .ldg _ _ _ _ _ _ _ _ m | .ldb _ _ _ _ _ _ m
  | .ldp _ _ _ _ _ _ _ _ m | .ldc _ _ _ m | .stv _ _ _ _ _ m | .stvs _ _ _ _ _ _ m | .stsc _ _ _ _ _ _ _ m => [m]
  | .mlog _ _ _ ma mb _ => [ma, mb]
  | .mmam _ _ rmk cmk => [rmk, cmk]
  | .mrgat _ _ mk => [mk]
  | .rdsp _ _ (.mask n) => [n]
  | _ => []

end Sys2Proof.Machine
end

