-- ==== Sys2Proof/Machine/Poison.lean ====
section
/-! DEFINITION. Poison of predicates, lane masks, stream registers and side registers: which of them an operation would
consume, and which it writes anew (R65). Scalars, vectors, tile registers and accumulator tiles are checked where an
operation reads them. -/

namespace Sys2Proof.Machine

/-- The lane masks that the operation's own meaning checks: those of matrix operations, whose marks move with the operations of
one call (R222). -/
def checksOwn : Instr → Bool
  | .mmam .. | .mrgat .. => true
  | _ => false

/-- The marks of what an operation with a true guard would consume (R65), but for what its meaning checks itself. -/
def sideReads (s : State) (i : Instr) : List Nat :=
  (if checksOwn i then [] else ((masksOf i).filter (· ≠ 0)).map fun m => 5032 + m.toNat) ++
  match i with
  | .plog _ _ _ pa pb _ => [s.ctx.markP pa, s.ctx.markP pb]
  | .cdec _ cs _ _ _ | .cdecm _ cs _ _ _ | .cenc _ cs _ _ _ | .cencm _ cs _ _ _ | .cflush _ cs _ | .csave _ cs _ _
  | .cstat _ _ cs _ _ | .ldc _ cs _ _ => [5040 + cs.toNat]
  | .rdsp _ _ (.shadow code _) => [5044 + code.toNat]
  | .rdsp _ _ (.mp n) => [5060 + n.toNat]
  | _ => []

/-- The marks of what an operation with a true guard writes whole (R65). -/
def sideEnds (s : State) (i : Instr) : List Nat :=
  let full := fun (m : MCode) (r : Nat) => if s.readM m = BitVec.allOnes 64 then [r] else []
  match i with
  | .cmp _ _ pt pf _ _ | .cmpi _ _ pt pf _ _ | .fcmp _ _ pt pf _ _ | .plog _ pt pf _ _ _ => [s.ctx.markP pt, s.ctx.markP pf]
  | .mlog _ _ md _ _ _ => [5032 + md.toNat]
  | .vcmp _ _ _ _ false vd _ _ m | .vfcmp _ _ _ _ false vd _ _ m => full m (5032 + vd.toNat)
  | .cstat _ _ _ md m => full m (5032 + md.toNat)
  | .wrsp _ _ (.mask n) => [5032 + n.toNat]
  | .wrsp _ _ (.mp n) => [5060 + n.toNat]
  | .cinit _ _ cs _ _ _ m | .cload _ cs _ m => full m (5040 + cs.toNat)
  | .mrtab .. => [5072]
  | .mpld _ _ e _ n => if e = 0 && n = 15 then [5071] else []
  | _ => []

/-- The state in which a guard's predicate is false and the marks ms are no poison: in it an operation makes the checks that are
made whatever the guard (R164). -/
def guardFalse (s : State) (g : Guard) : State :=
  let n := g.pred.toNat
  let f := fun (p : RegFile 1) => { vals := amSet p.vals n (if g.neg then 1 else 0), pend := p.pend.filter fun q => q.idx ≠ n }
  let s1 := clearPoison s [s.ctx.markP g.pred]
  if s.ctx.bankP g.pred then s1.setCtx { s1.ctx with hp := f s1.ctx.hp } else s1.modArch fun a => { a with p := f a.p }

/-- A Machine Check of slot sl, which the operation's own Illegal or Privileged Operation precedes: that which it raises in the
state s1, where the poison is left out (R165, R298). -/
def checkOr (s : State) (sl : Nat) (i : Instr) (s1 : State) : Out :=
  match exec i s1 with
  | .next s2 =>
    (match s2.issue with
     | .trapped 0x01 f => trapNow s sl 0x01 f
     | .trapped 0x02 f => trapNow s sl 0x02 f
     | _ => trapNow s sl 0x20 0)
  | o => o

/-- An operation of the bundle in issue: a guard or an operand among these registers that holds poison raises a Machine
Check (R65; its sr.fault: log 123); otherwise its meaning. -/
def execOp (i : Instr) (s : State) : Out :=
  if s.ctx.arch.poison.isEmpty || s.stage = .commit then exec i s
  else
    let sl := match encode i with | some p => p.1.index | none => 0xF
    match anyGuard i with
    | none => exec i s
    | some g =>
      if g.pred ≠ 0 && s.marked [s.ctx.markP g.pred] then checkOr s sl i (guardFalse s g)
      else if s.guardOn g then
        if s.marked (sideReads s i) then checkOr s sl i (clearPoison s (sideReads s i))
        else match exec i s with
          | .next s1 => .next (if s1.issue = .ok then clearPoison s1 (sideEnds s i) else s1)
          | o => o
      else exec i s

end Sys2Proof.Machine
end

