-- ==== Sys2Proof/Machine/Issue.lean ====
section
/-! DEFINITION. Fetching a bundle, the checks of its header and slots, and its issue by one context or by the sixteen of
a gang (R81, R129, R134, R147 to R149, R153 to R158, R163 to R165, R298). -/

namespace Sys2Proof.Machine

/-! ### Fetch (R19, R65, R81, R277) -/

/-- Memory as a fetch of context n sees it: stores later than its last fetch fence may be missing, the latest first. -/
def fetchMem (s : State) (n : Nat) : Memory :=
  let later := s.history.length - (s.ctxOf n).fetchFrom
  if later = 0 then s.mem
  else memWriteCells s.mem (s.history.take (Nat.min later (Config.fetchedAhead s.tick)))

/-- A fetched bundle, or the trap that its fetch raises. -/
inductive Fetch where
  | ok (s : State) (b : Nat)
  | trap (s : State) (t : Trap)

/-- The bundle at addr: CLASS 8 and SLOT 0xF when its page fails (R19). -/
def fetchBundle (s : State) (n : Nat) (addr : Word) : Fetch :=
  let va := addr.toNat
  match translatePages s (ctxXlat s n) .fetch false false [(va / 65536, 0)] [] [] with
  | (s1, _, f :: fs) =>
    .trap s1 { cause := 0x10, slot := 0xF, fault := 0, bva := addr, pages := some (Access.fetch.code, f :: fs), extra := [] }
  | (s1, pages, []) =>
    let pa := homePa (physOf pages va).pa
    if pa / 64 ∈ s1.poison then .trap s1 (plainTrap 0x20 0xF (BitVec.ofNat 64 (pa / 64 * 64)) addr)
    else .ok s1 (leNat (memRead (fetchMem s1 n) pa 64))

/-! ### The header and the bundle as a whole (R153 to R157, R165) -/

/-- What a bundle of context n is checked against beside its bits. -/
def headerInfo (b : Nat) (addr : Word) : BundleInfo :=
  let h := headerOf b
  { addr := addr, ckpt := h.ckpt, safe := h.safe, canonical := h.cls.toNat == 1 }

/-- Rule 3 of R154 and R155: an empty slot is zero and has no ports, but a scatter borrows the L port. -/
def emptyOk (b : Nat) (sl : Slot) : Bool :=
  let h := headerOf b
  let lent := sl == .l && !h.isEmpty .st && isScatter (slotWord b .st)
  !h.isEmpty sl || (slotWord b sl == 0 && (h.ports sl == 0 || lent))

/-- The land field of a slot word, by its format (Tables 8-3, 8-4, 13-9). -/
def landBits (sl : Slot) (w : Nat) : Nat :=
  match sl with
  | .l => fld w 21 6
  | .st => fld w 21 6
  | .y =>
    let o := w / 2 ^ 40 % 256
    if o = 0x03 || o = 0x31 || o = 0x40 || (0x10 ≤ o && o ≤ 0x18) then fld w 11 6 else 0
  | _ => 0

/-- A slot keeps the restrictions of a canonical bundle (R157). -/
def canonicalSlotOk (b : Nat) (sl : Slot) : Bool :=
  let w := slotWord b sl
  (headerOf b).isEmpty sl || (landBits sl w == 0 && (vecCodes sl w).all fun c => !(448 ≤ c && c < 480))

/-- Used slots of a bundle. -/
def usedCount (b : Nat) : Nat := (usedSlots b).length

/-- REASON and SLOT of an illegal header or bundle, in the order of R165; handler: the context is in handler mode; gang:
the bundle belongs to a gang stream. -/
def bundleFault (handler gang : Bool) (b : Nat) : Option (Nat × Nat) :=
  let h := headerOf b
  let canon := h.cls.toNat == 1
  if 2 ≤ h.cls.toNat then some (0x01, 0xF)
  else if h.rsv ≠ 0 then some (0x02, 0xF)
  else if h.safe && !h.ckpt then some (0x03, 0xF)
  else if 8 < h.pv0.toNat + h.pv1.toNat + h.pm.toNat + h.pl.toNat + h.pst.toNat + h.px.toNat then some (0x04, 0xF)
  else match Slot.all.find? fun sl => !emptyOk b sl with
    | some sl => some (0x06, sl.index)
    | none =>
      if (canon && (4 < usedCount b || !h.ckpt || gang)) || (!canon && handler) then some (0x0A, 0xF)
      else if canon then (Slot.all.find? fun sl => !canonicalSlotOk b sl).map fun sl => (0x0A, sl.index)
      else none

/-! ### One slot (R163 to R165) -/

/-- What one operation of the bundle in issue comes to before the bundle's state. -/
def probe (s : State) (i : Instr) : Issue := match execOp i s with | .next s1 => s1.issue | _ => .ok

/-- The operation of the bundle's M slot. -/
def matrixSlotOp (b : Nat) : Option Instr :=
  if (headerOf b).isEmpty .m then none else (decodeSlot .m (slotWord b .m)).toOption

/-- The operation of the bundle's ST slot. -/
def storeSlotOp (b : Nat) : Option Instr :=
  if (headerOf b).isEmpty .st then none else (decodeSlot .st (slotWord b .st)).toOption

/-- The earlier operation of the bundle whose effect at its issue an operation's check at the commit sees: an xnest's copy takes
in what the M slot writes to the microprogram and the registers of a nest's body (R225), and a check that reads memory sees
the store that the ST slot withholds (R139). -/
def seenFirst (b : Nat) : Instr → Option Instr
  | .xnest .. => matrixSlotOp b
  | .xbcast .. | .xgath .. | .xsend .. | .xrecv .. | .xrscat .. | .xallred .. | .xcancel .. | .mred .. | .launch .. | .cvclaim .. =>
    storeSlotOp b
  | _ => none

/-- The state in which an operation is judged before the bundle issues: that before the bundle, but for what its check sees. -/
def judged (s : State) (b : Nat) (i : Instr) : State :=
  match seenFirst b i with
  | some j => (match execOp j s with | .next s1 => if s1.issue = .ok then s1 else s | _ => s)
  | none => s

/-- REASON of an Illegal Operation that the operation itself raises. -/
def ownReason (s : State) (i : Instr) : List Nat :=
  match probe s i with
  | .trapped 0x01 f => [bitsOf f.toNat 8 8]
  | _ => []

/-- Operations of the used slots before sl, in slot order. -/
def opsBefore (b : Nat) (sl : Slot) : List Instr :=
  ((usedSlots b).filter fun t => t.index < sl.index).filterMap fun t => (decodeSlot t (slotWord b t)).toOption

/-- REASON 0x05: more vector fields than ports, or a scatter without its own L port (R154). -/
def portsBroken (b : Nat) (sl : Slot) : Bool :=
  let h := headerOf b
  let w := slotWord b sl
  h.ports sl < portReads sl w
    || (sl == .st && isScatter w && (h.pl == 0 || (!h.isEmpty .l && portReads .l (slotWord b .l) != 0)))

/-- Every REASON that applies to a used slot of the bundle of context s.cur. -/
def slotReasons (s : State) (b : Nat) (sl : Slot) : List Nat :=
  let c := s.ctx
  let w := slotWord b sl
  let at_ := fun (p : Bool) (r : Nat) => if p then [r] else []
  at_ (portsBroken b sl) 0x05 ++
  match decodeSlot sl w with
  | .error e => [e.reason]
  | .ok i =>
    let before := opsBefore b sl
    let lands := (i :: before).filter fun j => (landField j).isSome
    at_ (isIrrevocable i && !s.bundle.ckpt) 0x0B
      ++ at_ (isControl i && c.xferNow.delay ≠ 0) 0x0C
      ++ at_ ((dests i).any fun d => before.any fun j => d ∈ dests j) 0x0D
      ++ at_ (!i.rangeOk || (!s.bundle.canonical && landField i == some 0)) 0x0E
      ++ at_ ((landField i).isSome && 32 < c.landings.length + lands.length) 0x10
      ++ ownReason (judged s b i) i

/-- The lowest of a list of REASONs. -/
def lowest : List Nat → Option Nat
  | [] => none
  | r :: rs => match lowest rs with | none => some r | some q => some (Nat.min r q)

/-- The entry at which the bundle calls the microprogram. -/
def calledEntry (b : Nat) : Option Nat :=
  match matrixSlotOp b with
  | some (.mcall _ e) => some e.toNat
  | _ => none

/-- A safe bundle with work in flight, a call of its own among it, whatever its guard, or within a transfer (R145, R164, R181,
R223). -/
def unsafeSafe (s : State) (b : Nat) : Bool :=
  let c := s.ctx
  let control := match decodeSlot .s (slotWord b .s) with | .ok i => !(headerOf b).isEmpty .s && isControl i | .error _ => false
  s.bundle.safe && (!c.arch.settledBy s.now || (c.landings.any fun l => s.now < l.due) || s.now < c.callEnd
    || (calledEntry b).isSome || c.xferNow.delay ≠ 0 || control)

/-- Operations of a bundle in slot order, when all decode. -/
def bundleOps (b : Nat) : List Instr := (usedSlots b).filterMap fun sl => (decodeSlot sl (slotWord b sl)).toOption

/-- What the bundle of context s.cur comes to before it issues. -/
inductive Verdict where
  | go
  /-- cause 0x01 or 0x02 with REASON and SLOT. -/
  | illegal (reason slot : Nat)
  | privileged (slot : Nat)
  | blocks
  | brakes
deriving DecidableEq, Repr

/-- The verdict: Illegal Operation, then Privileged Operation, then a block, then a brake (R129, R135, R165). -/
def verdictOf (s : State) (b : Nat) : Verdict :=
  match bundleFault s.ctx.handler (s.ctx.gang && !s.ctx.handler) b with
  | some p => .illegal p.1 p.2
  | none =>
    match (usedSlots b).findSome? fun sl => (lowest (slotReasons s b sl)).map fun r => (r, sl.index) with
    | some p => .illegal p.1 p.2
    | none =>
      if unsafeSafe s b then .illegal 0x0F 0xF
      else
        let probes := (bundleOps b).map fun i => probe (judged s b i) i
        match probes.findSome? fun p => match p with | .trapped 0x02 f => some f.toNat | _ => none with
        | some f => .privileged (f % 16)
        | none =>
          if probes.any (· == .blocked) then .blocks
          else if probes.any (fun p => p == .braked || p == .interlocked) then .brakes
          else .go

/-! ### Issue by a group of contexts: one, or a gang in rank order (R147 to R149) -/

/-- Operations run in order at the stage of s until one does not go on. -/
def runOps : List Instr → State → Out
  | [], s => .next s
  | i :: is, s =>
    match execOp i s with
    | .next s1 => if s1.issue = .ok then runOps is s1 else .next s1
    | o => o

/-- A trap has been taken. -/
def Issue.isTrap : Issue → Bool
  | .trapped _ _ => true
  | _ => false

/-- The bundle's operations of the context in issue, and its commit (R139). -/
def issueRank (ops : List Instr) (s : State) : Out :=
  match runOps ops s with
  | .next s1 => if s1.issue = .ok then commitBundle (runOps (ops.filter actsAtCommit)) s1 else .next s1
  | o => o

/-- Cycles after the wall cycle of its group in which context n issues: its SKEW in a gang's bundle (R148). -/
def skewIn (s : State) (group : List Nat) (n : Nat) : Nat := if 1 < group.length then (s.ctxOf n).skew else 0

/-- The latest of them. -/
def maxSkew (s : State) (group : List Nat) : Nat := group.foldl (fun m n => Nat.max m (skewIn s group n)) 0

/-- The ranks in the order of the cycles in which they issue, and of their cores in each (R98, R148). -/
def bySkew (s : State) (group : List Nat) : List Nat :=
  (upto (maxSkew s group + 1)).flatMap fun k => group.filter fun n => skewIn s group n == k

/-- The ranks in order, each issuing and committing in its cycle, w being that of SKEW 0, on the state that the ones before it
leave (R98); those whose checks fail, with the trap that each has raised, are left as they stood. A wait of one ends it. -/
def issueRanks (ops : List Instr) (w : Nat) : List Nat → State → List (Nat × Option Trap) → Out × List (Nat × Option Trap)
  | [], s, bad => (.next s, bad)
  | n :: ns, s, bad =>
    match issueRank ops { s with cur := n, issue := .ok, stage := .issue, wall := w + (s.ctxOf n).skew } with
    | .next s1 =>
      if s1.issue = .ok then issueRanks ops w ns s1 bad
      else if s1.issue.isTrap then issueRanks ops w ns s (bad ++ [(n, s1.raised)])
      else (.next s1, bad)
    | o => (o, bad)

/-- Some rank's checks have failed: nothing of the bundle holds but the translations that its ranks have made (R13), and
the ranks that failed take their traps from the state before it, s0 (R139, R149, R305). -/
def takeFailures (ops : List Instr) (s0 : State) (bad : List (Nat × Option Trap)) : List Nat → State → Out
  | [], s => .next s
  | n :: ns, s =>
    match runOps ops { s.setCtxOf n (s0.ctxOf n) with cur := n, issue := .ok, stage := .issue } with
    | .next s1 =>
      if s1.issue.isTrap then takeFailures ops s0 bad ns s1
      else match (bad.find? fun p => p.1 == n).bind Prod.snd with
        | some t => takeFailures ops s0 bad ns (takeTrap (s1.setCtxOf n (s0.ctxOf n)) t)
        | none => takeFailures ops s0 bad ns (s1.setCtxOf n (s.ctxOf n))
    | o => o

/-- Where a fault of one rank has gone straight to containment the other ranks stay parked, those that took a trap of their own
in the same bundle too (R305). -/
def parkOthers (bad : List (Nat × Option Trap)) (group : List Nat) (s : State) : State :=
  let gone := fun n => bad.any fun p => p.1 == n && p.2.any fun t => routeContain t.cause
  if group.any gone then
    group.foldl (fun s n =>
      let c := s.ctxOf n
      if gone n || c.life ≠ .running || !c.gang then s
      else s.setCtxOf n { c with handler := false, parked := true, wait := .none }) s
  else s

/-- The same trap of every context of the group. -/
def trapAll (group : List Nat) (t : Trap) (s : State) : State :=
  { group.foldl (fun s n => takeTrapOf s n t) s with issue := .trapped t.cause t.fault }

/-- An Illegal Operation of every context of the group. The translations of an access to a device page outside a checkpoint
bundle, i, have been made, and stay (R13, R79). -/
def trapIllegal (group : List Nat) (i : Option Instr) (t : Trap) (s0 : State) : State :=
  let own := fun (s : State) n => i.bind fun i =>
    match execOp i { s.setCtxOf n (s0.ctxOf n) with cur := n, issue := .ok, stage := .issue } with
    | .next s1 => if s1.issue = .trapped t.cause t.fault then some s1 else none
    | _ => none
  let s1 := group.foldl (fun s n => match own s n with | some s1 => s1 | none => takeTrapOf s n t) s0
  { s1 with issue := .trapped t.cause t.fault }

/-- The ranks' control operations would go different ways (R149): a transfer not taken, and one taken to the bundle behind its
delay bundles, are different ways (DESIGN CHOICE, log 130). None where one of them has a fault of its own. -/
def diverges (ops : List Instr) (s : State) (group : List Nat) : Bool :=
  let ways := group.map fun n =>
    match runOps (ops.filter isControl) { s with cur := n } with
    | .next s1 => if s1.issue = .ok then some (s1.ctxOf n).xferNow else none
    | _ => none
  ways.all Option.isSome && ways.any (· ≠ ways.headD none)

/-- A fetch fence of any rank holds for the ridge's sequencer, which fetches for all of them, and for all that the bundle has
stored (R277). s: before the bundle's issue. -/
def fenceFetch (group : List Nat) (s s1 : State) : State :=
  if group.any fun n => (s1.ctxOf n).fetchFrom ≠ (s.ctxOf n).fetchFrom then
    (matesOf s (group.headD 0)).foldl (fun s n => s.setCtxOf n { s.ctxOf n with fetchFrom := s.history.length }) s1
  else s1

/-- A rank whose span is rolled back under R78, alone. -/
def rollRank (s : State) (n : Nat) : State :=
  s.setCtxOf n { (s.ctxOf n).rollback with rollbacks := (s.ctxOf n).rollbacks + 1 }

/-- Every rank that has failed fails the validation of a span that runs under a hold (R78). -/
def heldRanks (s : State) (bad : List (Nat × Option Trap)) : Bool :=
  bad.all fun p => p.2.isNone && decide (3 ≤ (s.ctxOf p.1).rollbacks)

/-- The bundle's issue and commit, once nothing keeps it from issuing. s0 is the state before it. A divergence is a fault of
slot S and comes before those of later slots (R149, R298). In a fourth execution the ranks that are valid commit, and those
that read what these have stored run their span again (DESIGN CHOICE, log 102). -/
def issueGroup (s0 : State) (group : List Nat) (ops : List Instr) (s : State) : Out :=
  match group with
  | [n] =>
    (match issueRank ops { s with cur := n } with
     | .next s1 => .next (if s1.issue = .ok then endGroup [n] s1 else s1)
     | o => o)
  | _ =>
    if diverges ops s group then .next (trapAll group (plainTrap 0x16 0 0 s.bundle.addr) s0)
    else match issueRanks ops s.wall (bySkew s group) s [] with
      | (.next s1, bad) =>
        if s1.issue ≠ .ok && !s1.issue.isTrap then .next s1
        else if heldRanks s bad then
          let good := group.filter fun n => !(bad.any fun p => p.1 == n)
          let s2 := endGroup good (fenceFetch group s { s1 with issue := .ok, stage := .issue })
          .next (bad.foldl (fun s p => rollRank s p.1) s2)
        else (match takeFailures ops s0 bad group s with
          | .next s2 =>
            .next (if bad.all fun p => p.2.isNone then
                     validationRollback { group.foldl (fun t n => t.setCtxOf n (s0.ctxOf n)) s2 with cur := group.headD 0 }
                   else parkOthers bad group s2)
          | o => o)
      | (o, _) => o

/-! ### The waits before issue (R134, R158) -/

/-- A landing due by now that has not arrived. -/
def landingLate (c : Ctx) : Bool := c.landings.any fun l => l.due ≤ c.arch.sched && !l.arrived

/-- Landings due by now are freed (R68). -/
def freeLandings (s : State) (n : Nat) : State :=
  let c := s.ctxOf n
  s.setCtxOf n { c with landings := c.landings.filter fun l => c.arch.sched < l.due }

/-- A canonical bundle waits until every landing has arrived (R158). -/
def landingsOut (c : Ctx) : Bool := c.landings.any fun l => !l.arrived

/-- In handler mode it waits until every tile write has finished (R158). -/
def tilesOut (c : Ctx) : Bool := c.handler && !(c.accFill.isEmpty && c.accMove.isEmpty)

/-- Every operation issued earlier has reached its L or landing (R158). -/
def settleForCanonical (s : State) (n : Nat) : State :=
  let c := s.ctxOf n
  s.setCtxOf n { c with arch := c.arch.flush, landings := [] }

/-- The landing that raises a trap: of those that a canonical bundle waits for, or of those due by now. -/
def failedFor (s : State) (canonical : Bool) (n : Nat) : Option (Nat × Landing × Trap) :=
  ((s.ctxOf n).landings.findSome? fun l =>
    if canonical || l.due ≤ (s.ctxOf n).arch.sched then (l.failure s n).map fun t => (l, t) else none).map fun x => (n, x)

/-! ### The attempt -/

/-- The worst of the ranks' verdicts: illegal before privileged before blocks before brakes. -/
def worst : List Verdict → Verdict
  | [] => .go
  | v :: vs =>
    match v, worst vs with
    | .illegal r k, _ => .illegal r k
    | _, .illegal r k => .illegal r k
    | .privileged k, _ => .privileged k
    | _, .privileged k => .privileged k
    | .blocks, _ => .blocks
    | _, .blocks => .blocks
    | .brakes, _ => .brakes
    | _, w => w

/-- The ranks' verdicts in the order in which they issue; a rank's push or pop counts the entries that the ranks before it
reserve (R102). -/
def verdicts (b : Nat) : List Nat → State → List (Nat × Verdict)
  | [], _ => []
  | n :: ns, s =>
    let s1 := { s with cur := n }
    (n, verdictOf s1 b) :: verdicts b ns (match (bundleOps b).find? isToken with
      | some i => (match execOp i s1 with
        | .next s2 => if s2.issue = .ok then s1.setCtx { s1.ctx with reserved := s2.ctx.reserved } else s1
        | _ => s1)
      | none => s1)
where
  isToken : Instr → Bool
    | .qpush .. | .qpop .. => true
    | _ => false

/-- The first operation of the bundle that satisfies p run for context n, which it makes wait. -/
def runWaiting (b : Nat) (p : Issue → Bool) (s : State) (n : Nat) : State :=
  let s1 := { s with cur := n }
  match (bundleOps b).find? fun i => p (probe (judged s1 b i) i) with
  | some i => (match execOp i s1 with | .next s2 => s2 | _ => s)
  | none => s

/-- The bundle blocks: every rank that blocks notes where it waits and for which phase (R99, R102). -/
def blockRanks (b : Nat) (ns : List Nat) (s : State) : State :=
  { ns.foldl (runWaiting b (· == .blocked)) s with issue := .blocked }

/-- The bundle brakes: every rank that brakes has the lines that it waits for fetched (R53, R60). -/
def brakeRanks (b : Nat) (ns : List Nat) (s : State) : State :=
  let s1 := ns.foldl (fun (s : State) n =>
    let s2 := runWaiting b (fun i => i == .braked || i == .interlocked) { s with issue := .ok } n
    { s2 with issue := if s.issue = .braked then .braked else s2.issue }) { s with issue := .ok }
  { s1 with issue := if s1.issue = .interlocked then .interlocked else .braked }

/-- The matrix operation takes its B data from the millrace. -/
def MatOp.takesMr : MatOp → Bool
  | .mac _ o _ _ => o.mr.isSome
  | _ => false

/-- The bundle of context s.cur has a matrix operation that takes its B data from the millrace, an entry of its call among
them. -/
def usesMillrace (s : State) (b : Nat) : Bool :=
  match matrixSlotOp b with
  | some (.mma _ o) | some (.mmaz _ o) | some (.mmam _ o _ _) => o.mr.isSome
  | some (.mcall _ e) => (match callBody s e.toNat with | some x => x.1.any MatOp.takesMr | none => false)
  | _ => false

/-- The B data of a gang's bundle would arrive after their cycle: the ridge brakes until they have come (R149; when they are
late is free). -/
def millraceWaits (s : State) (group : List Nat) (b : Nat) : Bool :=
  let r := ridgeOf (group.headD 0)
  (group.any fun n => usesMillrace { s with cur := n } b) && !(r ∈ s.millrace) && (Config.millraceLate s.tick || Instr.millraceDelivery r ∈ s.work)

/-- The bundle waits for those data. -/
def awaitMillrace (s : State) (group : List Nat) : State :=
  let e := Instr.millraceDelivery (ridgeOf (group.headD 0))
  { s with issue := .braked, work := if e ∈ s.work then s.work else s.work ++ [e] }

/-- A bundle that has been fetched: its checks, then its issue. s0 is the state before it, s the state to issue from. -/
def attemptBundle (s0 : State) (group : List Nat) (b : Nat) (s : State) : Out :=
  let vs := verdicts b (bySkew s group) s
  let who := fun v => (vs.filter fun p => p.2 == v).map Prod.fst
  match worst (vs.map Prod.snd) with
  | .illegal r k =>
    let i := if r = 0x0B then (usedSlots b).findSome? fun sl =>
      if sl.index = k then (decodeSlot sl (slotWord b sl)).toOption else none else none
    .next (trapIllegal group i (plainTrap 0x01 k (BitVec.ofNat 64 (r * 256 + k)) s.bundle.addr) s0)
  | .privileged k => .next (trapAll group (plainTrap 0x02 k (BitVec.ofNat 64 k) s.bundle.addr) s0)
  | .blocks => .next (blockRanks b (who .blocks) s)
  | .brakes => .next (brakeRanks b (who .brakes) s)
  | .go =>
    if 1 < group.length && millraceWaits s group b then .next (awaitMillrace s group)
    else match bundleOps b, group with
    | [], [n] => exec .emptyBundle { s with cur := n }
    | ops, _ => issueGroup s0 group ops s

/-- Address of the next bundle of context n. -/
def nextPc (c : Ctx) : Word := if c.handler then c.hpc else c.arch.pc

/-- A rank of the group stands at another bundle than the first, or in other delay bundles: after handlers that have changed
sr.epc in different ways (R305), or after ranks that ran alone (log 102). -/
def goneAstray (group : List Nat) (s : State) (n : Nat) : Bool :=
  group.any fun m => nextPc (s.ctxOf m) ≠ nextPc (s.ctxOf n) || (s.ctxOf m).xferNow ≠ (s.ctxOf n).xferNow

/-- The bundle has an operation that another agent's order depends on: a push, a pop, a launch, a timeline wait. -/
def ordersPort (b : Nat) : Bool :=
  (bundleOps b).any fun i => match i with | .qpush .. | .qpop .. | .launch .. | .twait .. => true | _ => false

/-- Device stores of the group's cores that the bundle follows take their place first: those before a handler's bundle and
before an operation whose outcome their registers decide (R79). -/
def drainPorts (group : List Nat) (b : Nat) (s : State) : State :=
  if ordersPort b || group.any fun n => (s.ctxOf n).handler then group.foldl drainOf s else s

/-- The next bundle of a group tried: fetched by its first context, waiting for late data, checked, issued. Ranks whose next
bundles differ take a Gang Divergence (R149; DESIGN CHOICE, log 132). -/
def attempt (group : List Nat) (s : State) : Out :=
  let n := group.headD s.cur
  let addr := nextPc (s.ctxOf n)
  let s0 := { s with cur := n, issue := .ok, stage := .issue, raised := none }
  match group.findSome? (failedFor s0 false) with
  | some p => .next (takeFailedLanding s0 p.1 p.2)
  | none =>
    if goneAstray group s0 n then .next (trapAll group (plainTrap 0x16 0 0 addr) s0)
    else if group.any fun m => landingLate (s0.ctxOf m) then .next { s0 with issue := .braked }
    else match fetchBundle (group.foldl freeLandings s0) n addr with
      | .trap s1 t => .next { takeTrapOf s1 n t with issue := .trapped t.cause t.fault }
      | .ok s1 b =>
        let s2 := drainPorts group b { s1 with bundle := headerInfo b addr }
        if s2.bundle.canonical then
          match group.findSome? (failedFor s2 true) with
          | some p => .next (takeFailedLanding s2 p.1 p.2)
          | none =>
            if group.any fun m => landingsOut (s2.ctxOf m) then .next { s2 with issue := .braked }
            else if group.any fun m => tilesOut (s2.ctxOf m) then .next { s2 with issue := .interlocked }
            else attemptBundle s2 group b (group.foldl settleForCanonical s2)
        else attemptBundle s2 group b s2

end Sys2Proof.Machine
end

