-- ==== Sys2Proof/Machine/Turn.lean ====
section
/-! DEFINITION. A core's turn, the events that the module's own agents can begin, and which agent moves next (R5, R70, R73,
R78, R129, R147, R289). -/

namespace Sys2Proof.Machine

/-! ### A core's turn -/

/-- The context holds a task whose next bundle may be tried (R117, R146, R276, R289, R303). -/
def Ctx.tries (c : Ctx) : Bool :=
  c.life = .running && !c.parked && c.wait = .none && !c.phaseDone && !(c.preempt.isSome && c.atSafe && !c.handler)

/-- The ranks of a gang that issue next: all sixteen, or those that run their span again behind the others (R147, log 102); no
rank is in handler mode, parked or held (R305). -/
def gangGroup (s : State) (n : Nat) : List Nat :=
  let low := (gangOf n).foldl (fun m k => Nat.min m (s.ctxOf k).arch.sched) (s.ctxOf n).arch.sched
  if (gangOf n).all fun k =>
      let c := s.ctxOf k
      c.life = .running && c.gang && !c.handler && !c.parked && c.wait ≠ .gangHold && (c.tries || low < c.arch.sched)
  then (gangOf n).filter fun k => (s.ctxOf k).arch.sched == low
  else []

/-- The contexts that issue together with context n: itself, or the ranks of its gang that issue next (R147, R305). -/
def groupOf (s : State) (n : Nat) : Option (List Nat) :=
  let c := s.ctxOf n
  if !c.tries then none
  else if !c.gang || c.handler then some [n]
  else if n ∈ gangGroup s n then some (gangGroup s n)
  else none

/-- Registers of core k. -/
def State.core (s : State) (k : Nat) : Core := amGet Core.reset s.cores k

/-- A context of the core may be tried. -/
def coreReady (s : State) (k : Nat) : Bool := (upto 4).any fun i => (groupOf s (4 * k + i)).isSome

/-- The core holds the brake line: 1 by the interlock of R60, 2 by another cause, a wait of R24 or R82 among them (R135). -/
def holdsBrake (s : State) (k : Nat) : Nat :=
  if coreWaits s k then 2
  else if ((s.core k).brake = 1 || (s.core k).brake = 2) && coreReady s k then (s.core k).brake
  else 0

/-- The brake that the other cores of a gang's ridge hold on core k (R149). -/
def ridgeBrake (s : State) (k : Nat) : Nat :=
  if gangRidge s (k / 16) then
    ((upto 16).filter fun i => 16 * (k / 16) + i ≠ k).foldl (fun b i => Nat.max b (holdsBrake s (16 * (k / 16) + i))) 0
  else 0

/-- The core's contexts from the one that issued last, wrapping, so that one that holds the brake line is tried first (R135); on a
core that does not brake a gang comes first, since the others issue only in cycles in which it does not (R147, R289). -/
def rotation (s : State) (k : Nat) : List Nat :=
  let c := s.core k
  let order := (upto 4).map fun i => 4 * k + (c.last + i) % 4
  if (s.ctxOf (4 * k)).gang && !(s.ctxOf (4 * k)).handler && c.brake = 0 then 4 * k :: order.filter (· ≠ 4 * k) else order

/-- The wall cycle in which the group issues: none of its cores has issued in it (R129, R147), and bundles of one wall cycle
follow each other in ascending order of their cores (R98, log 110). Rank k issues SKEW cycles after it (R148). -/
def issueCycle (s : State) (group : List Nat) : Nat :=
  let w := group.foldl (fun w n => Nat.max w ((s.core (coreOf n)).free - skewIn s group n)) s.wall
  let first := (bySkew s group).headD 0
  if s.lastIssue.1 = w + skewIn s group first && coreOf first ≤ s.lastIssue.2 then w + 1 else w

/-- After a bundle, or the trap that it raised: the cores have used their wall cycle (R129). s0: before it, at the cycle in which
the group has issued. -/
def issued (s0 s : State) (group : List Nat) : State :=
  let s1 := leaveTokens s group
  { s1 with stage := .issue, wall := s0.wall + maxSkew s0 group,
            lastIssue := (s0.wall + maxSkew s0 group, coreOf ((bySkew s0 group).getLastD 0)),
            millrace := if 1 < group.length then s1.millrace.filter (· ≠ ridgeOf (group.headD 0)) else s1.millrace,
            cores := group.foldl (fun m n =>
              amMod Core.reset m (coreOf n) fun c =>
                { c with last := ctxInCore n, free := s0.wall + skewIn s0 group n + 1, brake := 0 }) s1.cores }

/-! ### Stores that a held span puts off (R78) -/

/-- Bytes that have been stored from s0 to s1. -/
def newStores (s0 s1 : State) : List (Nat × Byte) := s1.history.take (s1.history.length - s0.history.length)

/-- A context whose held span reads a line that has been stored to since s0, own being the contexts whose stores these are; a span
of theirs that is held too goes before those behind it in die, ridge, core and context order. -/
def holderOf (s0 s1 : State) (own : List Nat) : Option Nat :=
  let cells := newStores s0 s1
  if cells.isEmpty then none
  else (s0.ctxs.find? fun p => !(decide (p.1 ∈ own)) && holdsLine p.2 cells
    && !(own.any fun n => decide (3 ≤ (s0.ctxOf n).rollbacks) && decide (n < p.1))).map Prod.fst

/-- After a bundle that blocks: nothing of it has issued; each context waits at its token queue, and for its phase (R99,
R102, R129). s0: before it. -/
def asBlocked (s0 s : State) (group : List Nat) : State :=
  group.foldl (fun t n => t.setCtxOf n { s0.ctxOf n with
    blocked := true, blockedSafe := s.bundle.safe, waitPhase := (s.ctxOf n).waitPhase, tokenWait := (s.ctxOf n).tokenWait })
    { s0 with tokens := s.tokens }

/-- What a bundle that brakes has set going: the fetch of lines, the delivery of millrace data. -/
def setGoing : Instr → Bool
  | .stashLineFill .. | .millraceDelivery .. => true
  | _ => false

/-- After a bundle that brakes: nothing has issued, but what it waits for is under way (R53, R135). -/
def asBraked (s0 s : State) (n : Nat) : State :=
  { s0 with work := s0.work ++ (s.work.drop s0.work.length).filter setGoing,
            cores := amMod Core.reset s0.cores (coreOf n) fun c =>
              { c with last := ctxInCore n, brake := if s.issue = .interlocked then 1 else 2 } }

/-- After a bundle whose stores wait for the held span of context m (R78): nothing has issued. A span of the same core goes first
(log 103). -/
def asHeld (s0 : State) (n m : Nat) : State :=
  { s0 with cores := amMod Core.reset s0.cores (coreOf n) fun c =>
      if coreOf m = coreOf n then { c with last := ctxInCore m, brake := 3 } else { c with last := ctxInCore n, brake := 2 } }

/-- What the issue of a group's bundle, or the trap that it raised, leaves, unless its stores wait. s: before the attempt; s0: the
same at the cycle of the issue. -/
def afterIssue (s s0 s1 : State) (group : List Nat) (n : Nat) : State :=
  match holderOf s0 s1 group with
  | some m => asHeld s n m
  | none => issued s0 s1 group

/-- The contexts of core k tried in order, until one does not block (R289). -/
def tryContexts (k : Nat) : List Nat → State → Out
  | [], s => .next s
  | n :: ns, s =>
    match groupOf s n with
    | none => tryContexts k ns s
    | some g =>
      let retry := fun (s : State) (m : Nat) =>
        if (s.ctxOf m).blocked then (match exec (.blockedBundleRetry m) s with | .next s1 => s1 | _ => s) else s
      let s0 := g.foldl retry { s with wall := issueCycle s g }
      match attempt g s0 with
      | .next s1 =>
        (match s1.issue with
         | .blocked => tryContexts k ns (asBlocked s s1 g)
         | .ok | .trapped _ _ => .next (afterIssue s s0 s1 g n)
         | _ => .next (asBraked s s1 n))
      | o => o

/-- The turn of core k. While another core of a gang's ridge holds the brake line, a core that held it too only finds out
whether its own cause has ended (R149). -/
def coreTurn (s : State) (k : Nat) : Out :=
  if coreWaits s k then .next s
  else if ridgeBrake s k = 0 then tryContexts k (rotation s k) s
  else if holdsBrake s k = 0 then .next s
  else match tryContexts k (rotation s k) s with
    | .next s1 =>
      .next (if holdsBrake s1 k ≠ 0 then s1
             else { s with cores := amMod Core.reset s.cores k fun c => { c with brake := 0 } })
    | o => o

/-! ### Events that can begin -/

/-- A save can take its step (R312). -/
def saveDue (s : State) (n : Nat) : Bool :=
  let g := preemptGroup s n
  g.all (fun k => (s.ctxOf k).atSavePoint) && (g.any (fun k => (failedLanding s k).isSome) || g.all (saveQuiet s))

/-- The watchdog of a context has run out (R290). -/
def watchdogDue (s : State) (n : Nat) : Bool :=
  let c := s.ctxOf n
  let limit := (s.partition c.part).wdog
  match c.preempt with
  | some t0 => c.life = .running && !c.atSafe && 0 < limit && decide (limit < s.wall - t0)
  | none => false

/-- Contexts of the module that hold a task. -/
def busyCtxs (s : State) : List Nat := (s.ctxs.filter fun p => p.1 < 2 ^ 20 && p.2.life ≠ .idle).map Prod.fst

/-- Events that the module's own agents can begin now. -/
def derivedEvents (s : State) : List Instr :=
  (s.launches.filter fun l => mergeReady s l.1).map (fun l => .phaseMerge l.1)
    ++ (upto 64).filterMap (fun q =>
         if headReady s q && queueAged s q then some (.queueAged q) else none)
    ++ (s.parts.filter fun p => !(readyQueues s p.1).isEmpty).map (fun p => .partitionSelection p.1)
    ++ (busyCtxs s).flatMap (fun n =>
         (if saveDue s n then [Instr.contextSave n] else []) ++ (if watchdogDue s n then [Instr.watchdogExpiry n] else []))
    ++ (upto 12).flatMap (fun k =>
         (if coreTakes s k && (nextEvent s).isSome then [Instr.controlEventDispatch k] else [])
           ++ (if gateDue s k then [Instr.controlCoreGate k] else []))

/-! ### Which agent moves next -/

/-- Cores with a context that may be tried and no brake of another core of a gang's ridge (R135, R149). -/
def readyCores (s : State) : List Nat :=
  (busyCtxs s).foldl (fun acc n =>
    let k := coreOf n
    if (groupOf s n).isSome && !(k ∈ acc) && !coreWaits s k && (ridgeBrake s k = 0 || holdsBrake s k ≠ 0) then acc ++ [k]
    else acc) []

/-- The engine sequencers, the matrix-array sequencer and the rule-step unit of context n's core stand still: the core is
braked, not by the interlock of R60 alone (Table 7-7). -/
def coreFrozen (s : State) (n : Nat) : Bool := holdsBrake s (coreOf n) = 2 || ridgeBrake s (coreOf n) = 2

/-- An event of a unit that stands still. -/
def eventFrozen (s : State) : Instr → Bool
  | .copyPoint n _ | .nestPoint n _ | .ruleGeneration n _ | .accumulatorWriteFinish n _ => coreFrozen s n
  | _ => false

/-- Every event, begun or able to begin, in order. -/
def events (s : State) : List Instr := s.work ++ derivedEvents s

/-- Everything that can move, with its agent. Until HBM is zeroed only the units that zero it do (R70). -/
def movers (s : State) : List (Agent × Turn) :=
  let at_ := fun (p : Instr × Nat) => (Agent.event p.1, Turn.work p.2)
  if !s.hbmReady then (s.work.zipIdx.filter fun p => p.1 == .hbmZeroComplete).map at_
  else (readyCores s).map (fun k => (.core k, .core k)) ++ ((events s).zipIdx.filter fun p => !eventFrozen s p.1).map at_
    ++ ((upto s.devOut.length).filter (portReady s)).map (fun i => (.ports, .port i))
    ++ (if s.inputs.isEmpty then [] else [(.outside, .input)])

/-- The agents that wait after a step in which one moved: those that still can move, in the order of their waiting, then
those that now can. -/
def stillWaiting (old new : List Agent) : List Agent :=
  old.filter (· ∈ new) ++ new.filter fun a => !(a ∈ old)

/-- Agents without repeats. -/
def distinctAgents : List Agent → List Agent
  | [] => []
  | a :: as => a :: (distinctAgents as).filter (· ≠ a)

/-- The agent whose turn it is. -/
def movingAgent (s : State) : Option Agent :=
  match s.turn with
  | .core k => some (.core k)
  | .work n => (events s)[n]?.map .event
  | .port _ => some .ports
  | .input => some .outside
  | .idle => none

/-- The next to move: free where several can (R5, R73, R85), but from time to time the agent that has waited longest, so that
none waits for ever (R92, R340). moved: the agent that has moved. -/
def chooseTurn (s : State) (moved : Option Agent) : State :=
  let ms := movers s
  let waiting := stillWaiting (s.waiting.filter fun a => moved ≠ some a) (distinctAgents (ms.map Prod.fst))
  match ms with
  | [] => { s with turn := .idle, waiting := waiting }
  | m :: _ =>
    if s.patience = 0 then
      let t := match waiting.head?.bind fun a => ms.find? fun p => p.1 == a with | some p => p.2 | none => m.2
      { s with turn := t, waiting := waiting, patience := Config.patience s.tick }
    else
      { s with turn := (ms.getD (Config.nextAgent s.tick % ms.length) m).2, waiting := waiting, patience := s.patience - 1 }

/-! ### An event's turn -/

/-- The stores of an agent wait for held spans (R78), but for those of the contexts own. -/
def putOff (s0 s1 : State) (own : List Nat) : Bool := (holderOf s0 s1 own).isSome

/-- The contexts as whose stores an event's stores count: a rule step is its context's, and looks at the other spans itself;
every other event's are those of an agent outside the contexts. -/
def storersOf (s : State) : Instr → List Nat
  | .ruleGeneration c tile =>
    (match (s.tile tile).rule with | some st => (ruleGroup s c tile st).map Prod.fst | none => [])
  | _ => []

/-- The event's own step of the machine. One whose stores wait, or that cannot take effect yet, is tried again later. -/
def eventTurn (s : State) (n : Nat) : Out :=
  match (events s).drop n with
  | [] => .next s
  | i :: _ =>
    let begun := n < s.work.length
    let again := fun (t : State) => Host.Outcome.next { t with work := if begun then t.work ++ [i] else t.work, issue := .ok }
    let s1 := if begun then { s with work := s.work.eraseIdx n, issue := .ok } else { s with issue := .ok }
    match exec i s1 with
    | .next s2 => if putOff s1 s2 (storersOf s1 i) then again s1 else if s2.issue = .braked then again s2 else .next s2
    | o => o

/-- What the outside world may ask for: no operation of a bundle. -/
def fromOutside (i : Instr) : Bool := (encode i).isNone && i != .emptyBundle

/-- The oldest outside event. -/
def inputTurn (s : State) : Out :=
  match s.inputs with
  | [] => .next s
  | i :: is =>
    if !fromOutside i then .next { s with inputs := is }
    else match exec i { s with inputs := is, issue := .ok } with
      | .next s1 =>
        if putOff s s1 [] then .next s
        else if s1.issue = .braked then .next { s1 with work := s1.work ++ [i], issue := .ok }
        else .next s1
      | o => o

/-- The next store of device port n; one that stores to memory waits for held spans too. -/
def portTurn (s : State) (n : Nat) : Out :=
  let s1 := if portReady s n then portStep s n else s
  .next (if putOff s s1 [] then s else s1)

end Sys2Proof.Machine
end

