-- ==== Sys2Proof/Machine/Step.lean ====
section
/-! DEFINITION. One step of the module, and a bundle placed where the next step fetches. -/

namespace Sys2Proof.Machine

/-- The agent whose turn it is moves, after a free advance of the wall count (R5). -/
def move (s : State) : Out :=
  let s0 := { s with wall := s.wall + Config.wallAdvance s.tick }
  match s.turn with
  | .core k => coreTurn s0 k
  | .work n => eventTurn s0 n
  | .port n => portTurn s0 n
  | .input => inputTurn s0
  | .idle => .next s0

/-- The free values of the next step are fresh, rings go on with the records that they hold, and the next agent is chosen.
moved: the agent that has moved. -/
def settleTurn (moved : Option Agent) (s : State) : State := chooseTurn (ringsStep { s with tick := s.tick + 1 }) moved

/-- One step. -/
def step (s : State) : Host.Outcome State Fault Refusal :=
  match move s with
  | .next s1 => .next (settleTurn (movingAgent s) s1)
  | .fault r => .fault r
  | .refused r => .refused r

/-- Physical address of the bundle that withFetchWord places. -/
def fetchAt : Nat := 0x100000

/-- Its virtual address: the tables map the physical memory at 2^55 as well as at 0. -/
def fetchVa : Nat := 2 ^ 55 + fetchAt

/-- Page tables that map the 512 MiB at virtual 0 and at 2^55 to the first 512 MiB of memory: coherent, X, W, PH, and A
and D set. -/
def fetchTables (m : Memory) : Memory :=
  memWrite (memWrite (memWrite m 0x10000 (leBytes 8 0x20001 ++ leBytes 8 0x20001)) 0x20000 (leBytes 8 0x30001))
    0x30000 (leBytes 8 0x1D83)

/-- A task on context 0 whose next bundle stands at fetchVa. -/
def fetchCtx (s : State) : Ctx :=
  let c := s.ctxOf 0
  let a := { c.arch with pc := BitVec.ofNat 64 fetchVa, ttb := 0x10000, xfer := { delay := 0, target := none } }
  { c with arch := a, ckpt := a, life := .running, handler := false, parked := false, wait := .none, phaseDone := false,
           preempt := none, gang := false, landings := [], blocked := false, skew := 0, fetchFrom := s.history.length }

/-- The state with a bundle, whose bits above nbits are zero, where the next step fetches: its bytes, page tables for
its address, a task on context 0 of core 0 whose program counter is there, and the turn at core 0 with HBM zeroed. -/
def State.withFetchWord (s : State) (nbits w : Nat) : State :=
  let b := w % 2 ^ nbits % 2 ^ 512
  let s1 := s.setCtxOf 0 (fetchCtx s)
  { s1 with mem := memWrite (fetchTables s.mem) fetchAt (leBytes 64 b), tlb := [], hbmReady := true, turn := .core 0,
            cores := amMod Core.reset s.cores 0 fun c => { c with last := 0, brake := 0 } }

end Sys2Proof.Machine
end

