-- ==== Sys2Proof/Safety.lean ====
section
/-! DEFINITION. What claims are stated in: steps that go on, the invariants of the module, what a register holds at a
cycle to come, what an operation reads, what it writes and what it leaves. -/

namespace Sys2Proof

open Sys2Proof.Machine

/-- The step of a state goes on: neither a fault nor a refusal. -/
def Goes (s : State) : Prop := ∃ t, step s = .next t

/-- Until HBM is zeroed, the only agent that may move is the units that zero it (R70). -/
def BootInv (s : State) : Prop :=
  s.hbmReady = false → s.turn = .idle ∨ ∃ n, s.turn = .work n ∧ s.work[n]? = some .hbmZeroComplete

/-- Memory keeps its canonical form. -/
def MemInv (s : State) : Prop := Memory.wf s.mem = true

end Sys2Proof

namespace Sys2Proof.Machine

/-! ### Registers at a cycle to come, when nothing more is written (R130) -/

/-- s[n] at schedule cycle c. -/
def State.scalarAt (s : State) (n : SCode) (c : Nat) : Word :=
  if n = 0 then 0
  else if s.ctx.bankS n then (s.ctx.hs.advance c).settled n.toNat
  else (s.ctx.arch.s.advance c).settled n.toNat

/-- p[n] at schedule cycle c. -/
def State.predAt (s : State) (n : PCode) (c : Nat) : Bool :=
  if n = 0 then true
  else if s.ctx.bankP n then (s.ctx.hp.advance c).settled n.toNat = 1
  else (s.ctx.arch.p.advance c).settled n.toNat = 1

/-- m[n] at schedule cycle c. -/
def State.maskAt (s : State) (n : MCode) (c : Nat) : Word :=
  if n = 0 then BitVec.allOnes 64 else (s.ctx.arch.m.advance c).settled n.toNat

/-- Register vn at schedule cycle c. -/
def State.vectorAt (s : State) (n c : Nat) : VReg := (s.ctx.arch.v.advance c).settled n

/-- Tile register tn at schedule cycle c. -/
def State.tileAt (s : State) (n : TCode) (c : Nat) : TReg := (s.ctx.arch.t.advance c).settled n.toNat

/-- What a vector destination c holds from cycle due on: the register, or the latest value given to the bypass name. -/
def State.vectorMade (s : State) (c : VCode) (due : Nat) : VReg :=
  if isBypass c then (match s.ctx.bypass.getLast? with | some b => b.data | none => 0) else s.vectorAt c.toNat due

/-! ### What an operation may read -/

/-- The scalar registers hold no poison (R65). -/
def State.soundS (s : State) (rs : List SCode) : Prop := ∀ r ∈ rs, s.ctx.markS r ∉ s.ctx.arch.poison

/-- The vector fields are inside their windows, and hold no poison (R65, R137). -/
def State.soundV (s : State) (cs : List VCode) : Prop :=
  ∀ c ∈ cs, s.vecReadable c = true ∧ (isBypass c = false → c.toNat ∉ s.ctx.arch.poison)

/-- The tile register holds no poison. -/
def State.soundT (s : State) (t : TCode) : Prop := 384 + t.toNat ∉ s.ctx.arch.poison

/-- The span has room in its journal for these vector-sized entries (R143). -/
def State.roomV (s : State) (es : List Nat) : Prop := (insertAll es s.ctx.journalV).length ≤ 16

/-- A vector destination takes its journal entry, or needs none. -/
def State.roomFor (s : State) (c : VCode) : Prop := isBypass c = true ∨ s.roomV [c.toNat]

/-! ### What an operation writes, and its frame -/

/-- The state with the scalar registers, their poison and the clock of R145 left out. -/
def State.sansS (s : State) : State :=
  s.setCtx { s.ctx with hs := .zero, arch := { s.ctx.arch with s := .zero, reached := 0, poison := [] } }

/-- The state with the predicates and the clock of R145 left out. -/
def State.sansP (s : State) : State :=
  s.setCtx { s.ctx with hp := .zero, arch := { s.ctx.arch with p := .zero, reached := 0 } }

/-- The state with the lane masks and the clock of R145 left out. -/
def State.sansM (s : State) : State := s.modArch fun a => { a with m := .zero, reached := 0 }

/-- The state with the vector registers, bypass names, their poison, zero flags and journal entries, and the clock of R145
left out. -/
def State.sansV (s : State) : State :=
  s.setCtx { s.ctx with bypass := [], journalV := [],
                        arch := { s.ctx.arch with v := .zero, reached := 0, poison := [], zeroOff := [] } }

/-- The state with the tile registers, their zero flags and journal entries, and the clock of R145 left out. -/
def State.sansT (s : State) : State :=
  s.setCtx { s.ctx with journalV := [], arch := { s.ctx.arch with t := .zero, reached := 0, zeroOff := [] } }

/-- From s to t, scalar sd takes x at the cycle due, a write to s0 being discarded; every other scalar register, every
read of the bundle and everything else stay as they are, but the poison of sd ends (R65, R122, R130). -/
structure WroteS (s t : State) (sd : SCode) (x : Word) (due : Nat) : Prop where
  value : t.scalarAt sd due = if sd = 0 then 0 else x
  others : ∀ n c, n ≠ sd → t.scalarAt n c = s.scalarAt n c
  reads : ∀ n, t.readS n = s.readS n
  poison : t.ctx.arch.poison = s.ctx.arch.poison.filter fun r => r ≠ s.ctx.markS sd
  frame : t.sansS = s.sansS

/-- From s to t, predicates pt and pf take b and its complement at the cycle due, a write to p0 being discarded; every
other predicate, every read of the bundle and everything else stay as they are (R122, R130, R174). -/
structure WroteP (s t : State) (pt pf : PCode) (b : Bool) (due : Nat) : Prop where
  truth : t.predAt pt due = if pt = 0 then true else if pt = pf then !b else b
  complement : t.predAt pf due = if pf = 0 then true else !b
  others : ∀ n c, n ≠ pt → n ≠ pf → t.predAt n c = s.predAt n c
  reads : ∀ n, t.readP n = s.readP n
  frame : t.sansP = s.sansP

/-- From s to t, the bits mask of lane mask md take x's at the cycle due and its other bits hold what the bundle read, a
write to m0 being discarded; every other mask, every read of the bundle and everything else stay as they are (R122, R130,
R188, R200). -/
structure WroteM (s t : State) (md : MCode) (mask x : Word) (due : Nat) : Prop where
  value : t.maskAt md due = if md = 0 then BitVec.allOnes 64 else (x &&& mask) ||| (s.readM md &&& ~~~mask)
  others : ∀ n c, n ≠ md → t.maskAt n c = s.maskAt n c
  reads : ∀ n, t.readM n = s.readM n
  frame : t.sansM = s.sansM

/-- From s to t, vector destination c takes x at the cycle due: the register, with its journal entry, or the bypass name.
Every other vector register, every read of the bundle and everything else stay as they are; a write of the whole
register ends its poison (R65, R130, R136, R140). -/
structure WroteV (s t : State) (c : VCode) (whole : Bool) (x : VReg) (due : Nat) : Prop where
  value : t.vectorMade c due = x
  others : ∀ n k, isBypass c = true ∨ n ≠ c.toNat → t.vectorAt n k = s.vectorAt n k
  reads : ∀ n, t.fileV n = s.fileV n
  bypass : t.ctx.bypass = if isBypass c then
      s.ctx.bypass ++ [{ name := c.toNat - 448, data := x, start := due, issued := s.now }] else s.ctx.bypass
  journal : t.ctx.journalV = if isBypass c then s.ctx.journalV else insertAll [c.toNat] s.ctx.journalV
  poison : t.ctx.arch.poison =
    if whole && !isBypass c then s.ctx.arch.poison.filter fun r => r ≠ c.toNat else s.ctx.arch.poison
  frame : t.sansV = s.sansV

/-- Lane l of type ty of a destination: f l where the mask is active, else what the destination held at the issue
(R188). -/
def State.maskedLane (s : State) (ty : Ty) (m : MCode) (vd : VCode) (f : Nat → Nat) (l : Nat) : Nat :=
  if activeIn (s.readM m) l ty then f l % 2 ^ ty.bits else Machine.lane (s.keptV vd) ty l

/-- The destination of a lanewise operation under a write mask: each lane is maskedLane (R188). -/
def WroteLanes (s t : State) (ty : Ty) (m : MCode) (vd : VCode) (f : Nat → Nat) (due : Nat) : Prop :=
  ∃ x, WroteV s t vd (s.readM m == BitVec.allOnes 64) x due ∧ ∀ l, l < ty.lanes → Machine.lane x ty l = s.maskedLane ty m vd f l

/-- The destination of an operation that writes every lane of type ty: lane l is f l. -/
def WroteAll (s t : State) (ty : Ty) (vd : VCode) (f : Nat → Nat) (due : Nat) : Prop :=
  ∃ x, WroteV s t vd true x due ∧ ∀ l, l < ty.lanes → Machine.lane x ty l = f l % 2 ^ ty.bits

/-- From s to t, the bytes mask of tile register n take x's at the cycle due, with journal entries for its row groups gs;
every other byte, every read of the bundle and everything else stay as they are (R130, R140). -/
structure WroteT (s t : State) (n : TCode) (gs : List Nat) (mask x : TReg) (due : Nat) : Prop where
  value : t.tileAt n due = (s.tileAt n due &&& ~~~mask) ||| (x &&& mask)
  others : ∀ k c, k ≠ n → t.tileAt k c = s.tileAt k c
  reads : ∀ k, t.readT k = s.readT k
  journal : t.ctx.journalV = insertAll (gs.map (rowEntry n.toNat)) s.ctx.journalV
  frame : t.sansT = s.sansT

/-! ### Groups of vector registers -/

/-- From s to t, vector registers c to c + n − 1 take f 0 to f (n − 1) at the cycle due, with their journal entries;
every other vector register, every read of the bundle and everything else stay as they are; a write of the whole registers
ends their poison (R65, R130, R140). -/
structure WroteGroup (s t : State) (c n : Nat) (whole : Bool) (f : Nat → VReg) (due : Nat) : Prop where
  value : ∀ i, i < n → t.vectorAt (c + i) due = f i
  others : ∀ k d, (k < c ∨ c + n ≤ k) → t.vectorAt k d = s.vectorAt k d
  reads : ∀ k, t.fileV k = s.fileV k
  bypass : t.ctx.bypass = s.ctx.bypass
  journal : t.ctx.journalV = insertAll ((List.range n).map (c + ·)) s.ctx.journalV
  poison : ∀ r, r ∈ t.ctx.arch.poison ↔ r ∈ s.ctx.arch.poison ∧ (whole = true → r < c ∨ c + n ≤ r)
  frame : t.sansV = s.sansV

/-! ### Stream registers -/

/-- Words of stream lane k at schedule cycle c, when nothing more is written (R230). -/
def State.wordsAt (s : State) (k c : Nat) : BitVec 224 := (s.ctx.arch.str.words.advance c).settled k

/-- The state with the stream registers and the clock of R145 left out. -/
def State.sansStr (s : State) : State :=
  s.modArch fun a => { a with str := { words := .zero, queues := [], ops := [] }, reached := 0 }

/-- What an operation does to one stream lane: bits mask of its words take words' at a cycle, and its window and status
change as the queue operation says (R230). -/
structure LaneEffect where
  mask : BitVec 224
  words : BitVec 224
  op : QueueOp

/-- From s to t, each stream lane k changes as f k says, its words at the cycle due, and no other lane changes; anew: the
appends that were on their way to a lane that changes are dropped. Settled windows and status, every read of the bundle
and everything else stay as they are (R130, R230). -/
structure StreamWrote (s t : State) (anew : Bool) (due : Nat) (f : Nat → Option LaneEffect) : Prop where
  words : ∀ k e, f k = some e → t.wordsAt k due = (s.wordsAt k due &&& ~~~e.mask) ||| (e.words &&& e.mask)
  ops : ∀ k e, f k = some e → e.op.key = k ∧ e.op ∈ t.ctx.arch.str.ops
  others : ∀ k c, f k = none → t.wordsAt k c = s.wordsAt k c
  kept : ∀ o ∈ s.ctx.arch.str.ops, (anew = true → (f o.key).isSome = true → o.append = []) → o ∈ t.ctx.arch.str.ops
  fresh : ∀ o ∈ t.ctx.arch.str.ops, o ∈ s.ctx.arch.str.ops ∨ ∃ e, f o.key = some e ∧ o = e.op
  dropped : anew = true → ∀ o ∈ t.ctx.arch.str.ops, (f o.key).isSome = true → o.append = []
  queues : t.ctx.arch.str.queues = s.ctx.arch.str.queues
  reads : ∀ cs l, t.lane cs l = s.lane cs l
  frame : t.sansStr = s.sansStr

/-! ### Accesses to memory -/

/-- The elements of an access in its issue are aligned to u, and every page they touch translates with A and D set,
which leaves v and these pages (R13, R19, R204). -/
structure Translates (s : State) (cls : Access) (write merge : Bool) (u : Nat) (es : List Elem) (v : State)
    (pages : List (Nat × Phys)) : Prop where
  aligned : ∀ e ∈ es, e.va % u = 0
  pages : translatePages s (ctxXlat s s.cur) cls write merge (pagesOf es) [] [] = (v, pages, [])

/-- Lines of bytes that may be accessed now: free of poison when they are read, and their tiles neither drain nor run a
rule step; what is absent, but for the lines that a store covers whole, begins to fetch, which leaves w (R53, R57, R65). -/
structure Served (v : State) (read : Bool) (lines whole : List Nat) (w : State) : Prop where
  clean : read = true → ∀ l ∈ lines, l ∉ v.poison
  touched : stashTouch v v.cur lines whole = some w

/-- The byte at a translated address as the context in issue loads it (R15, R77, R109). -/
def State.seen (s : State) (p : Phys) : Byte := viewByte s s.cur (viewMem s s.cur) p

/-- The little-endian number that an element loads. -/
def State.loaded (s : State) (pages : List (Nat × Phys)) (e : Elem) : Nat :=
  leNat ((List.range e.n).map fun i => s.seen (physOf pages ((e.va + i) % 2 ^ 64)))

/-- The number that the element of lane l loads; 0 where no element has the lane. -/
def State.loadedLane (s : State) (pages : List (Nat × Phys)) (es : List Elem) (l : Nat) : Nat :=
  match es.find? fun e => e.lane == l with
  | some e => s.loaded pages e
  | none => 0

/-- The state that a load leaves but for its destination: its landing entry is held, and its bytes are noted for the
validation of the span (R68, R78). -/
def State.landing (s : State) (pages : List (Nat × Phys)) (es : List Elem) (k : BitVec 6) : State :=
  noteRead (takeLanding s k false true) (readRanges pages es)

/-- From s to t, one operation is withheld until the commit and nothing else changes (R77). -/
structure Withheld (s t : State) (op : WithheldOp) : Prop where
  withheld : t.ctx.withheld = s.ctx.withheld ++ [op]
  frame : t.setCtx { t.ctx with withheld := s.ctx.withheld } = s.setCtx s.ctx

/-- The span's withheld operations with one more write at most 64 lines (R142, R143). -/
def State.roomW (s : State) (op : WithheldOp) : Prop := (heldLines (s.ctx.withheld ++ [op])).length ≤ 64

/-! ### Accumulator tiles -/

/-- No write to accumulator tile k that was issued before this bundle is in flight (R60). -/
def State.accFree (s : State) (k : Nat) : Prop :=
  s.ctx.otherInFlight k s.now = false ∧ s.ctx.matrixInFlight k s.now = false

/-- A matrix-slot write to accumulator tile k need not wait: it joins the chain of the slot's own writes in flight, unless the
bundle is canonical (R60, R158). -/
def State.accJoins (s : State) (k : Nat) : Prop :=
  s.ctx.otherInFlight k s.now = false ∧ (s.bundle.canonical = true → s.ctx.matrixInFlight k s.now = false)

/-- The lane masks hold no poison; m0 is a constant (R65). -/
def State.soundM (s : State) (ms : List MCode) : Prop := ∀ m ∈ ms, m ≠ 0 → 5032 + m.toNat ∉ s.ctx.arch.poison

/-- None of these registers holds poison. -/
def State.sound (s : State) (rs : List Nat) : Prop := ∀ r ∈ rs, r ∉ s.ctx.arch.poison

/-- The span has room in its journal for these accumulator tiles (R143). -/
def State.roomA (s : State) (ks : List Nat) : Prop := (insertAll ks s.ctx.journalA).length ≤ 32

/-- Tile k as the next bundle reads it when nothing more is written. -/
def State.accNext (s : State) (k : Nat) : ATile := (s.ctx.arch.acc.advance (s.now + 1)).settled k

/-- The state with the accumulator tiles, their journal entries, poison and writes in flight left out. -/
def State.sansAcc (s : State) : State :=
  { s.setCtx { s.ctx with accFill := [], accMove := [], journalA := [],
                          arch := { s.ctx.arch with acc := .zero, poison := [], zeroOff := [] } } with work := [] }

/-- From s to t, each accumulator tile k of ks holds f k for the next bundle, with its journal entry, its poison ended;
writes to the tiles fills of the matrix slot and to the tiles moves are in flight, each with an event that ends it. Every
other tile, every read of the bundle and everything else stay as they are (R59, R65, R140). -/
structure WroteAcc (s t : State) (ks : List Nat) (f : Nat → ATile) (fills moves : List Nat) : Prop where
  value : ∀ k ∈ ks, t.accNext k = f k
  others : ∀ k, k ∉ ks → ∀ c, (t.ctx.arch.acc.advance c).settled k = (s.ctx.arch.acc.advance c).settled k
  reads : ∀ k, t.readAcc k = s.readAcc k
  journal : t.ctx.journalA = insertAll ks s.ctx.journalA
  poison : ∀ r, r ∈ t.ctx.arch.poison ↔ r ∈ s.ctx.arch.poison ∧ ∀ k ∈ ks, r ≠ 456 + k
  flights : t.ctx.accFill = s.ctx.accFill ++ fills.map (·, s.now) ∧ t.ctx.accMove = s.ctx.accMove ++ moves.map (·, s.now)
  ends : t.work = s.work ++ (fills ++ moves).map (.accumulatorWriteFinish s.cur ·)
  frame : t.sansAcc = s.sansAcc

end Sys2Proof.Machine
end

