-- ==== Sys2Proof/Certificates/Slice0/Obligations.lean ====
section
/-! DEFINITION. Statements for the provers. Tables name the operations of one shape with what each reads and what it
writes, in the terms of Sys2Proof/Safety.lean; a statement over a table covers every operation that the table lists. -/

namespace Sys2Proof

open Sys2Proof.Machine

/-! ### Tables of the S slot -/

/-- An operation with a scalar result: guard, destination, scalar sources, result, latency. -/
structure ScalarForm where
  guard : Guard
  sd : SCode
  srcs : List SCode
  value : Word
  lat : Nat

/-- The signed or unsigned value of a register (R169). -/
def sgInt (sg : Bool) (x : Word) : Int := if sg then x.toInt else (x.toNat : Int)

/-- The integer and immediate operations of the S slot (Tables 9-1 and 9-2, R169, R170, R172). -/
def scalarInt (s : State) : Instr → Option ScalarForm
  | .add g sd sa sb => some ⟨g, sd, [sa, sb], BitVec.ofInt 64 ((s.readS sa).toNat + (s.readS sb).toNat), 1⟩
  | .sub g sd sa sb => some ⟨g, sd, [sa, sb], BitVec.ofInt 64 ((s.readS sa).toNat - (s.readS sb).toNat), 1⟩
  | .mul g sd sa sb => some ⟨g, sd, [sa, sb], BitVec.ofInt 64 ((s.readS sa).toNat * (s.readS sb).toNat), 3⟩
  | .mulh g sg sd sa sb =>
    some ⟨g, sd, [sa, sb], BitVec.ofInt 64 ((sgInt sg (s.readS sa) * sgInt sg (s.readS sb)) >>> 64), 3⟩
  | .div g sg sd sa sb =>
    some ⟨g, sd, [sa, sb], if s.readS sb = 0 then BitVec.allOnes 64
      else if sg then (s.readS sa).sdiv (s.readS sb) else (s.readS sa).udiv (s.readS sb), 20⟩
  | .rem g sg sd sa sb =>
    some ⟨g, sd, [sa, sb], if s.readS sb = 0 then s.readS sa
      else if sg then (s.readS sa).srem (s.readS sb) else (s.readS sa).umod (s.readS sb), 20⟩
  | .and g sd sa sb => some ⟨g, sd, [sa, sb], s.readS sa &&& s.readS sb, 1⟩
  | .or g sd sa sb => some ⟨g, sd, [sa, sb], s.readS sa ||| s.readS sb, 1⟩
  | .xor g sd sa sb => some ⟨g, sd, [sa, sb], s.readS sa ^^^ s.readS sb, 1⟩
  | .andn g sd sa sb => some ⟨g, sd, [sa, sb], s.readS sa &&& ~~~s.readS sb, 1⟩
  | .shl g sd sa sb => some ⟨g, sd, [sa, sb], s.readS sa <<< ((s.readS sb).setWidth 6).toNat, 1⟩
  | .shr g sg sd sa sb =>
    some ⟨g, sd, [sa, sb], if sg then (s.readS sa).sshiftRight ((s.readS sb).setWidth 6).toNat
      else (s.readS sa).ushiftRight ((s.readS sb).setWidth 6).toNat, 1⟩
  | .min g sg sd sa sb =>
    some ⟨g, sd, [sa, sb], if sgInt sg (s.readS sb) < sgInt sg (s.readS sa) then s.readS sb else s.readS sa, 1⟩
  | .max g sg sd sa sb =>
    some ⟨g, sd, [sa, sb], if sgInt sg (s.readS sa) < sgInt sg (s.readS sb) then s.readS sb else s.readS sa, 1⟩
  | .addi g sd sa imm => some ⟨g, sd, [sa], s.readS sa + imm.signExtend 64, 1⟩
  | .andi g sd sa imm => some ⟨g, sd, [sa], s.readS sa &&& imm.signExtend 64, 1⟩
  | .ori g sd sa imm => some ⟨g, sd, [sa], s.readS sa ||| imm.signExtend 64, 1⟩
  | .xori g sd sa imm => some ⟨g, sd, [sa], s.readS sa ^^^ imm.signExtend 64, 1⟩
  | .shli g sd sa imm => some ⟨g, sd, [sa], s.readS sa <<< (imm.setWidth 6).toNat, 1⟩
  | .shri g sg sd sa imm =>
    some ⟨g, sd, [sa], if sg then (s.readS sa).sshiftRight (imm.setWidth 6).toNat
      else (s.readS sa).ushiftRight (imm.setWidth 6).toNat, 1⟩
  | .movi g sd imm => some ⟨g, sd, [], imm.signExtend 64, 1⟩
  | .movhi g sd sa imm => some ⟨g, sd, [sa], imm ++ (s.readS sa).setWidth 32, 1⟩
  | .lea g k sd sa imm => some ⟨g, sd, [sa], s.readS sa + imm.signExtend 64 * BitVec.ofNat 64 (2 ^ k.toNat), 1⟩
  | _ => none

/-- The FP32 operations of the S slot (R177): bits [63:32] of the result are zero. -/
def scalarFp (s : State) : Instr → Option ScalarForm
  | .fadd g sd sa sb => some ⟨g, sd, [sa, sb], BitVec.ofNat 64 (Fmt.fp32.rne ((s.readF sa).add (s.readF sb))), 4⟩
  | .fsub g sd sa sb => some ⟨g, sd, [sa, sb], BitVec.ofNat 64 (Fmt.fp32.rne ((s.readF sa).add (s.readF sb).neg)), 4⟩
  | .fmul g sd sa sb => some ⟨g, sd, [sa, sb], BitVec.ofNat 64 (Fmt.fp32.rne ((s.readF sa).mul (s.readF sb))), 4⟩
  | .ffma g sd sa sb sc =>
    some ⟨g, sd, [sa, sb, sc], BitVec.ofNat 64 (Fmt.fp32.rne (((s.readF sa).mul (s.readF sb)).add (s.readF sc))), 4⟩
  | .fdiv g sd sa sb =>
    some ⟨g, sd, [sa, sb], BitVec.ofNat 64 (Fmt.fp32.quotient .rn true (s.readF sa) (s.readF sb)), 14⟩
  | .fsqrt g sd sa => some ⟨g, sd, [sa], BitVec.ofNat 64 (Fmt.fp32.sqrt (s.readF sa)), 14⟩
  | .fmin g sd sa sb =>
    some ⟨g, sd, [sa, sb], BitVec.ofNat 64 (Fmt.fp32.min (s.readS sa).toNat (s.readS sb).toNat), 4⟩
  | .fmax g sd sa sb =>
    some ⟨g, sd, [sa, sb], BitVec.ofNat 64 (Fmt.fp32.max (s.readS sa).toNat (s.readS sb).toNat), 4⟩
  | _ => none

/-- An operation that writes a truth value and its complement: guard, destinations, scalar sources, truth value. -/
structure PredForm where
  guard : Guard
  pt : PCode
  pf : PCode
  srcs : List SCode
  truth : Bool

/-- An integer condition of Table 9-3 on two registers. -/
def wordCond (cc : ICond) (a b : Word) : Bool :=
  match cc with
  | .eq => a == b
  | .ne => a != b
  | .ltS => a.slt b
  | .leS => a.sle b
  | .gtS => b.slt a
  | .geS => b.sle a
  | .ltZ => a.ult b
  | .leZ => a.ule b
  | .gtZ => b.ult a
  | .geZ => b.ule a

/-- The compares of the S slot (R174). -/
def predForm (s : State) : Instr → Option PredForm
  | .cmp g cc pt pf sa sb => some ⟨g, pt, pf, [sa, sb], wordCond cc (s.readS sa) (s.readS sb)⟩
  | .cmpi g cc pt pf sa imm => some ⟨g, pt, pf, [sa], wordCond cc (s.readS sa) (imm.signExtend 64)⟩
  | .fcmp g fc pt pf sa sb => some ⟨g, pt, pf, [sa, sb], fcondHolds fc (s.readF sa) (s.readF sb)⟩
  | _ => none

end Sys2Proof

open Sys2Proof Sys2Proof.Machine

/-! ### The S slot -/

/-- Every integer and immediate operation of the S slot completes with the result and latency of Tables 9-1 and 9-2,
in every state where its guard holds and its sources hold no poison; all else is as it was (R122, R130, R169, R170,
R172). Every FP32 operation of the S slot completes with its result, rounded once, and its latency (R177); fcvt
completes for each of its eight types, with .s32 results sign-extended and every other zero-extended, and a reserved
TYPE is an Illegal Operation with REASON 0x0E (R178; the reading of a reserved TYPE is the model's, log 32). -/
def Obligations.ScalarResults : Prop :=
  (∀ (i : Instr) (s : State) (f : ScalarForm), scalarInt s i = some f → s.guardOn f.guard = true → s.soundS f.srcs →
     ∃ t, exec i s = .next t ∧ WroteS s t f.sd f.value (s.due f.lat)) ∧
  ((∀ (i : Instr) (s : State) (f : ScalarForm), scalarFp s i = some f → s.guardOn f.guard = true → s.soundS f.srcs →
     ∃ t, exec i s = .next t ∧ WroteS s t f.sd f.value (s.due f.lat)) ∧
   (∀ (g : Guard) (ty : BitVec 4) (e : Ty) (rm : Rm) (inf : Bool) (sd sa : SCode) (s : State),
     Ty.ofCode ty.toNat = some e → fcvtTypeOk e = true → s.guardOn g = true → s.soundS [sa] →
     (∃ t, exec (.fcvt g ty true rm inf sd sa) s = .next t ∧
       WroteS s t sd (BitVec.ofNat 64 (Fmt.fp32.ofValue rm true (valueOf e (s.readS sa).toNat))) (s.due 4)) ∧
     (∃ t, exec (.fcvt g ty false rm inf sd sa) s = .next t ∧
       WroteS s t sd (if e = .s32 then ((BitVec.ofNat 32 (cvt e rm inf (s.readF sa))).signExtend 64)
         else BitVec.ofNat 64 (cvt e rm inf (s.readF sa))) (s.due 4))) ∧
   (∀ (g : Guard) (ty : BitVec 4) (d : Bool) (rm : Rm) (inf : Bool) (sd sa : SCode) (s : State),
     Ty.ofCode ty.toNat = none → exec (.fcvt g ty d rm inf sd sa) s = illegal s 0 0x0E))

/-- Every compare completes and writes the condition's truth and its complement with L = 1 (R174). -/
def Obligations.CompareResults : Prop :=
  ∀ (i : Instr) (s : State) (f : PredForm), predForm s i = some f → s.guardOn f.guard = true → s.soundS f.srcs →
    ∃ t, exec i s = .next t ∧ WroteP s t f.pt f.pf f.truth (s.due 1)

/-- plog writes t = tt[2·p[pa] + p[pb]] to pt and NOT t to pf, each with L = 1, where tt[k] is bit 20 + k of the
operation, and p0 reads true; with the aliases of Table 9-4 (R175). -/
def Obligations.PlogTruth : Prop :=
  (∀ (g : Guard) (pt pf pa pb : PCode) (tt : BitVec 4) (s : State), s.guardOn g = true →
    ∃ t, exec (.plog g pt pf pa pb tt) s = .next t ∧
      WroteP s t pt pf (tt.getLsbD (2 * (s.readP pa).toNat + (s.readP pb).toNat)) (s.due 1)) ∧
  (∀ (w : Nat) (i : Instr), decodeSlot .s w = .ok i → w / 2 ^ 56 % 256 = 0x23 →
    ∃ g pt pf pa pb tt, i = .plog g pt pf pa pb tt ∧ ∀ k, k < 4 → tt.getLsbD k = w.testBit (20 + k)) ∧
  (∀ s : State, s.readP 0 = true) ∧
  (∀ a b : Bool, let at2 := fun (tt : BitVec 4) (b : Bool) => tt.getLsbD (2 * a.toNat + b.toNat)
    at2 0b1000 b = (a && b) ∧ at2 0b1110 b = (a || b) ∧ at2 0b0110 b = (a ^^ b) ∧ at2 0b0100 b = (a && !b) ∧
      at2 0b0011 true = !a)

namespace Sys2Proof

/-! ### Tables of the V slots -/

/-- A lanewise operation: guard, lane type, vector sources, scalar sources, destination, mask, lane results (taken
modulo the lane's width), latency. -/
structure LaneForm where
  guard : Guard
  ty : Ty
  srcs : List VCode
  ssrcs : List SCode
  vd : VCode
  m : MCode
  value : Nat → Nat
  lat : Nat

/-- An exact lane result as Table 10-1 narrows it: clamped to the type's range under SAT, else wrapped. -/
def laneResult (ty : Ty) (sat : Bool) (x : Int) : Nat :=
  ((if sat then max (tyMin ty) (min (tyMax ty) x) else x) % 2 ^ ty.bits).toNat

/-- A lane as a bit vector of the type's width. -/
def laneVec (s : State) (c : VCode) (ty : Ty) (l : Nat) : BitVec ty.bits := BitVec.ofNat ty.bits (s.laneBits c ty l)

/-- A lane shifted right: sign bits enter for signed types, zeros otherwise. -/
def shiftRight (ty : Ty) (a : BitVec ty.bits) (k : Nat) : Nat :=
  (if ty.isSigned then a.sshiftRight k else a.ushiftRight k).toNat

/-- The 64-bit count of a W form: s[sa] + sext(imm, 16) (R191, R198). -/
def countOf (s : State) (sa : SCode) (imm : BitVec 16) : Nat := (s.readS sa + imm.signExtend 64).toNat

/-- The integer forms of the V slots (Table 10-1, R191). -/
def laneInteger (s : State) : Instr → Option LaneForm
  | .vadd g _ ty sat vd va vb m =>
    some ⟨g, ty, [va, vb], [], vd, m, fun l => laneResult ty sat (s.laneInt va ty l + s.laneInt vb ty l), 2⟩
  | .vsub g _ ty sat vd va vb m =>
    some ⟨g, ty, [va, vb], [], vd, m, fun l => laneResult ty sat (s.laneInt va ty l - s.laneInt vb ty l), 2⟩
  | .vmul g _ ty sat vd va vb m =>
    some ⟨g, ty, [va, vb], [], vd, m, fun l => laneResult ty sat (s.laneInt va ty l * s.laneInt vb ty l), 2⟩
  | .vmulh g _ ty vd va vb m =>
    some ⟨g, ty, [va, vb], [], vd, m,
      fun l => laneResult ty false ((s.laneInt va ty l * s.laneInt vb ty l) >>> ty.bits), 2⟩
  | .vmin g _ ty vd va vb m =>
    some ⟨g, ty, [va, vb], [], vd, m, fun l => laneResult ty false (min (s.laneInt va ty l) (s.laneInt vb ty l)), 2⟩
  | .vmax g _ ty vd va vb m =>
    some ⟨g, ty, [va, vb], [], vd, m, fun l => laneResult ty false (max (s.laneInt va ty l) (s.laneInt vb ty l)), 2⟩
  | .vabs g _ ty sat vd va m =>
    some ⟨g, ty, [va], [], vd, m, fun l => laneResult ty sat (max (s.laneInt va ty l) (-s.laneInt va ty l)), 2⟩
  | .vneg g _ ty sat vd va m =>
    some ⟨g, ty, [va], [], vd, m, fun l => laneResult ty sat (0 - s.laneInt va ty l), 2⟩
  | .vand g _ ty vd va vb m =>
    some ⟨g, ty, [va, vb], [], vd, m, fun l => (laneVec s va ty l &&& laneVec s vb ty l).toNat, 2⟩
  | .vor g _ ty vd va vb m =>
    some ⟨g, ty, [va, vb], [], vd, m, fun l => (laneVec s va ty l ||| laneVec s vb ty l).toNat, 2⟩
  | .vxor g _ ty vd va vb m =>
    some ⟨g, ty, [va, vb], [], vd, m, fun l => (laneVec s va ty l ^^^ laneVec s vb ty l).toNat, 2⟩
  | .vandn g _ ty vd va vb m =>
    some ⟨g, ty, [va, vb], [], vd, m, fun l => (laneVec s va ty l &&& ~~~laneVec s vb ty l).toNat, 2⟩
  | .vshl g _ ty vd va vb m =>
    some ⟨g, ty, [va, vb], [], vd, m, fun l => (laneVec s va ty l <<< (s.laneBits vb ty l % ty.bits)).toNat, 2⟩
  | .vshr g _ ty vd va vb m =>
    some ⟨g, ty, [va, vb], [], vd, m, fun l => shiftRight ty (laneVec s va ty l) (s.laneBits vb ty l % ty.bits), 2⟩
  | .vaddi g _ ty sat vd va m imm =>
    some ⟨g, ty, [va], [], vd, m,
      fun l => laneResult ty sat (s.laneInt va ty l + intOf ty (imm.toInt % 2 ^ ty.bits).toNat), 2⟩
  | .vandi g _ ty vd va m imm =>
    some ⟨g, ty, [va], [], vd, m, fun l => (laneVec s va ty l &&& BitVec.ofInt ty.bits imm.toInt).toNat, 2⟩
  | .vshli g _ ty vd va m sa imm =>
    some ⟨g, ty, [va], [sa], vd, m, fun l => (laneVec s va ty l <<< (countOf s sa imm % ty.bits)).toNat, 2⟩
  | .vshri g _ ty vd va m sa imm =>
    some ⟨g, ty, [va], [sa], vd, m, fun l => shiftRight ty (laneVec s va ty l) (countOf s sa imm % ty.bits), 2⟩
  | .vmovi g _ ty vd m imm => some ⟨g, ty, [], [], vd, m, fun _ => (imm.toInt % 2 ^ ty.bits).toNat, 2⟩
  | _ => none

/-- A non-NaN lane with its sign bit changed by f; a NaN lane becomes the canonical NaN (R28, R193). -/
def resigned (ty : Ty) (f : Bool → Bool) (x : Nat) : Nat :=
  if ((vecFmt ty).value x).isNan then (vecFmt ty).qnan
  else x % 2 ^ (ty.bits - 1) + (if f (x.testBit (ty.bits - 1)) then 2 ^ (ty.bits - 1) else 0)

/-- The floating-point forms of the V slots (Table 10-2, R193), for the types that they admit. -/
def laneFloat (s : State) : Instr → Option LaneForm
  | .vfadd g _ ty vd va vb m =>
    some ⟨g, ty, [va, vb], [], vd, m, fun l => (vecFmt ty).rne ((s.laneF va ty l).add (s.laneF vb ty l)), 4⟩
  | .vfsub g _ ty vd va vb m =>
    some ⟨g, ty, [va, vb], [], vd, m, fun l => (vecFmt ty).rne ((s.laneF va ty l).add (s.laneF vb ty l).neg), 4⟩
  | .vfmul g _ ty vd va vb m =>
    some ⟨g, ty, [va, vb], [], vd, m, fun l => (vecFmt ty).rne ((s.laneF va ty l).mul (s.laneF vb ty l)), 4⟩
  | .vffma g _ ty vd va vb vc m =>
    some ⟨g, ty, [va, vb, vc], [], vd, m,
      fun l => (vecFmt ty).rne (((s.laneF va ty l).mul (s.laneF vb ty l)).add (s.laneF vc ty l)), 4⟩
  | .vfnma g _ ty vd va vb vc m =>
    some ⟨g, ty, [va, vb, vc], [], vd, m,
      fun l => (vecFmt ty).rne (((s.laneF va ty l).neg.mul (s.laneF vb ty l)).add (s.laneF vc ty l)), 4⟩
  | .vfdiv g _ ty vd va vb m =>
    some ⟨g, ty, [va, vb], [], vd, m,
      fun l => (vecFmt ty).quotient .rn true (s.laneF va ty l) (s.laneF vb ty l), 14⟩
  | .vfsqrt g _ ty vd va m => some ⟨g, ty, [va], [], vd, m, fun l => (vecFmt ty).sqrt (s.laneF va ty l), 14⟩
  | .vfmin g _ ty vd va vb m =>
    some ⟨g, ty, [va, vb], [], vd, m, fun l => (vecFmt ty).min (s.laneBits va ty l) (s.laneBits vb ty l), 4⟩
  | .vfmax g _ ty vd va vb m =>
    some ⟨g, ty, [va, vb], [], vd, m, fun l => (vecFmt ty).max (s.laneBits va ty l) (s.laneBits vb ty l), 4⟩
  | .vfabs g _ ty vd va m =>
    some ⟨g, ty, [va], [], vd, m, fun l => resigned ty (fun _ => false) (s.laneBits va ty l), 4⟩
  | .vfneg g _ ty vd va m => some ⟨g, ty, [va], [], vd, m, fun l => resigned ty not (s.laneBits va ty l), 4⟩
  | _ => none

/-- The permutes under a write mask (Table 10-3, R198): lane i of the result. -/
def lanePermute (s : State) : Instr → Option LaneForm
  | .vperm g _ ty zero vd va vb m =>
    some ⟨g, ty, [va, vb], [], vd, m,
      fun i => if zero && ty.lanes ≤ s.laneBits vb ty i then 0 else s.laneBits va ty (s.laneBits vb ty i % ty.lanes), 3⟩
  | .vrot g _ ty vd va m sa imm =>
    some ⟨g, ty, [va], [sa], vd, m,
      fun i => s.laneBits va ty (((i : Int) - countOf s sa imm) % ty.lanes).toNat, 3⟩
  | .vbcl g _ ty vd va m sa imm =>
    some ⟨g, ty, [va], [sa], vd, m, fun _ => s.laneBits va ty (countOf s sa imm % ty.lanes), 3⟩
  | .vzip g _ ty hi vd va vb m =>
    some ⟨g, ty, [va, vb], [], vd, m,
      fun i => s.laneBits (if i % 2 = 0 then va else vb) ty ((if hi then ty.lanes / 2 else 0) + i / 2), 3⟩
  | .vuzp g _ ty odd vd va vb m =>
    some ⟨g, ty, [va, vb], [], vd, m,
      fun i => let e := 2 * i + (if odd then 1 else 0)
               s.laneBits (if e < ty.lanes then va else vb) ty (e % ty.lanes), 3⟩
  | .vslide g _ ty down vd va m sa imm =>
    some ⟨g, ty, [va], [sa], vd, m,
      fun i => let j : Int := if down then i + countOf s sa imm else i - countOf s sa imm
               if 0 ≤ j ∧ j < ty.lanes then s.laneBits va ty j.toNat else 0, 3⟩
  | _ => none

/-- Number of active lanes below lane i. -/
def activeBelow (k : Word) (ty : Ty) (i : Nat) : Nat := ((List.range i).filter fun l => activeIn k l ty).length

/-- A reduction: guard, type, source, mask, destination, combination, identity (R199). -/
structure ReduceForm where
  guard : Guard
  ty : Ty
  va : VCode
  m : MCode
  vd : VCode
  op : Nat → Nat → Nat
  unit : Nat

/-- The reductions (R199). -/
def reduction : Instr → Option ReduceForm
  | .vsum g _ ty sat vd va m => some ⟨g, ty, va, m, vd, fun a b => laneResult ty sat (intOf ty a + intOf ty b), 0⟩
  | .vrmax g _ ty vd va m =>
    some ⟨g, ty, va, m, vd, fun a b => if intOf ty b < intOf ty a then a else b, (tyMin ty % 2 ^ ty.bits).toNat⟩
  | .vrmin g _ ty vd va m =>
    some ⟨g, ty, va, m, vd, fun a b => if intOf ty b < intOf ty a then b else a, (tyMax ty % 2 ^ ty.bits).toNat⟩
  | .vfsum g _ ty vd va m => some ⟨g, ty, va, m, vd, (vecFmt ty).sum, 0⟩
  | .vfrmax g _ ty vd va m => some ⟨g, ty, va, m, vd, (vecFmt ty).max, 2 ^ (ty.bits - 1) + (vecFmt ty).infinity⟩
  | .vfrmin g _ ty vd va m => some ⟨g, ty, va, m, vd, (vecFmt ty).min, (vecFmt ty).infinity⟩
  | _ => none

/-- A conversion: guard, destination type, number of elements, the destination lane of each, sources, destination,
mask, element results. -/
structure PartForm where
  guard : Guard
  dt : Ty
  n : Nat
  lane : Nat → Nat
  srcs : List VCode
  vd : VCode
  m : MCode
  value : Nat → Nat

/-- vcvt and vcvts (R194, R195): element i of n, and the lane of the wider operand that the part gives it. -/
def conversion (s : State) : Instr → Option PartForm
  | .vcvt g _ dt st part inf rm vd va m =>
    let n := min st.lanes dt.lanes
    some ⟨g, dt, n, fun i => if st.lanes < dt.lanes then part.toNat * n + i else i, [va], vd, m,
      fun i => let x := s.laneBits va st (if dt.lanes < st.lanes then part.toNat * n + i else i)
               if st.isFloat || dt.isFloat then cvt dt rm inf (valueOf st x) else laneResult dt true (intOf st x)⟩
  | .vcvts g _ dt part inf rm vd va vb m =>
    some ⟨g, dt, 64, fun i => if 64 < dt.lanes then part.toNat * 64 + i else i, [va, vb], vd, m,
      fun i => cvtScaled dt rm inf (s.laneF va .f32 i) (s.laneF vb .f32 i)⟩
  | _ => none

/-- A lane compare: guard, lane width's type, whether the destination is a vector, destination, sources, mask, the
condition on each lane. -/
structure CompareForm where
  guard : Guard
  ty : Ty
  vec : Bool
  vd : VCode
  srcs : List VCode
  m : MCode
  holds : Nat → Bool

/-- An integer condition on two lanes of w bits (R174, R200). -/
def vecCond (cc : ICond) {w : Nat} (a b : BitVec w) : Bool :=
  match cc with
  | .eq => a == b
  | .ne => a != b
  | .ltS => a.slt b
  | .leS => a.sle b
  | .gtS => b.slt a
  | .geS => b.sle a
  | .ltZ => a.ult b
  | .leZ => a.ule b
  | .gtZ => b.ult a
  | .geZ => b.ule a

/-- vcmp and vfcmp (R200). -/
def laneCompare (s : State) : Instr → Option CompareForm
  | .vcmp g _ cc ty vec vd va vb m =>
    some ⟨g, ty, vec, vd, [va, vb], m, fun l => vecCond cc (laneVec s va ty l) (laneVec s vb ty l)⟩
  | .vfcmp g _ fc ty vec vd va vb m =>
    some ⟨g, ty, vec, vd, [va, vb], m, fun l => fcondHolds fc (s.laneF va ty l) (s.laneF vb ty l)⟩
  | _ => none

end Sys2Proof

/-! ### The V slots -/

/-- Every integer form of the V slots completes: each lane takes Table 10-1's result where the mask is active and
keeps its value elsewhere, with L = 2; all else is as it was (R188, R191). Every lanewise floating-point form
completes with Table 10-2's lanes, each rounded once, and its latency (R188, R193). Every permute under a write mask
completes with Table 10-3's lanes and L = 3 (R188, R198). -/
def Obligations.LaneResults : Prop :=
  (∀ (i : Instr) (s : State) (f : LaneForm), laneInteger s i = some f → i.codeOk = true → s.guardOn f.guard = true →
     s.soundV f.srcs → s.soundS f.ssrcs → s.roomFor f.vd →
     ∃ t, exec i s = .next t ∧ WroteLanes s t f.ty f.m f.vd f.value (s.due f.lat)) ∧
  ((∀ (i : Instr) (s : State) (f : LaneForm), laneFloat s i = some f → i.codeOk = true → s.guardOn f.guard = true →
      s.soundV f.srcs → s.roomFor f.vd →
      ∃ t, exec i s = .next t ∧ WroteLanes s t f.ty f.m f.vd f.value (s.due f.lat)) ∧
   (∀ (i : Instr) (s : State) (f : LaneForm), lanePermute s i = some f → i.codeOk = true → s.guardOn f.guard = true →
      s.soundV f.srcs → s.soundS f.ssrcs → s.roomFor f.vd →
      ∃ t, exec i s = .next t ∧ WroteLanes s t f.ty f.m f.vd f.value (s.due f.lat)))

/-- vsel, vcomp and vexpd complete and write every lane: vsel lane by lane from va where the mask is active and from
vb elsewhere (R191); vcomp the active lanes of va in order from lane 0 on, then zeros; vexpd to each active lane the
lane of va whose number is the count of active lanes below it, and zero elsewhere (R198). Every reduction completes:
the root of the fixed tree of R42 over the active lanes, or the identity when no lane is active, goes to lane 0 of vd
and zero to every other lane, with L = 6; a NaN root is canonical (R28, R199). -/
def Obligations.SelectAndReduceResults : Prop :=
  (∀ (g : Guard) (v1 : Bool) (ty : Ty) (vd va vb : VCode) (m : MCode) (s : State), s.guardOn g = true → s.roomFor vd →
     (s.soundV [va, vb] → ∃ t, exec (.vsel g v1 ty vd va vb m) s = .next t ∧
       WroteAll s t ty vd (fun l => s.laneBits (if activeIn (s.readM m) l ty then va else vb) ty l) (s.due 2)) ∧
     (s.soundV [va] → ∃ t x, exec (.vcomp g v1 ty vd va m) s = .next t ∧ WroteV s t vd true x (s.due 3) ∧
       (∀ l, l < ty.lanes → activeIn (s.readM m) l ty = true →
         lane x ty (activeBelow (s.readM m) ty l) = s.laneBits va ty l) ∧
       (∀ i, activeBelow (s.readM m) ty ty.lanes ≤ i → i < ty.lanes → lane x ty i = 0)) ∧
     (s.soundV [va] → ∃ t, exec (.vexpd g v1 ty vd va m) s = .next t ∧
       WroteAll s t ty vd (fun i => if activeIn (s.readM m) i ty then s.laneBits va ty (activeBelow (s.readM m) ty i)
         else 0) (s.due 3))) ∧
  (∀ (i : Instr) (s : State) (f : ReduceForm), reduction i = some f → i.codeOk = true → s.guardOn f.guard = true →
     s.soundV [f.va] → s.roomFor f.vd →
     ∃ t, exec i s = .next t ∧ WroteAll s t f.ty f.vd
       (fun l => if l = 0 then canonNan f.ty ((tree f.op ((List.range f.ty.lanes).map fun l =>
         if activeIn (s.readM f.m) l f.ty then some (s.laneBits f.va f.ty l) else none)).getD f.unit) else 0) (s.due 6))

/-- vcvt and vcvts complete: each of the n elements goes to the lane that the part gives it, where the mask is active,
and every other lane keeps its value, with L = 4 (R188, R194, R195). vsbpk encodes lanes 16g to 16g + 15 of va into
block g of the part's 4·B bytes, and every other byte keeps its value; vsbun decodes the same blocks, element j of
block g to lane 16g + j; L = 4 (R31, R33, R196). -/
def Obligations.ConversionResults : Prop :=
  (∀ (i : Instr) (s : State) (f : PartForm), conversion s i = some f → i.WellFormed → s.guardOn f.guard = true →
     s.soundV f.srcs → s.roomFor f.vd →
     ∃ t x, exec i s = .next t ∧ WroteV s t f.vd (s.readM f.m == BitVec.allOnes 64) x (s.due 4) ∧
       (∀ e, e < f.n → f.lane e < f.dt.lanes ∧ lane x f.dt (f.lane e) =
         if activeIn (s.readM f.m) (f.lane e) f.dt then f.value e % 2 ^ f.dt.bits else lane (s.keptV f.vd) f.dt (f.lane e)) ∧
       (∀ l, l < f.dt.lanes → (∀ e, e < f.n → f.lane e ≠ l) → lane x f.dt l = lane (s.keptV f.vd) f.dt l)) ∧
  (∀ (g : Guard) (v1 : Bool) (f : BitVec 2) (part : BitVec 3) (inf : Bool) (rm : Rm) (vd va : VCode) (m : MCode) (s : State),
     s.guardOn g = true → s.soundV [va] → s.roomFor vd → (part.toNat + 1) * 4 * sbBytes (sbMag f) ≤ 256 →
     let at8 := fun (k : Nat) => part.toNat * 4 * sbBytes (sbMag f) + k * sbBytes (sbMag f)
     (∃ t x, exec (.vsbpk g v1 f part inf rm vd va m) s = .next t ∧ WroteV s t vd false x (s.due 4) ∧
       (∀ k, k < 4 → bitsOf x.toNat (8 * at8 k) (8 * sbBytes (sbMag f)) =
         sbEncode (sbMag f) rm inf ((List.range 16).map fun j => s.laneF va .f32 (16 * k + j))
           % 2 ^ (8 * sbBytes (sbMag f))) ∧
       (∀ b, b < 256 → (b < at8 0 ∨ at8 4 ≤ b) → byteOf x b = byteOf (s.keptV vd) b)) ∧
     (∃ t, exec (.vsbun g v1 f part inf rm vd va m) s = .next t ∧
       WroteLanes s t .f32 m vd (fun l => Fmt.fp32.rne (sbDecode (sbMag f)
         (bitsOf (s.readV va).toNat (8 * at8 (l / 16)) (8 * sbBytes (sbMag f))) (l % 16))) (s.due 4)))

/-- The pattern of −∞ in the types of vtmask (R202). -/
def Sys2Proof.minusInfinity (ty : Ty) : Nat :=
  match ty with
  | .f32 => 0xFF800000
  | .bf16 => 0xFF80
  | _ => 0xFC00

/-- vcmp and vfcmp complete: into a lane mask, bit l takes the result of each active lane l and every other bit keeps
its value; into a vector, each active lane becomes all ones or all zeros; mlog sets bit j of its mask to tt[2·a[j] +
b[j]]; L = 2 (R174, R188, R200). vtmask completes: each active lane l takes lane l of va where bit KB·n + l of vb is
set, and otherwise +0 under FILL, else −∞; L = 2 (R188, R202). -/
def Obligations.LaneCompareResults : Prop :=
  ((∀ (i : Instr) (s : State) (f : CompareForm), laneCompare s i = some f → i.codeOk = true → s.guardOn f.guard = true →
     s.soundV f.srcs →
     (f.vec = false → ∃ t x, exec i s = .next t ∧ WroteM s t (f.vd.setWidth 3) (s.readM f.m) x (s.due 2) ∧
       ∀ l, l < 64 → x.getLsbD l = f.holds l) ∧
     (f.vec = true → s.roomFor f.vd → ∃ t, exec i s = .next t ∧
       WroteLanes s t f.ty f.m f.vd (fun l => if f.holds l then 2 ^ f.ty.bits - 1 else 0) (s.due 2))) ∧
   (∀ (g : Guard) (v1 : Bool) (md ma mb : MCode) (tt : BitVec 4) (s : State), s.guardOn g = true →
     ∃ t x, exec (.mlog g v1 md ma mb tt) s = .next t ∧ WroteM s t md (BitVec.allOnes 64) x (s.due 2) ∧
       ∀ j, j < 64 → x.getLsbD j = tt.getLsbD (2 * ((s.readM ma).getLsbD j).toNat + ((s.readM mb).getLsbD j).toNat))) ∧
  (∀ (g : Guard) (v1 : Bool) (ty : Ty) (fill : Bool) (kb : BitVec 5) (vd va vb : VCode) (m : MCode) (s : State),
     ty.isVecFloat = true → s.guardOn g = true → s.soundV [va, vb] → s.roomFor vd →
     ∃ t, exec (.vtmask g v1 ty fill kb vd va vb m) s = .next t ∧
       WroteLanes s t ty m vd (fun l => if (s.readV vb).getLsbD (kb.toNat * ty.lanes + l) then s.laneBits va ty l
         else if fill then 0 else minusInfinity ty) (s.due 2))

/-- psqz completes: Y is X when K = 0 and otherwise X / 2^K to the nearest integer, halves up, clamped between PMIN and
32,768 − PMIN; with K = 4 and PMIN = 32 the inputs 1,000, −24 and 600,000 give 63, 32 and 32,736 (R241). -/
def Obligations.SqueezeResults : Prop :=
  (∀ (g : Guard) (v1 : Bool) (ty : Ty) (k : BitVec 4) (pmin : BitVec 16) (vd va : VCode) (m : MCode) (s : State),
    (Instr.psqz g v1 ty k pmin vd va m).WellFormed → s.guardOn g = true → s.soundV [va] → s.roomFor vd →
    ∃ t, exec (.psqz g v1 ty k pmin vd va m) s = .next t ∧
      WroteLanes s t .z32 m vd (fun l =>
        let x := s.laneInt va ty l
        let y : Int := if k = 0 then x else (x + 2 ^ (k.toNat - 1)) / 2 ^ k.toNat
        (max (pmin.toNat : Int) (min (32768 - pmin.toNat) y)).toNat) (s.due 3)) ∧
  squeeze 4 32 1000 = 63 ∧ squeeze 4 32 (-24) = 32 ∧ squeeze 4 32 600000 = 32736

/-- plut looks up lane l's entry in one of eight tables of sixteen 16-bit entries, table t entry e at bytes 32t + 2e and
32t + 2e + 1 of vb, t and e being bits [6:4] and [3:0] of lane l of va; the entry goes to lane l, zero-extended; vc, type
and mod are zero (R242). -/
def Obligations.LookupResults : Prop :=
  (∀ (g : Guard) (v1 : Bool) (vd va vb : VCode) (m : MCode) (s : State),
    s.guardOn g = true → s.soundV [va, vb] → s.roomFor vd →
    ∃ t, exec (.plut g v1 vd va vb m) s = .next t ∧
      WroteLanes s t .z32 m vd (fun l =>
        let b := 32 * (s.laneBits va .z32 l / 16 % 8) + 2 * (s.laneBits va .z32 l % 16)
        (byteOf (s.readV vb) b).toNat + 256 * (byteOf (s.readV vb) (b + 1)).toNat) (s.due 3)) ∧
  (∀ (g : Guard) (v1 : Bool) (vd va vb : VCode) (m : MCode) (sl : Slot) (w : Nat),
    encode (.plut g v1 vd va vb m) = some (sl, w) →
    (sl = .v0 ∨ sl = .v1) ∧ fld w 56 8 = 0x69 ∧ fld w 15 9 = 0 ∧ fld w 8 4 = 0 ∧ fld w 0 8 = 0)

/-- pmix mixes two probabilities by a weight: with A and B the .z32 lanes of va and vb and W = min(lane of vc, 65,536),
each lane receives floor((A·W + B·(65,536 − W) + 32,768) / 65,536); type and mod are zero, and the result lies between A
and B (R243). -/
def Obligations.MixResults : Prop :=
  (∀ (g : Guard) (v1 : Bool) (vd va vb vc : VCode) (m : MCode) (s : State),
    s.guardOn g = true → s.soundV [va, vb, vc] → s.roomFor vd →
    ∃ t, exec (.pmix g v1 vd va vb vc m) s = .next t ∧
      WroteLanes s t .z32 m vd (fun l => mixLane (s.laneBits va .z32 l) (s.laneBits vb .z32 l) (s.laneBits vc .z32 l))
        (s.due 3)) ∧
  (∀ a b c : Nat, let w := min c 65536
    mixLane a b c = (a * w + b * (65536 - w) + 32768) / 65536 ∧ min a b ≤ mixLane a b c ∧ mixLane a b c ≤ max a b) ∧
  (∀ (g : Guard) (v1 : Bool) (vd va vb vc : VCode) (m : MCode) (sl : Slot) (w : Nat),
    encode (.pmix g v1 vd va vb vc m) = some (sl, w) →
    (sl = .v0 ∨ sl = .v1) ∧ fld w 56 8 = 0x6A ∧ fld w 8 4 = 0 ∧ fld w 0 8 = 0)

namespace Sys2Proof

/-! ### Special registers and control -/

/-- What rdsp returns (R123, R184 to R187, Tables 7-1 to 7-6, 9-8 to 9-10, 15-2, 15-3). -/
def specialValue (s : State) (r : SpReg) : Word :=
  let c := s.ctx
  let own := fun (x : Word) => if c.handler then x else 0
  match r with
  | .sys .feature => 0x0104
  | .sys .arith => 1
  | .sys .cycle => BitVec.ofNat 64 (s.wall + c.skew)
  | .sys .rank => BitVec.ofNat 64 c.rank
  | .sys .skew => BitVec.ofNat 64 c.skew
  | .sys .task => BitVec.ofNat 64 c.task
  | .sys .part => BitVec.ofNat 64 (c.prio * 256 + c.part)
  | .sys (.level k) =>
    match c.levels[k.toNat]? with
    | some p => BitVec.ofNat 64 (p.1 % 2 ^ 32 * 2 ^ 32 + p.2 % 2 ^ 32)
    | none => 0
  | .sys .ctx =>
    if c.handler then BitVec.ofNat 64 (posWord s.cur c.gang) else if c.gang then 0x2000 else 0
  | .sys .cause => own c.cause
  | .sys .epc => own c.arch.epc
  | .sys .fault => own c.fault
  | .sys .ttb => c.arch.ttb
  | .sys .asid => c.arch.asid.setWidth 64
  | .sys .awin => BitVec.ofNat 64 (c.awinCount * 65536 + c.awinBase)
  | .sys .swin => BitVec.ofNat 64 (c.swinCount * 65536 + c.swinBase)
  | .sys .tlh => BitVec.ofNat 64 (handleOf s c.slot)
  | .sys .phase => BitVec.ofNat 64 ((if c.phased then 2 ^ 63 else 0) + c.wstiles * 2 ^ 40 + c.phase % 2 ^ 32)
  | .sched n => amGet 0 (s.launchOf c.launch).sched n.toNat
  | .shadow code w => amGet 0 c.arch.shadow (8 * code.toNat + w.toNat)
  | .mp n => amGet 0 c.arch.mp n.toNat
  | .mask n => s.readM n

/-- A control operation that is taken or counts: guard, scalar sources, the link or counter that it writes, where it
goes (none: it falls through), whether its target is aligned. -/
structure ControlForm where
  guard : Guard
  srcs : List SCode
  write : Option (SCode × Word)
  target : Option Word
  aligned : Bool

/-- Address of the bundle n bundles after the one in issue. -/
def bundleAfter (s : State) (n : BitVec 25) : Word := s.bundle.addr + 64 * n.signExtend 64

/-- The control operations of the S slot (R179); the link is the address of the first bundle after the delay bundles. -/
def controlForm (s : State) : Instr → Option ControlForm
  | .br g off => some ⟨g, [], none, some (bundleAfter s off), true⟩
  | .call g sd off => some ⟨g, [], some (sd, bundleAfter s 3), some (bundleAfter s off), true⟩
  | .jmp g sa => some ⟨g, [sa], none, some (s.readS sa), (s.readS sa).toNat % 64 == 0⟩
  | .calli g sd sa => some ⟨g, [sa], some (sd, bundleAfter s 3), some (s.readS sa), (s.readS sa).toNat % 64 == 0⟩
  | .ret g sa => some ⟨g, [sa], none, some (s.readS sa), (s.readS sa).toNat % 64 == 0⟩
  | .loop g sd off =>
    some ⟨g, [sd], some (sd, s.readS sd - 1), if s.readS sd = 1 then none else some (bundleAfter s off), true⟩
  | _ => none

/-- What a control operation writes before its transfer: a scalar register with L = 1 (R182), or nothing. -/
def Linked (s u : State) (w : Option (SCode × Word)) : Prop :=
  match w with
  | none => u = s
  | some (sd, x) => WroteS s u sd x (s.due 1)

end Sys2Proof

/-! ### Special registers and control -/

/-- The machine reports feature level 4 and latency level 1 in sr.feature, and arithmetic level 1 in sr.arith (R2). -/
def Obligations.FeatureLevels : Prop :=
  ∀ (g : Guard) (sd : SCode) (s : State), s.guardOn g = true → sd ≠ 0 →
    (∃ t, exec (.rdsp g sd (.sys .feature)) s = .next t ∧
      (t.scalarAt sd (s.due 1)).toNat % 256 = 4 ∧ (t.scalarAt sd (s.due 1)).toNat / 256 % 256 = 1) ∧
    (∃ t, exec (.rdsp g sd (.sys .arith)) s = .next t ∧ t.scalarAt sd (s.due 1) = 1)

/-- rdsp completes for every register that Table 9-7 names and writes it with L = 1 (R123, R184 to R187). -/
def Obligations.SpecialReads : Prop :=
  ∀ (g : Guard) (sd : SCode) (r : SpReg) (s : State), s.guardOn g = true →
    ∃ t, exec (.rdsp g sd r) s = .next t ∧ WroteS s t sd (specialValue s r) (s.due 1)

/-- wrsp: a system register with an RW field changes, from handler code only, in its RW fields when the write takes
effect; every other wrsp of a system register is a Privileged Operation, whatever its guard; a schedule register takes
the value at the commit; a shape shadow word and a matrix parameter take it from the next bundle on, where a matrix
parameter of more than 27 bits is an Illegal Operation with REASON 0x0E; a lane mask takes it with L = 1, m0 none
(R184 to R187, R223). -/
def Obligations.SpecialWrites : Prop :=
  ∀ (g : Guard) (ss : SCode) (s : State),
    (∀ r, (s.ctx.handler = false ∨ (r ≠ .epc ∧ r ≠ .ttb ∧ r ≠ .asid)) →
      exec (.wrsp g ss (.sys r)) s = privileged s 0) ∧
    (s.guardOn g = true → s.soundS [ss] →
      (s.ctx.handler = true → ∀ r, r = .epc ∨ r = .ttb ∨ r = .asid →
        exec (.wrsp g ss (.sys r)) s = .next (s.modArch fun a => { a with srw := a.srw ++ [(r, s.readS ss)] }) ∧
        ∀ a : Arch, a.srw = [(r, s.readS ss)] → a.side = [] → a.applyWrites = { a with
          srw := []
          epc := if r = .epc then s.readS ss &&& ~~~63#64 else a.epc
          ttb := if r = .ttb then s.readS ss &&& 0x000FFFFFFFFFF000#64 else a.ttb
          asid := if r = .asid then (s.readS ss).setWidth 16 else a.asid }) ∧
      (∀ n, s.stage = .commit → ∃ t, exec (.wrsp g ss (.sched n)) s = .next t ∧
        amGet 0 (t.launchOf s.ctx.launch).sched n.toNat = s.readS ss ∧
        (∀ k, k ≠ n.toNat → amGet 0 (t.launchOf s.ctx.launch).sched k = amGet 0 (s.launchOf s.ctx.launch).sched k) ∧
        ({ t with launches := [] } : State) = { s with launches := [] }) ∧
      (∀ code w, exec (.wrsp g ss (.shadow code w)) s =
          .next (s.modArch fun a => { a with side := a.side ++ [(.shadow code w, s.readS ss)] }) ∧
        ∀ a : Arch, a.side = [(.shadow code w, s.readS ss)] → a.srw = [] →
          a.applyWrites = { a with side := [], shadow := amSet a.shadow (8 * code.toNat + w.toNat) (s.readS ss) }) ∧
      (∀ n, (s.readS ss).toNat < 2 ^ 27 → exec (.wrsp g ss (.mp n)) s =
          .next (s.modArch fun a => { a with side := a.side ++ [(.mp n, s.readS ss)] }) ∧
        ∀ a : Arch, a.side = [(.mp n, s.readS ss)] → a.srw = [] →
          a.applyWrites = { a with side := [], mp := amSet a.mp n.toNat (s.readS ss) }) ∧
      (∀ n, 2 ^ 27 ≤ (s.readS ss).toNat → exec (.wrsp g ss (.mp n)) s = illegal s 0 0x0E) ∧
      (∀ n, ∃ t, exec (.wrsp g ss (.mask n)) s = .next t ∧
        WroteM s t n (BitVec.allOnes 64) (s.readS ss) (s.due 1)))

/-- Every control operation of the S slot: with its guard true it writes its link or counter and sets the transfer,
whose two delay bundles follow; with its guard false it writes nothing and goes nowhere, and its delay bundles still
follow; a register target that is not a multiple of 64 is an Illegal Operation with REASON 0x0E (R168, R179, R180). -/
def Obligations.ControlTransfers : Prop :=
  (∀ (i : Instr) (s : State) (f : ControlForm), controlForm s i = some f →
    (s.guardOn f.guard = true → s.soundS f.srcs → f.aligned = true →
      ∃ u t, exec i s = .next t ∧ Linked s u f.write ∧ t = u.setXfer f.target) ∧
    (s.guardOn f.guard = true → s.soundS f.srcs → f.aligned = false → exec i s = illegal s 0 0x0E) ∧
    (s.guardOn f.guard = false → exec i s = .next (s.setXfer none))) ∧
  (∀ (s : State) (t : Option Word), (s.setXfer t).ctx.xferNow = { delay := 3, target := t } ∧
    (s.setXfer t).setCtx { (s.setXfer t).ctx with hxfer := s.ctx.hxfer, arch := { (s.setXfer t).ctx.arch with
      xfer := s.ctx.arch.xfer } } = s.setCtx s.ctx) ∧
  (∀ (a : Arch) (t : Option Word) (p : Word), a.xfer = { delay := 3, target := t } →
    let a1 := a.stepTo p
    let a2 := a1.stepTo a1.pc
    let a3 := a2.stepTo a2.pc
    a1.pc = p + 64 ∧ a2.pc = p + 128 ∧ a3.pc = t.getD (p + 192) ∧ a3.xfer = { delay := 0, target := none } ∧
      a3.sched = a.sched + 3)

/-- tret from task code is a Privileged Operation. In a handler its commit marks the return, unless its guard is false;
its two delay bundles issue in the handler; at the end of the second the task is the next to issue, at sr.epc, with every
register that is not banked as the handler left it, and that state is its checkpoint (R183, R303). -/
def Obligations.TrapReturn : Prop :=
  (∀ (g : Guard) (s : State), s.ctx.handler = false → exec (.tret g) s = privileged s 0) ∧
  (∀ (g : Guard) (s : State), s.ctx.handler = true →
    (s.stage = .issue → exec (.tret g) s = .next (s.setCtx { s.ctx with hxfer := { delay := 3, target := none } })) ∧
    (s.stage = .commit → s.guardOn g = true → exec (.tret g) s = .next (s.setCtx { s.ctx with tretting := true })) ∧
    (s.stage = .commit → s.guardOn g = false → exec (.tret g) s = .next s)) ∧
  (∀ s : State, s.ctx.handler = true → s.ctx.tretting = true → s.ctx.ctl = 0 → s.ctx.gang = false →
    (s.ctx.hxfer.delay ≠ 1 → (bundleEnd s).ctx.handler = true ∧ (bundleEnd s).ctx.ckpt = (bundleEnd s).ctx.arch) ∧
    (s.ctx.hxfer.delay = 1 →
      let a := s.ctx.arch.applyWrites.flush
      let c := (bundleEnd s).ctx
      c.handler = false ∧ c.ckpt = c.arch ∧ c.arch.pc = a.epc &&& ~~~63#64 ∧
        (∀ n, c.arch.s.settled n = a.s.settled n) ∧ (∀ n, c.arch.p.settled n = a.p.settled n) ∧
        (∀ n, c.arch.v.settled n = a.v.settled n) ∧ c.arch.xfer = a.xfer ∧ c.arch.sched = s.ctx.arch.sched ∧
        c.journalV = [] ∧ c.journalA = [] ∧ (bundleEnd s).mem = s.mem))

/-- A NOP of any slot completes and changes nothing (R156). A bundle whose slots are all empty completes: outside a
handler and a checkpoint it advances the schedule clock by one, to the next bundle in address order or where a pending
transfer goes, with the registers that were due; memory and everything outside its context stay (R155, R180). -/
def Obligations.NopAndEmptyBundle : Prop :=
  (∀ (sl : Slot) (s : State), exec (.nop sl) s = .next s) ∧
  (∀ s : State, s.bundle.ckpt = false → s.ctx.handler = false → s.ctx.softTrap = none → s.issue = .ok →
    ∃ t, exec .emptyBundle s = .next t ∧ t = s.setCtx t.ctx ∧ t.now = s.now + 1 ∧
      t.ctx.arch.pc = (if s.ctx.arch.xfer.delay = 1 then s.ctx.arch.xfer.target.getD (s.bundle.addr + 64)
        else s.bundle.addr + 64) ∧
      t.ctx.arch.s = s.ctx.arch.s.advance (s.now + 1) ∧ t.ctx.arch.v = s.ctx.arch.v.advance (s.now + 1) ∧
      t.ctx.withheld = s.ctx.withheld ∧ t.ctx.ckpt = s.ctx.ckpt ∧ t.ctx.journalV = s.ctx.journalV)

namespace Sys2Proof

/-! ### Coder operations -/

/-- Lane key k is lane l of stream cs, selected by mask m. -/
def codes (s : State) (cs : BitVec 2) (m : MCode) (k : Nat) : Bool :=
  k / 64 == cs.toNat && (s.readM m).getLsbD (k % 64)

/-- A queue operation that only sets status bits and removes bytes. -/
def statusChange (k due : Nat) (ended overrun error : Bool) (remove : Nat) : QueueOp :=
  { key := k, due := due, remove := remove, ended := ended, overrun := overrun, error := error, append := [],
    replace := none }

/-- F[0] to F[16] of lane l's binary model, or of its table in a group of eight registers (R232, R235): F[2q] and
F[2q + 1] in the low and high half of lane l of register v + q; none when it is invalid. -/
def modelOf (s : State) (group : Bool) (v : VCode) (l : Nat) : Option (List Nat) :=
  let f := if group then (List.range 16).map fun i =>
        s.laneBits (v + BitVec.ofNat 9 (i / 2)) .z32 l / 2 ^ (16 * (i % 2)) % 65536
      else 0 :: s.laneBits v .z32 l :: List.replicate 14 32768
  let ok := if group then f.head? = some 0 ∧ f.Pairwise (· ≤ ·) ∧ ∀ x ∈ f, x ≤ 32768
      else 1 ≤ s.laneBits v .z32 l ∧ s.laneBits v .z32 l ≤ 32767
  if ok then some (f ++ [32768]) else none

/-- The vector fields of a model. -/
def modelFields (group : Bool) (v : VCode) : List VCode :=
  if group then (List.range 8).map fun i => v + BitVec.ofNat 9 i else [v]

/-- A decoding operation: guard, stream, symbols, whether the model is a table group, the model, the mask. -/
def decoder : Instr → Option (Guard × BitVec 2 × VCode × Bool × VCode × MCode)
  | .cdec g cs vd va m => some (g, cs, vd, false, va, m)
  | .cdecm g cs vd va m => some (g, cs, vd, true, va, m)
  | _ => none

/-- An encoding operation: guard, stream, symbols, whether the model is a table group, the model, the mask. -/
def encoder : Instr → Option (Guard × BitVec 2 × VCode × Bool × VCode × MCode)
  | .cenc g cs va vb m => some (g, cs, va, false, vb, m)
  | .cencm g cs va vb m => some (g, cs, va, true, vb, m)
  | _ => none

/-- What a decode does to lane k: nothing where the mask or the lane's state keeps it, ERROR alone, or the fields of Table
12-2 with the bytes removed (R231, R232). -/
def decodeEffect (s : State) (cs : BitVec 2) (m : MCode) (group : Bool) (va : VCode) (k : Nat) : Option LaneEffect :=
  let x := s.lane cs (k % 64)
  if codes s cs m k && !(x.q.ended || x.q.error) then
    match decodeLane (modelOf s group va (k % 64)) x with
    | none => some ⟨0, 0, statusChange k (s.due 6) false false true 0⟩
    | some r => some ⟨decodeMask, r.2.1.words, statusChange k (s.due 6) (r.2.1.budget == 0) r.2.2.2 false r.2.2.1⟩
  else none

/-- The symbol that a decode gives lane l. -/
def decodeSymbol (s : State) (cs : BitVec 2) (group : Bool) (va : VCode) (l : Nat) : Nat :=
  let x := s.lane cs l
  if x.q.ended || x.q.error then 0
  else match decodeLane (modelOf s group va l) x with | none => 0 | some r => r.1

/-- What an encoding operation does to lane k, given what it does to a lane that it reaches (R231, R233, R234). -/
def encodeEffect (s : State) (cs : BitVec 2) (m : MCode) (mask : BitVec 224) (reach : Lane → Bool)
    (run : Nat → Lane → Option Emit) (ends : Lane → Bool) (k : Nat) : Option LaneEffect :=
  let x := s.lane cs (k % 64)
  if codes s cs m k && reach x then
    match run (k % 64) x with
    | none => some ⟨0, 0, statusChange k (s.due 6) false false true 0⟩
    | some e => some ⟨if e.lane.enc then mask else 0, e.lane.words, statusChange k (s.due 6) (ends e.lane) e.overrun false 0⟩
  else none

/-- Bytes that an encoding operation emits: lane, offset and byte, lanes ascending. -/
def emitted (s : State) (cs : BitVec 2) (m : MCode) (reach : Lane → Bool) (run : Nat → Lane → Option Emit) :
    List (Nat × Nat × Byte) :=
  (List.range 64).flatMap fun l =>
    let x := s.lane cs l
    if (s.readM m).getLsbD l && reach x then (match run l x with | none => [] | some e => e.out.map fun o => (l, o)) else []

/-- The tile that holds an offset serves an access: it is mapped, does not drain, and no rule step runs on it (R57, R229,
R247). -/
def serves (s : State) (o : Nat) : Prop :=
  (offsetTile s o).state ≠ .empty ∧ (offsetTile s o).state ≠ .draining ∧ (offsetTile s o).rule = none

/-- The state in which the absent lines of these offsets have begun to fetch (R53). -/
def requested (s : State) (os : List Nat) : State :=
  os.foldl (fun s o => requestLine s s.cur (tileIx s s.cur (o / 4096)) (o % 4096 / 64)) s

/-- The outcome of an encoding operation of the V1 slot: the lanes change; bytes that it emits are one withheld store at
the addresses of their offsets in the stash window, whose tiles serve and whose pages translate for a write in the order
of the lanes (R20, R229, R230, R233). -/
def Encodes (i : Instr) (s : State) (f : Nat → Option LaneEffect) (out : List (Nat × Nat × Byte)) : Prop :=
  (out = [] → ∃ t, exec i s = .next t ∧ StreamWrote s t false (s.due 6) f) ∧
  (∀ v pages, out ≠ [] → (∀ o ∈ out, serves s o.2.1) →
    translatePages (requested s (out.map fun o => o.2.1)) (ctxXlat s s.cur) .vectorStore true false
      (distinctPages (out.map fun o => (offsetVa s o.2.1 / 65536, o.1)) []) [] [] = (v, pages, []) →
    v.roomW (.store (out.map fun o => (offsetPa s o.2.1, o.2.2))) →
    ∃ t, exec i s = .next t ∧
      t.ctx.withheld = v.ctx.withheld ++ [.store (out.map fun o => (offsetPa s o.2.1, o.2.2))] ∧
      t.mem = v.mem ∧ ∃ u, StreamWrote s u false (s.due 6) f ∧ t.ctx.arch = u.ctx.arch)

/-- The cut point b(i) of a range, for the table F[0] to F[16] (R232). -/
def cutPoint (range : Nat) (f : List Nat) (i : Nat) : Nat :=
  if f[i]? = some 32768 then range else range / 32768 * f.getD i 0

/-- A table that R232 takes: F[0] to F[16], from 0 to 32,768 and never falling. -/
def ModelTable (f : List Nat) : Prop :=
  f.length = 17 ∧ f[0]? = some 0 ∧ f[16]? = some 32768 ∧ f.Pairwise (· ≤ ·) ∧ ∀ x ∈ f, x ≤ 32768

/-- n is the number of renormalisation shifts of a range w: the least that brings it to 2^24 (R232, R233). -/
def RenormBy (w n : Nat) : Prop := 2 ^ 24 ≤ w * 256 ^ n ∧ ∀ k, k < n → w * 256 ^ k < 2 ^ 24

/-- The fields that shift_low changes (R233). -/
structure CarryState where
  low : Nat
  carry : Bool
  cache : Nat
  pend : Nat
  first : Bool

/-- n times shift_low: the fields after it and the bytes emitted, or none where PEND is full (R233). -/
def shiftLow : Nat → CarryState → Option (CarryState × List Nat)
  | 0, x => some (x, [])
  | n + 1, x =>
    let next := x.low * 256 % 2 ^ 32
    let out := (if x.first then [] else [(x.cache + x.carry.toNat) % 256]) ++ List.replicate x.pend ((0xFF + x.carry.toNat) % 256)
    if x.low < 0xFF000000 ∨ x.carry = true then
      (shiftLow n ⟨next, false, x.low / 2 ^ 24, 0, false⟩).map fun r => (r.1, out ++ r.2)
    else if x.pend = 0xFFFF then none
    else shiftLow n ⟨next, false, x.cache, x.pend + 1, x.first⟩

/-- e is lane x with these fields, with these bytes emitted from CUR on: those below LIM and inside the window of top bytes are
stored, and any other sets OVERRUN (R233). -/
structure Shifted (top : Nat) (x : Lane) (y : CarryState) (bs : List Nat) (e : Emit) : Prop where
  fields : e.lane.low = y.low ∧ e.lane.carry = y.carry ∧ e.lane.cache = y.cache ∧ e.lane.pend = y.pend ∧ e.lane.first = y.first
  cur : e.lane.cur = (x.cur + bs.length) % 2 ^ 32
  out : e.out = ((bs.zipIdx.map fun p => ((x.cur + p.2) % 2 ^ 32, BitVec.ofNat 8 p.1)).filter fun o =>
    decide (o.1 < x.lim ∧ o.1 < top))
  overrun : e.overrun = bs.zipIdx.any fun p => !decide ((x.cur + p.2) % 2 ^ 32 < x.lim ∧ (x.cur + p.2) % 2 ^ 32 < top)
  rest : e.lane.lim = x.lim ∧ e.lane.code = x.code ∧ e.lane.prime = x.prime ∧ e.lane.enc = x.enc ∧ e.lane.q = x.q

/-- The arithmetic of a symbol decoded (R232). -/
def DecodeArithmetic : Prop :=
  (∀ (x : Lane), decodeLane none x = none) ∧ (∀ (f : List Nat) (x : Lane), x.enc = true → decodeLane (some f) x = none) ∧
  ∀ (f : List Nat) (x : Lane) (sym n : Nat), ModelTable f → x.enc = false →
    let byte := fun (i : Nat) => (x.q.win.getD i (0, false)).1.toNat
    let code := if x.prime then byte 3 + 256 * (byte 2 + 256 * (byte 1 + 256 * byte 0)) else x.code
    let range := if x.prime then 0xFFFFFFFF else x.range
    let need := if x.prime then 4 else 0
    let lo := cutPoint range f sym
    let w := cutPoint range f (sym + 1) - lo
    (range ≤ code → decodeLane (some f) x = none) ∧
    (code < range → sym < 16 → lo ≤ code → code < lo + w → range < 2 ^ 32 → RenormBy w n →
      (x.q.win.length < need + n → decodeLane (some f) x = none) ∧
      (need + n ≤ x.q.win.length → ∃ y, decodeLane (some f) x =
          some (sym, y, need + n, ((x.q.win.drop need).take n).any Prod.snd) ∧
        y = { x with code := ((x.q.win.drop need).take n).foldl (fun a b => a * 256 + b.1.toNat) (code - lo),
                     range := w * 256 ^ n, prime := false, budget := (x.budget + (2 ^ 32 - 1)) % 2 ^ 32 }))

/-- The arithmetic of a symbol encoded and of a flush (R233, R234). -/
def EncodeArithmetic : Prop :=
  (∀ (top sym : Nat) (x : Lane), encodeLane top sym none x = none) ∧
  (∀ (top sym : Nat) (f : List Nat) (x : Lane), ModelTable f →
    (x.enc = false ∨ 15 < sym ∨ f[sym]? = f[sym + 1]? → encodeLane top sym (some f) x = none) ∧
    ∀ n, x.enc = true → sym < 16 → f[sym]? ≠ f[sym + 1]? → x.cur < 2 ^ 32 → x.range < 2 ^ 32 →
      let lo := cutPoint x.range f sym
      let w := cutPoint x.range f (sym + 1) - lo
      let y : CarryState :=
        ⟨(x.low + lo) % 2 ^ 32, x.carry || decide (2 ^ 32 ≤ x.low + lo), x.cache, x.pend, x.first⟩
      RenormBy w n →
      (shiftLow n y = none → encodeLane top sym (some f) x = none) ∧
      ∀ z bs, shiftLow n y = some (z, bs) → ∃ e, encodeLane top sym (some f) x = some e ∧ Shifted top x z bs e ∧
        e.lane.range = w * 256 ^ n ∧ e.lane.budget = (x.budget + (2 ^ 32 - 1)) % 2 ^ 32 ∧ e.lane.fl = x.fl) ∧
  ∀ (top : Nat) (x : Lane), x.cur < 2 ^ 32 →
    let y : CarryState := ⟨x.low, x.carry, x.cache, x.pend, x.first⟩
    (x.enc = false → flushLane top x = some { lane := x, out := [], overrun := false }) ∧
    (x.enc = true → shiftLow 5 y = none → flushLane top x = none) ∧
    ∀ z bs, x.enc = true → shiftLow 5 y = some (z, bs) → ∃ e, flushLane top x = some e ∧ Shifted top x z bs e ∧
      e.lane.fl = true ∧ e.lane.range = x.range ∧ e.lane.budget = x.budget

end Sys2Proof

/-! ### The coder -/

/-- cdec and cdecm complete: each active lane that is not inert decodes its symbol as R232 gives, with the fields of
Table 12-2 at c + 6; an inert lane and one in error give 0; lanes that the mask leaves keep their symbol and their
state (R230 to R232, R235). cenc, cencm and cflush complete: each lane that they reach changes as R233 and R234 give
at c + 6, and the bytes emitted are one withheld store (R229 to R235). A flush of a decoder lane only sets ENDED. The
arithmetic of a lane is that of R232 to R234: the symbol whose cut points hold the code, the least number of
renormalisation shifts, the bytes that go in or come out of them, and the carry. -/
def Obligations.CoderSymbols : Prop :=
  DecodeArithmetic ∧ EncodeArithmetic ∧
  (∀ (i : Instr) (s : State) (g : Guard) (cs : BitVec 2) (vd : VCode) (group : Bool) (va : VCode) (m : MCode),
     decoder i = some (g, cs, vd, group, va, m) → i.codeOk = true → i.rangeOk = true → s.guardOn g = true →
     s.soundV (modelFields group va) → s.roomFor vd →
     ∃ u t, exec i s = .next t ∧ StreamWrote s u false (s.due 6) (decodeEffect s cs m group va) ∧
       ∃ x, WroteV u t vd (s.readM m == BitVec.allOnes 64) x (s.due 6) ∧
         ∀ l, l < 64 → lane x .z32 l = s.maskedLane .z32 m vd (decodeSymbol s cs group va) l) ∧
  ((∀ (i : Instr) (s : State) (g : Guard) (cs : BitVec 2) (va : VCode) (group : Bool) (vb : VCode) (m : MCode),
     encoder i = some (g, cs, va, group, vb, m) → i.codeOk = true → i.rangeOk = true → s.guardOn g = true →
     s.soundV (va :: modelFields group vb) →
     let reach := fun (x : Lane) => !(x.q.ended || x.q.error)
     let run := fun (l : Nat) (x : Lane) =>
       encodeLane (s.ctx.swinCount * 4096) (s.laneBits va .z32 l) (modelOf s group vb l) x
     Encodes i s (encodeEffect s cs m encodeMask reach run fun y => y.budget == 0) (emitted s cs m reach run)) ∧
   (∀ (g : Guard) (cs : BitVec 2) (m : MCode) (s : State), s.guardOn g = true →
     let reach := fun (x : Lane) => !x.enc || (!x.q.error && !x.fl)
     let run := fun (_ : Nat) (x : Lane) => flushLane (s.ctx.swinCount * 4096) x
     Encodes (.cflush g cs m) s (encodeEffect s cs m flushMask reach run fun _ => true) (emitted s cs m reach run)))

/-- cinit writes every field of each active lane at c + 6: CUR, LIM and BUDGET from va, vb and vc; MODE is ENC; RANGE is
0xFFFF_FFFF; LOW, CODE, C, CACHE, PEND, WCNT and TAG are 0; FIRST is 1 for an encoder and PRIME for a decoder;
ENDED is set when BUDGET = 0, ERROR when LIM exceeds sr.swin.COUNT · 4,096 or CUR exceeds LIM, and no other status bit
(R236). -/
def Obligations.CoderInit : Prop :=
  ∀ (g : Guard) (enc : Bool) (cs : BitVec 2) (va vb vc : VCode) (m : MCode) (s : State), s.guardOn g = true →
    s.soundV [va, vb, vc] →
    ∃ t f, exec (.cinit g enc cs va vb vc m) s = .next t ∧ StreamWrote s t true (s.due 6) f ∧
      (∀ k, (f k).isSome = codes s cs m k) ∧
      ∀ k e, f k = some e → e.mask = BitVec.allOnes 224 ∧ e.op.due = s.due 6 ∧ ∃ q, e.op.replace = some q ∧
        let l := k % 64
        let x := Lane.ofWords (t.wordsAt k (s.due 6)).toNat q
        x.cur = s.laneBits va .z32 l ∧ x.lim = s.laneBits vb .z32 l ∧ x.budget = s.laneBits vc .z32 l ∧ x.enc = enc ∧
        x.range = 0xFFFFFFFF ∧ x.low = 0 ∧ x.code = 0 ∧ x.carry = false ∧ x.cache = 0 ∧ x.pend = 0 ∧ x.fl = false ∧
        x.first = enc ∧ x.prime = !enc ∧ q.win = [] ∧ q.rest.toNat / 2 ^ 128 = 0 ∧ q.overrun = false ∧ q.ended = (x.budget == 0) ∧
        q.error = decide (s.ctx.swinCount * 4096 < x.lim ∨ x.lim < x.cur)

/-- csave writes each active lane's image to lane l of twelve registers at c + 6, inactive lanes keeping their values;
cload writes every field of each active lane from the same image at c + 6, with ERROR also set where WCNT exceeds 16, LIM
exceeds sr.swin.COUNT · 4,096, or the lane is not inert and RANGE lies below 2^24; the places of the window and of TAG past
WCNT are saved and loaded too (R237, Table 12-5). -/
def Obligations.CoderImages : Prop :=
  (∀ (g : Guard) (cs : BitVec 2) (vd : VCode) (m : MCode) (s : State), s.guardOn g = true → vd.toNat + 12 ≤ 384 →
    s.roomV ((List.range 12).map (vd.toNat + ·)) →
    ∃ (t : State) (x : Nat → VReg), exec (.csave g cs vd m) s = .next t ∧
      WroteGroup s t vd.toNat 12 (s.readM m == BitVec.allOnes 64) x (s.due 6) ∧
      ∀ j l, j < 12 → l < 64 →
        ((s.readM m).getLsbD l = false → lane (x j) .z32 l = lane (s.fileV (vd.toNat + j)) .z32 l) ∧
        ((s.readM m).getLsbD l = true →
          let y := s.lane cs l
          let w := lane (x j) .z32 l
          (j = 0 → w = y.low) ∧ (j = 1 → w = y.range) ∧ (j = 2 → w = y.code) ∧ (j = 3 → w = y.cur) ∧
          (j = 4 → w = y.lim) ∧ (j = 5 → w = y.budget) ∧
          (j = 6 → y.q.win.length < 32 → w = y.q.win.length * 2 ^ 16 + y.q.error.toNat * 2 ^ 15 + y.q.overrun.toNat * 2 ^ 14
            + y.q.ended.toNat * 2 ^ 13 + y.fl.toNat * 2 ^ 12 + y.prime.toNat * 2 ^ 11 + y.enc.toNat * 2 ^ 10
            + y.first.toNat * 2 ^ 9 + y.carry.toNat * 2 ^ 8 + y.cache) ∧
          (j = 7 → w % 2 ^ 16 = y.pend ∧ ∀ n, n < 16 → w.testBit (16 + n) =
            (match y.q.win[n]? with | some b => b.2 | none => y.q.rest.getLsbD (128 + n))) ∧
          (8 ≤ j → ∀ n, n < 4 → w / 2 ^ (8 * n) % 256 =
            (match y.q.win[4 * (j - 8) + n]? with
             | some b => b.1.toNat
             | none => y.q.rest.toNat / 2 ^ (8 * (4 * (j - 8) + n)) % 256)))) ∧
  (∀ (g : Guard) (cs : BitVec 2) (va : VCode) (m : MCode) (s : State), s.guardOn g = true → va.toNat + 12 ≤ 384 →
    s.soundV ((List.range 12).map fun i => va + BitVec.ofNat 9 i) →
    ∃ t f, exec (.cload g cs va m) s = .next t ∧ StreamWrote s t true (s.due 6) f ∧
      (∀ k, (f k).isSome = codes s cs m k) ∧
      ∀ k e, f k = some e → e.mask = BitVec.allOnes 224 ∧ e.op.due = s.due 6 ∧ ∃ q, e.op.replace = some q ∧
        let w := fun (j : Nat) => s.laneBits (va + BitVec.ofNat 9 j) .z32 (k % 64)
        let x := Lane.ofWords (t.wordsAt k (s.due 6)).toNat q
        x.low = w 0 ∧ x.range = w 1 ∧ x.code = w 2 ∧ x.cur = w 3 ∧ x.lim = w 4 ∧ x.budget = w 5 ∧
        x.cache = w 6 % 256 ∧ x.carry = (w 6).testBit 8 ∧ x.first = (w 6).testBit 9 ∧ x.enc = (w 6).testBit 10 ∧
        x.prime = (w 6).testBit 11 ∧ x.fl = (w 6).testBit 12 ∧ q.ended = (w 6).testBit 13 ∧
        q.overrun = (w 6).testBit 14 ∧ x.pend = w 7 % 65536 ∧ q.win.length = w 6 / 65536 % 32 ∧
        (∀ n b, n < 16 → q.win[n]? = some b →
          b.1.toNat = w (8 + n / 4) / 2 ^ (8 * (n % 4)) % 256 ∧ b.2 = (w 7).testBit (16 + n)) ∧
        (∀ n, n < 16 → q.rest.toNat / 2 ^ (8 * n) % 256 = w (8 + n / 4) / 2 ^ (8 * (n % 4)) % 256 ∧
          q.rest.getLsbD (128 + n) = (w 7).testBit (16 + n)) ∧
        q.error = ((w 6).testBit 15 || decide (16 < w 6 / 65536 % 32 ∨ s.ctx.swinCount * 4096 < w 4) ||
          (!((w 6).testBit 13 || (w 6).testBit 15) && decide (w 1 < 2 ^ 24))))

/-- cstat sets bit l of its mask at c + 6, for each active lane l, to the condition that SEL selects, and other bits keep
their values (R238). ldc fetches the eight bytes from CUR for each active decoder lane that is not inert: a byte below LIM and
inside the stash window is loaded, through the tile that maps it, as zero where the tile maps a zero page, and any other is 0
with its tag set, one below LIM but past the stash window too (the model's choice, log 47); CUR grows by eight from c + 1 and
the bytes are appended at the landing cycle (R62, R229, R230, R240). -/
def Obligations.CoderStatusAndFetch : Prop :=
  (∀ (g : Guard) (sel : BitVec 3) (cs : BitVec 2) (md m : MCode) (s : State), s.guardOn g = true → sel.toNat ≤ 4 →
     ∃ t x, exec (.cstat g sel cs md m) s = .next t ∧ WroteM s t md (s.readM m) x (s.due 6) ∧
       ∀ l, l < 64 → let y := s.lane cs l
         (sel = 0 → x.getLsbD l = (!y.q.ended && !y.q.error)) ∧ (sel = 1 → x.getLsbD l = y.q.ended) ∧
         (sel = 2 → x.getLsbD l = y.q.overrun) ∧ (sel = 3 → x.getLsbD l = y.q.error) ∧
         (sel = 4 → x.getLsbD l = (!y.enc && decide (y.q.win.length ≤ 8)))) ∧
  (∀ (g : Guard) (cs : BitVec 2) (k : BitVec 6) (m : MCode) (s : State), s.guardOn g = true →
     let on := fun (l : Nat) => (s.readM m).getLsbD l && !(s.lane cs l).enc && !((s.lane cs l).q.ended || (s.lane cs l).q.error)
     let inside := fun (l o : Nat) => decide (o < (s.lane cs l).lim ∧ o < s.ctx.swinCount * 4096)
     let os := ((List.range 64).filter on).flatMap fun l =>
       ((List.range 8).map ((s.lane cs l).cur + ·)).filter (inside l)
     (∀ o ∈ os, serves s o ∧ ((offsetTile s o).zeroPage = true ∨ offsetPa s o / 64 ∉ s.poison)) →
     ∃ t, exec (.ldc g cs k m) s = .next t ∧
       let w := noteRead (takeLanding (requested s os) k false (!os.isEmpty)) (os.map fun o => (offsetPa s o, 1))
       StreamWrote w t false (s.now + 1) fun key =>
         if key / 64 = cs.toNat ∧ on (key % 64) = true then
           let x := s.lane cs (key % 64)
           some ⟨wordMask 96 32, ({ x with cur := (x.cur + 8) % 2 ^ 32 } : Lane).words,
             { statusChange key (s.due k.toNat) false false false 0 with
               append := (List.range 8).map fun j =>
                 if inside (key % 64) (x.cur + j) then
                   (s.seen (offsetPhys s (x.cur + j)), false)
                 else (0, true) }⟩
         else none)
namespace Sys2Proof

/-! ### Loads, stores and moves -/

/-- The effective address of format L: s[sa] + sext(imm, 10)·u, modulo 2^64 (R203). -/
def eaOf (s : State) (sa : SCode) (imm : BitVec 10) (u : Nat) : Nat :=
  (((s.readS sa).toNat + imm.toInt * u) % 2 ^ 64).toNat

/-- A load: guard, scalar and vector sources, access class, alignment, elements, land field, and what its destination
takes: from the state in the first argument to the one in the second, given the number that each lane loads (R203 to
R205). -/
structure LoadOp where
  guard : Guard
  ssrcs : List SCode
  vsrcs : List VCode
  cls : Access
  unit : Nat
  elems : List Elem
  land : BitVec 6
  room : Prop
  lands : State → State → (Nat → Nat) → Prop

/-- The loads but ldp and ldc (Table 11-1, R203 to R205). -/
def loadForm (s : State) : Instr → Option LoadOp
  | .lds g ty sd sa imm k =>
    some ⟨g, [sa], [], .scalarLoad, ty.unit, [⟨eaOf s sa imm ty.unit, ty.unit, 0⟩], k, True,
      fun w t v => WroteS w t sd (if ty.isSigned then sext64 ty.bits (v 0) else zext64 ty.bits (v 0)) (s.due k.toNat)⟩
  | .ldv g ty vd sa imm k m =>
    let t := memTy ty
    some ⟨g, [sa], [], .vectorLoad, ty.unit,
      laneElems t (s.readM m) t.lanes fun l => eaOf s sa imm ty.unit + l * t.unit, k, s.roomFor vd,
      fun w t' v => WroteLanes w t' t m vd v (s.due k.toNat)⟩
  | .ldvs g ty vd sa sx imm k m =>
    some ⟨g, [sa, sx], [], .vectorLoad, ty.unit,
      laneElems ty (s.readM m) ty.lanes fun l => eaOf s sa imm ty.unit + l * (s.readS sx).toNat, k, s.roomFor vd,
      fun w t v => WroteLanes w t ty m vd v (s.due k.toNat)⟩
  | .ldg g ty scaled vd sa vx imm k m =>
    let n := min 64 ty.lanes
    some ⟨g, [sa], [vx], .vectorLoad, ty.unit,
      laneElems ty (s.readM m) n fun l =>
        (((eaOf s sa imm ty.unit : Int) + s.laneInt vx .s32 l * (if scaled then ty.unit else 1)) % 2 ^ 64).toNat,
      k, s.roomFor vd,
      fun w t v => ∃ x, WroteV w t vd (s.readM m == BitVec.allOnes 64) x (s.due k.toNat) ∧ ∀ l, l < ty.lanes →
        lane x ty l = if n ≤ l then 0 else s.maskedLane ty m vd v l⟩
  | .ldb g ty vd sa imm k m =>
    let low := (List.range ty.lanes).find? fun l => activeIn (s.readM m) l ty
    some ⟨g, [sa], [], .vectorLoad, ty.unit, low.toList.map fun l => ⟨eaOf s sa imm ty.unit, ty.unit, l⟩,
      k, s.roomFor vd, fun w t v => WroteLanes w t ty m vd (fun _ => v (low.getD 0)) (s.due k.toNat)⟩
  | .ldt g n grp sa imm k =>
    some ⟨g, [sa], [], .vectorLoad, 64, [⟨eaOf s sa imm 64, 256, 0⟩], k, s.roomV [rowEntry n.toNat grp.toNat],
      fun w t v => WroteT w t n [grp.toNat] (groupMask grp.toNat) (atRowGroup grp.toNat (BitVec.ofNat 2048 (v 0)))
        (s.due k.toNat)⟩
  | _ => none

/-- A store that is withheld: guard, scalar, vector and tile sources, access class, alignment, elements with their data
(R203, R206). -/
structure StoreForm where
  guard : Guard
  ssrcs : List SCode
  vsrcs : List VCode
  tsrcs : List TCode
  cls : Access
  unit : Nat
  elems : List (Elem × List Byte)

/-- The n lowest bytes of a number, the lowest first. -/
def bytesLE (n x : Nat) : List Byte := (List.range n).map fun i => BitVec.ofNat 8 (x / 256 ^ i)

/-- The stores but stq and stz (Table 11-1, R206). -/
def storeForm (s : State) : Instr → Option StoreForm
  | .sts g ty ss sa imm =>
    some ⟨g, [ss, sa], [], [], .scalarStore, ty.unit,
      [(⟨eaOf s sa imm ty.unit, ty.unit, 0⟩, bytesLE ty.unit (s.readS ss).toNat)]⟩
  | .stv g ty vs sa imm m =>
    let t := memTy ty
    some ⟨g, [sa], [vs], [], .vectorStore, ty.unit,
      (laneElems t (s.readM m) t.lanes fun l => eaOf s sa imm ty.unit + l * t.unit).map
        fun e => (e, bytesLE e.n (s.laneBits vs t e.lane))⟩
  | .stvs g ty vs sa sx imm m =>
    some ⟨g, [sa, sx], [vs], [], .vectorStore, ty.unit,
      (laneElems ty (s.readM m) ty.lanes fun l => eaOf s sa imm ty.unit + l * (s.readS sx).toNat).map
        fun e => (e, bytesLE e.n (s.laneBits vs ty e.lane))⟩
  | .stsc g ty scaled vs sa vx imm m =>
    some ⟨g, [sa], [vs, vx], [], .vectorStore, ty.unit,
      (laneElems ty (s.readM m) (min 64 ty.lanes) fun l =>
        (((eaOf s sa imm ty.unit : Int) + s.laneInt vx .s32 l * (if scaled then ty.unit else 1)) % 2 ^ 64).toNat).map
        fun e => (e, bytesLE e.n (s.laneBits vs ty e.lane))⟩
  | .stt g n grp sa imm =>
    some ⟨g, [sa], [], [n], .vectorStore, 64,
      [(⟨eaOf s sa imm 64, 256, 0⟩, (List.range 256).map fun b => byteOf (s.readT n) (256 * grp.toNat + b))]⟩
  | _ => none

/-- Address and byte of each byte that a withheld store will write: the elements' bytes at their translated addresses;
bytes of a vector store in the device register range change nothing (log 91). -/
def cellsOf (pages : List (Nat × Phys)) (es : List (Elem × List Byte)) : List (Nat × Byte) :=
  (es.flatMap fun e => e.2.zipIdx.map fun b => ((physOf pages ((e.1.va + b.2) % 2 ^ 64)).pa, b.1)).filter
    fun c => rangeOf c.1 ≠ .device

/-- Lines that a store covers whole, where memory keeps them (R53). -/
def wholeOf (cells : List (Nat × Byte)) : List Nat := wholeLines (cells.map fun c => (homePa c.1, c.2))

/-- Physical lines that the elements touch. -/
def elemLines (pages : List (Nat × Phys)) (es : List Elem) : List Nat :=
  linesOf pages (es.flatMap fun e => (List.range e.n).map fun i => (e.va + i) % 2 ^ 64)

/-- From w to t, a load with bytes far to read through the fabric window holds a landing entry, due at the cycle due, whose data
has not arrived: each of those bytes waits for a request, one for its line, which the port holds, and what it brings will pass
under the context's withheld operations on those lines (R77, R84, R103, R134; the split of an access: log 116; the withheld
operations: log 113). Memory and the withheld operations stay. -/
structure AwaitsFar (w t : State) (far : List FarByte) (due : Nat) (l : Landing) : Prop where
  entry : l ∈ t.ctx.landings ∧ l.id = w.ctx.nextLanding ∧ l.due = due ∧ l.arrived = false
  own : l.own = w.ctx.withheld.filter fun o => o.lines.any fun n => far.any fun b => b.pa / 64 == n
  bytes : ∀ b ∈ far, ∃ a ∈ l.asks, a.elem = b.elem ∧ a.off = b.off ∧ a.n = 1 ∧ a.pa = b.pa / 64 * 64 ∧ a.skip = b.pa % 64
  asks : ∀ a ∈ l.asks, a.dest = fabModule a.pa ∧ a.lane = fabLane a.pa ∧ ∃ o ∈ t.fabric.out, o.ctx = w.cur ∧
    o.req.dest = a.dest ∧ o.req.lane = a.lane ∧ o.req.seq = a.seq ∧ o.req.act = .read (a.pa % 2 ^ 40) 64
  mem : t.mem = w.mem
  withheld : t.ctx.withheld = w.ctx.withheld

end Sys2Proof

/-! ### Loads and stores -/

/-- Every load but ldp and ldc, at its issue with its guard true, its sources readable, its elements aligned, its pages
translating to memory that is no device's and holds no poison, and its tiles serving: it completes, holds its landing entry,
and its destination takes what memory held, at its landing cycle; with no active element it accesses nothing (R19, R134, R203
to R205). A load with bytes to read through the fabric window completes with an entry whose data has not arrived: it waits for
the requests that bring those bytes, one for each line (R84, R103, R134; how an access is split is the model's choice, log
116, and so is that the bytes pass under the context's withheld operations on those lines, log 113; that ldb's one element
counts as the lowest active lane is log 120). Memory changes only in the accessed bits that translation sets (R13). -/
def Obligations.LoadResults : Prop :=
  ∀ (i : Instr) (s : State) (f : LoadOp), loadForm s i = some f → s.stage = .issue → s.guardOn f.guard = true →
    s.soundS f.ssrcs → s.soundV f.vsrcs → f.room →
    (f.elems = [] → ∃ t, exec i s = .next t ∧ f.lands (takeLanding s f.land false false) t fun _ => 0) ∧
    (∀ v w pages, f.elems ≠ [] → Translates s f.cls false false f.unit f.elems v pages →
      (f.cls = .scalarLoad → ∀ e ∈ f.elems, (physOf pages e.va).isDevice = false) →
      Served v true (elemLines pages f.elems) [] w →
      let far := f.elems.flatMap (farBytes w pages)
      (far = [] → ∃ t, exec i s = .next t ∧ f.lands (w.landing pages f.elems f.land) t (w.loadedLane pages f.elems)) ∧
      (s.issue = .ok → far ≠ [] → ∃ t l, exec i s = .next t ∧ AwaitsFar w t far (s.due f.land.toNat) l))

/-- ldp, under the same conditions: it accesses the counter word and the blocks of sixteen lanes with an active lane, and
nothing when no lane is active (R19, R203). With K = 0 each lane takes the prefix of as many planes as the counter word shows,
the canonical NaN for none, and with K > 0 the prefix of K planes, or the Plane Not Ready trap when fewer have landed; rounded
once to FP32 (R34, R265). With bytes to read through the fabric window it waits for their requests, and the planes are counted
when they have come (R84, R265). The model's own choices: the lane and the place of each page in a record (log 92), that sx's
word is the counter of the tile it names (log 55), and those of a fabric load (logs 113 and 116). -/
def Obligations.PlaneLoadResults : Prop :=
  ∀ (g : Guard) (f : BitVec 2) (k : BitVec 4) (mid : Bool) (vd : VCode) (sa sx : SCode) (land : BitVec 6) (m : MCode)
    (s v w : State) (pages : List (Nat × Phys)),
    s.stage = .issue → s.guardOn g = true → s.soundS [sa, sx] → s.roomFor vd →
    let n := sbBytes (sbMag f)
    let on := fun (b : Nat) => (List.range 16).any fun i => activeIn (s.readM m) (16 * b + i) .f32
    let first := fun (b : Nat) => 16 * b + ((List.range 16).find? fun i => activeIn (s.readM m) (16 * b + i) .f32).getD 0
    let es : List Elem :=
      (((List.range 4).filter on).map fun b => ⟨((s.readS sa).toNat + n * b) % 2 ^ 64, n, first b⟩)
        ++ [⟨(s.readS sx).toNat, 8, 256⟩]
    ((List.range 4).all (fun b => !on b) = true → ∃ t, exec (.ldp g f k mid vd sa sx land m) s = .next t ∧
      WroteLanes (takeLanding s land false false) t .f32 m vd (fun _ => 0) (s.due land.toNat)) ∧
    ((List.range 4).any on = true → Translates s .vectorLoad false false 1 es v pages →
    Served v true (elemLines pages es) [] w →
    let far := es.flatMap (farBytes w pages)
    let u := w.landing pages es land
    let x := w.loadedLane pages es
    let c := x 256 % 256
    let kk := if k = 0 then c else k.toNat
    (s.issue = .ok → far ≠ [] → ∃ t l, exec (.ldp g f k mid vd sa sx land m) s = .next t ∧
      AwaitsFar w t far (s.due land.toNat) l) ∧
    (far = [] → k = 0 ∨ k.toNat ≤ c → ∃ t, exec (.ldp g f k mid vd sa sx land m) s = .next t ∧
      WroteLanes u t .f32 m vd (fun l => if kk = 0 then 0x7FC00000
        else Fmt.fp32.rne (sbPrefix (sbMag f) (x (first (l / 16))) (l % 16) kk mid)) (s.due land.toNat)) ∧
    (far = [] → k ≠ 0 → c < k.toNat → exec (.ldp g f k mid vd sa sx land m) s = trapNow w 4 0x19 0))

/-- Every store but stq, at its issue with its guard true, its sources readable, its elements aligned, its pages translating
for a write to memory that is no device's, and its tiles serving: it completes and its bytes are withheld until the commit, at
the addresses that translation gives; memory changes only in the accessed and dirty bits. A store without an active element
does nothing (R77, R203, R206). stz withholds the 64 zero bytes of a line, which a ridge cache may hold as zero-flagged unless
the page is a memory-side one (R62, R63, R206). stq at its issue makes its checks and changes nothing but what translation
does, its window check whatever its guard (R164); at its commit the tile's 4,096 bytes are stored at one point, in byte order
from the range's first byte, and the tile holds every line: dirty, unless the task is phased (R139, R207). -/
def Obligations.StoreResults : Prop :=
  ((∀ (i : Instr) (s : State) (f : StoreForm), storeForm s i = some f → s.stage = .issue → s.guardOn f.guard = true →
     s.soundS f.ssrcs → s.soundV f.vsrcs → (∀ n ∈ f.tsrcs, s.soundT n) →
     (f.elems = [] → exec i s = .next s) ∧
     (∀ v w pages, f.elems ≠ [] → Translates s f.cls true false f.unit (f.elems.map Prod.fst) v pages →
       (f.cls = .scalarStore → ∀ e ∈ f.elems, (physOf pages e.1.va).isDevice = false) →
       Served v false (elemLines pages (f.elems.map Prod.fst)) (wholeOf (cellsOf pages f.elems)) w → w.roomW (.store (cellsOf pages f.elems)) →
       ∃ t, exec i s = .next t ∧ Withheld w t (.store (cellsOf pages f.elems)))) ∧
   (∀ (g : Guard) (sa : SCode) (imm : BitVec 10) (s v w : State) (pages : List (Nat × Phys)), s.stage = .issue →
     s.guardOn g = true → s.soundS [sa] →
     let e : Elem := ⟨eaOf s sa imm 64, 64, 0⟩
     Translates s .vectorStore true false 64 [e] v pages →
     Served v false (elemLines pages [e]) (elemLines pages [e]) w →
     let op := WithheldOp.zeroLine (physOf pages e.va).pa ((physOf pages e.va).kind ≠ .memorySide)
     w.roomW op → ∃ t, exec (.stz g sa imm) s = .next t ∧ Withheld w t op)) ∧
  (∀ (g : Guard) (n : TCode) (q : QCode) (s : State), s.ctx.swinCount ≤ q.toNat → exec (.stq g n q) s = illegal s 5 0x0E) ∧
  (∀ (g : Guard) (n : TCode) (q : QCode) (s : State), s.guardOn g = true → s.soundT n → q.toNat < s.ctx.swinCount →
     let i := tileIx s s.cur q.toNat
     let cells := cellsAt ((s.tile i).pa * 4096) (bytesOf (s.readT n) 4096)
     (∀ v pages, s.stage = .issue → (s.tile i).state = .ready →
       Translates s .vectorStore true false 1 [⟨(s.tile i).va * 4096, 4096, 0⟩] v pages →
       wsOverflows v v.cur (v.ctx.withheld ++ [.store cells]) = false →
       exec (.stq g n q) s = .next v) ∧
     (s.stage = .commit → ∃ t, exec (.stq g n q) s = .next t ∧
       t = (performStores s s.cur 6 0 cells).setTile i (t.tile i) ∧
       (t.tile i).present = BitVec.allOnes 64 ∧ (t.tile i).zero = 0 ∧
       ((performStores s s.cur 6 0 cells).ctx.phased = false → (t.tile i).dirty = BitVec.allOnes 64)))

/-- A load or store of a device page or the register range is irrevocable: at its issue, in a checkpoint bundle, it makes
its checks and holds its landing; outside one it is an Illegal Operation with REASON 0x0B. At the commit lds reads the
register, after the core's device stores sent earlier, and sts sends its store to the core's port (R79, R139). -/
def Obligations.DeviceAccess : Prop :=
  ∀ (g : Guard) (ty : Ty) (r sa : SCode) (imm : BitVec 10) (k : BitVec 6) (s : State), s.guardOn g = true →
    let e : Elem := ⟨eaOf s sa imm ty.unit, ty.unit, 0⟩
    (s.soundS [sa] →
      (∀ v pages, s.stage = .issue → Translates s .scalarLoad false false ty.unit [e] v pages →
        (physOf pages e.va).isDevice = true →
        exec (.lds g ty r sa imm k) s = if s.bundle.ckpt then
          .next (takeLanding (notePages v 4 pages) k false true) else illegal v 4 0x0B) ∧
      (s.stage = .commit → pagesAt s 4 ≠ [] → rangeOf (physOf (pagesAt s 4) e.va).pa = .device →
        let u := drainOf s s.cur
        let x := deviceLoad u (some u.cur) (physOf (pagesAt s 4) e.va).pa ty.unit
        ∃ t, exec (.lds g ty r sa imm k) s = .next t ∧
          WroteS u t r (if ty.isSigned then sext64 ty.bits x else zext64 ty.bits x) (u.due k.toNat))) ∧
    (s.soundS [r, sa] →
      (∀ v pages, s.stage = .issue → Translates s .scalarStore true false ty.unit [e] v pages →
        (physOf pages e.va).isDevice = true →
        exec (.sts g ty r sa imm) s = if s.bundle.ckpt then .next (notePages v 5 pages) else illegal v 5 0x0B) ∧
      (s.stage = .commit → pagesAt s 5 ≠ [] → rangeOf (physOf (pagesAt s 5) e.va).pa = .device →
        exec (.sts g ty r sa imm) s = .next (deviceCommit s s.cur (physOf (pagesAt s 5) e.va).pa ty.unit
          (leNat (bytesLE ty.unit (s.readS r).toNat)))))

/-- The cluster moves complete with L = 3, and L = 8 for xav: xsv one lane of a vector register, xsvb every lane, xvs one
lane extended by its type, xvt a row or column of a tile register, xtv a row or column of one with zeros above a row, xav
the four quarters of an accumulator tile; xva moves four registers to one, which the next bundle reads, once its write
finishes (R49, R151, R251). -/
def Obligations.MoveResults : Prop :=
  ∀ (g : Guard) (ty : Ty) (ln : BitVec 8) (vd : VCode) (r : SCode) (n : TCode) (idx : BitVec 6) (w : BitVec 2)
    (acc : ACode) (s : State),
    s.guardOn g = true →
    (s.soundS [r] → s.roomFor vd → ∃ t x, exec (.xsv g ty ln vd r) s = .next t ∧ WroteV s t vd false x (s.due 3) ∧
      ∀ l, l < ty.lanes → lane x ty l =
        if l = ln.toNat then (s.readS r).toNat % 2 ^ ty.bits else lane (s.keptV vd) ty l) ∧
    (s.soundS [r] → s.roomFor vd → ∃ t, exec (.xsvb g ty vd r) s = .next t ∧
      WroteAll s t ty vd (fun _ => (s.readS r).toNat) (s.due 3)) ∧
    (s.soundV [vd] → ∃ t, exec (.xvs g ty ln r vd) s = .next t ∧
      WroteS s t r (if ty.isSigned then sext64 ty.bits (s.laneBits vd ty ln.toNat)
        else zext64 ty.bits (s.laneBits vd ty ln.toNat)) (s.due 3)) ∧
    (s.soundV [vd] → s.roomV [rowEntry n.toNat (idx.toNat / 4)] → ∃ t x mask,
      exec (.xvt g vd n false idx w) s = .next t ∧ WroteT s t n [idx.toNat / 4] mask x (s.due 3) ∧
      (∀ b, b < 32768 → mask.getLsbD b = decide (b / 512 = idx.toNat)) ∧
      ∀ b, b < 512 → x.getLsbD (512 * idx.toNat + b) = (s.readV vd).getLsbD b) ∧
    (s.soundV [vd] → w.toNat ≤ 2 → (idx.toNat + 1) * 2 ^ w.toNat ≤ 64 →
      s.roomV ((List.range 16).map (rowEntry n.toNat)) → ∃ t x mask,
      exec (.xvt g vd n true idx w) s = .next t ∧ WroteT s t n (List.range 16) mask x (s.due 3) ∧
      (∀ b, b < 32768 → mask.getLsbD b = decide (b % 512 / (8 * 2 ^ w.toNat) = idx.toNat)) ∧
      ∀ k b, k < 64 → b < 8 * 2 ^ w.toNat →
        x.getLsbD (512 * k + 8 * 2 ^ w.toNat * idx.toNat + b) = (s.readV vd).getLsbD (8 * 2 ^ w.toNat * k + b)) ∧
    (s.soundT n → s.roomFor vd → ∃ t x, exec (.xtv g vd n false idx w) s = .next t ∧ WroteV s t vd true x (s.due 3) ∧
      ∀ b, b < 2048 → x.getLsbD b = (decide (b < 512) && (s.readT n).getLsbD (512 * idx.toNat + b))) ∧
    (s.soundT n → s.roomFor vd → w.toNat ≤ 2 → (idx.toNat + 1) * 2 ^ w.toNat ≤ 64 → ∃ t x,
      exec (.xtv g vd n true idx w) s = .next t ∧ WroteV s t vd true x (s.due 3) ∧
      ∀ k b, k < 64 → b < 8 * 2 ^ w.toNat →
        x.getLsbD (8 * 2 ^ w.toNat * k + b) = (s.readT n).getLsbD (512 * k + 8 * 2 ^ w.toNat * idx.toNat + b)) ∧
    (vd.toNat + 4 ≤ 384 → inAwin s acc.toNat 1 = true → s.accFree acc.toNat → 456 + acc.toNat ∉ s.ctx.arch.poison →
      s.roomV ((List.range 4).map (vd.toNat + ·)) → ∃ t, exec (.xav g vd acc) s = .next t ∧
      WroteGroup s t vd.toNat 4 true (fun q => BitVec.ofNat 2048 ((s.readAcc acc.toNat).toNat / 2 ^ (2048 * q))) (s.due 8)) ∧
    (vd.toNat + 4 ≤ 384 → inAwin s acc.toNat 1 = true → s.accFree acc.toNat → (∀ q, q < 4 → s.soundV [vd + BitVec.ofNat 9 q]) →
      s.roomA [acc.toNat] → ∃ t, exec (.xva g vd acc) s = .next t ∧ ∃ x,
      WroteAcc s t [acc.toNat] (fun _ => x) [] [acc.toNat] ∧
      ∀ q b, q < 4 → b < 2048 → x.getLsbD (2048 * q + b) = (s.readV (vd + BitVec.ofNat 9 q)).getLsbD b)

namespace Sys2Proof

/-! ### The matrix slot -/

/-- A multiply-accumulate: guard, whether it starts from zero, operand fields, row and column masks (R215). -/
structure MacForm where
  guard : Guard
  zero : Bool
  op : MmaOp
  rows : MCode
  cols : MCode

/-- The multiply-accumulates; without mmam's masks every element is selected. -/
def macForm : Instr → Option MacForm
  | .mma g o => some ⟨g, false, o, 0, 0⟩
  | .mmaz g o => some ⟨g, true, o, 0, 0⟩
  | .mmam g o r c => some ⟨g, false, o, r, c⟩
  | _ => none

/-- Element k of row i of A (R209, R210, R215). -/
def macA (s : State) (o : MmaOp) (i k : Nat) : FVal :=
  matElem o.ca (if o.al then s.ctx.arch.latch else s.readT o.ta) o.taT (if o.ca.isSb then headerBlock s o.v else 0) i k

/-- The register that B is read from: the context's own, or that of a rank of the gang (R215). -/
def macBReg (s : State) (o : MmaOp) : TReg :=
  match o.mr with
  | none => s.readT o.tb
  | some k => rankTile s k.toNat o.tb

/-- Element k of column j of B; none where a CB4 record holds no element, whose index stands at the place that the
present bits before it count (R209 to R211, R215). -/
def macB (s : State) (o : MmaOp) (j k : Nat) : Option FVal :=
  if o.cb = .cb4 then
    let n := 64 * k + j
    let z := s.ctx.arch.zbitmap
    if z.getLsbD n then
      let rank := ((List.range n).filter fun i => z.getLsbD i).length
      some (Fmt.bf16.value (elem s.ctx.arch.codebook.toNat 16
        (elem ((macBReg s o).toNat / 2 ^ 4352) 4 rank)))
    else none
  else some (matElem o.cb (macBReg s o) o.tbT (if o.cb.isSb then headerBlock s (o.v + 4) else 0) j k)

/-- Element (i, j) of the result: groups of sixteen products in ascending k, each added to what came before with one
rounding (R36, R40, R216). -/
def macElem (s : State) (f : MacForm) (old i j : Nat) : Nat :=
  (List.range (clsK f.op.ca / 16)).foldl (fun x n =>
    groupAdd x ((List.range 16).filterMap fun q =>
      (macB s f.op j (16 * n + q)).map fun b => (macA s f.op i (16 * n + q)).mul b)) (if f.zero then 0 else old)

/-- Tiles of the sixteen with a selected element: tile q holds rows from 16·(q / 4) and columns from 16·(q mod 4). -/
def macTiles (s : State) (f : MacForm) : List Nat :=
  (List.range 16).filter fun q =>
    (List.range 16).any (fun r => (s.readM f.rows).getLsbD (16 * (q / 4) + r)) &&
      (List.range 16).any fun c => (s.readM f.cols).getLsbD (16 * (q % 4) + c)

/-- The operation names tiles of the window, its operands are free, and none of what it reads is poisoned. -/
structure MacReady (s : State) (f : MacForm) : Prop where
  stage : s.stage = .issue
  guard : s.guardOn f.guard = true
  window : inAwin s f.op.acc.toNat 16 = true
  gang : f.op.mr.isSome = true → s.ctx.gang = true ∧ s.ctx.handler = false
  free : ∀ q, q < 16 → s.accJoins (f.op.acc.toNat + q)
  masks : s.soundM [f.rows, f.cols]
  sa : f.op.al = false → s.soundT f.op.ta
  sb : f.op.mr = none ∨ f.op.mr.map BitVec.toNat = some s.ctx.rank → s.soundT f.op.tb
  far : ∀ k, f.op.mr = some k → 384 + f.op.tb.toNat ∉ (s.ctxOf ((gangOf s.cur).getD k.toNat s.cur)).arch.poison
  latch : f.op.al = true → 5068 ∉ s.ctx.arch.poison
  books : f.op.cb = .cb4 → 5069 ∉ s.ctx.arch.poison ∧ 5070 ∉ s.ctx.arch.poison
  header : f.op.ca.isSb = true ∨ f.op.cb.isSb = true → ∀ q, q < 8 → (f.op.v + BitVec.ofNat 9 q).toNat ∉ s.ctx.arch.poison
  acc : f.zero = false → ∀ q ∈ macTiles s f, 456 + (f.op.acc.toNat + q) ∉ s.ctx.arch.poison
  room : s.roomA ((macTiles s f).map (f.op.acc.toNat + ·))

end Sys2Proof

/-! ### Matrix operations -/

/-- mma, mmaz and mmam complete: each selected element is the dot product of its row of A and column of B added to what
it held, or to zero for mmaz; every other element stays; a tile with no selected element is not written; all sixteen
tiles' writes are in flight (R59, R209 to R216). -/
def Obligations.MatrixProducts : Prop :=
  ∀ (i : Instr) (s : State) (f : MacForm), i.WellFormed → macForm i = some f → MacReady s f →
    ∃ t x, exec i s = .next t ∧
      WroteAcc s t ((macTiles s f).map (f.op.acc.toNat + ·)) x ((List.range 16).map (f.op.acc.toNat + ·)).reverse [] ∧
      ∀ r c, r < 64 → c < 64 → 4 * (r / 16) + c / 16 ∈ macTiles s f →
        let q := f.op.acc.toNat + (4 * (r / 16) + c / 16)
        let e := 16 * (r % 16) + c % 16
        accElem (x q) e = if (s.readM f.rows).getLsbD r && (s.readM f.cols).getLsbD c
          then macElem s f (accElem (s.readAcc q) e) r c else accElem (s.readAcc q) e

/-- mcb and mzb complete and load the codebook and zero-bitmap registers from the first 32 and the following 512 bytes of a
tile register, each ending the poison of the register that it writes whole; mrgat gathers rows into the operand latch, leaving
those that its mask leaves (R65); aclr clears CNT tiles (R214, R219, R220). mpld loads eight entries of the microprogram store
from each row (R221). mcall runs the operations of its entries in order, as operations of the matrix slot, and is in progress
for as many cycles as there are entries, whatever its guard (R213, R222, R223); an entry finds no poison that one before it
has ended, and a call whose entries or parameters are poisoned raises a Machine Check (R65; its sr.fault of 0 is the model's
choice, log 123); the fields of an entry with P = 1 have the parameter's fields added (Table 11-5). mret outside a
microprogram is an Illegal Operation with REASON 0x0E (R224). -/
def Obligations.MatrixSideResults : Prop :=
  (∀ (g : Guard) (n : TCode) (vx : VCode) (mk : MCode) (acc : ACode) (cnt : BitVec 12) (s : State), s.guardOn g = true →
     s.stage = .issue → s.roomA [] →
     (s.soundT n → ∃ x, exec (.mcb g n) s = .next (s.modArch fun a => { a with codebook := x, poison := a.poison.filter fun r => r ≠ 5069 }) ∧
       ∀ b, b < 256 → x.getLsbD b = (s.readT n).getLsbD b) ∧
     (s.soundT n → ∃ x, exec (.mzb g n) s = .next (s.modArch fun a => { a with zbitmap := x, poison := a.poison.filter fun r => r ≠ 5070 }) ∧
       ∀ b, b < 4096 → x.getLsbD b = (s.readT n).getLsbD (256 + b)) ∧
     ((isBypass vx = false → vx.toNat ∉ s.ctx.arch.poison) → s.soundM [mk] →
       (∀ r, r < 64 → (s.readM mk).getLsbD r = true →
         384 + s.laneBits vx .z32 r % 512 / 64 ∉ s.ctx.arch.poison) →
       (s.readM mk ≠ BitVec.allOnes 64 → 5068 ∉ s.ctx.arch.poison) →
       ∃ x, exec (.mrgat g vx mk) s =
           .next (s.modArch fun a => { a with latch := x, poison := a.poison.filter fun r => r ≠ 5068 }) ∧
         ∀ r b, r < 64 → b < 512 → x.getLsbD (512 * r + b) =
           if (s.readM mk).getLsbD r then
             (s.readT (BitVec.ofNat 3 (s.laneBits vx .z32 r / 64))).getLsbD (512 * (s.laneBits vx .z32 r % 64) + b)
           else s.ctx.arch.latch.getLsbD (512 * r + b)) ∧
     (let ks := (List.range (cnt.toNat + 1)).map (acc.toNat + ·)
      inAwin s acc.toNat (cnt.toNat + 1) = true → (∀ k ∈ ks, s.accJoins k) → s.roomA ks →
       ∃ t, exec (.aclr g acc cnt) s = .next t ∧ WroteAcc s t ks (fun _ => 0) ks.reverse [])) ∧
  ((∀ (g : Guard) (n : TCode) (entry : BitVec 7) (row : BitVec 6) (nr : BitVec 4) (s : State), s.guardOn g = true →
     s.soundT n → (Instr.mpld g n entry row nr).WellFormed →
     ∃ u, exec (.mpld g n entry row nr) s = .next (s.modArch fun a => { a with uprog := u }) ∧
       (∀ q b, q < 8 * (nr.toNat + 1) → b < 64 →
         (amGet 0 u (entry.toNat + q)).getLsbD b = (s.readT n).getLsbD (512 * row.toNat + 64 * q + b)) ∧
       ∀ e, (e < entry.toNat ∨ entry.toNat + 8 * (nr.toNat + 1) ≤ e) → amGet 0 u e = amGet 0 s.ctx.arch.uprog e) ∧
   (∀ (g : Guard) (entry : BitVec 7) (s : State), (∃ r ∈ callMarks s.ctx.arch entry.toNat, r ∈ s.ctx.arch.poison) →
     exec (.mcall g entry) s = trapNow s 3 0x20 0) ∧
   (∀ (g : Guard) (entry : BitVec 7) (ops : List MatOp) (n : Nat) (s : State),
     s.sound (callMarks s.ctx.arch entry.toNat) → callBody s entry.toNat = some (ops, n) → (∀ o ∈ ops, o.inRange s = true) → s.stage = .issue →
     let s1 := s.setCtx { s.ctx with callEnd := Nat.max s.ctx.callEnd (s.now + n) }
     let x := ops.foldl (MatOp.run s1) (matStart s1)
     (s.guardOn g = false → exec (.mcall g entry) s = .next s1) ∧
     (s.guardOn g = true → (∀ o ∈ ops, ∀ k ∈ o.names, s.accJoins k) →
       (∀ k o, ops[k]? = some o → o.farPoison s1 = false ∧
         ∀ r ∈ o.masks ++ o.reads s1, r ∈ s.ctx.arch.poison → ∃ e ∈ ops.take k, r ∈ e.ends s1) → s.roomA (x.acc.map Prod.fst) →
       ∃ t, exec (.mcall g entry) s = .next t ∧ (∀ k, t.accNext k = match amFind x.acc k with
           | some y => y
           | none => s.accNext k) ∧
         t.ctx.callEnd = Nat.max s.ctx.callEnd (s.now + n) ∧ t.ctx.arch.latch = x.latch ∧
         t.ctx.arch.codebook = x.codebook ∧ t.ctx.arch.zbitmap = x.zbitmap ∧ t.mem = s.mem)) ∧
   (∀ (mp : AMap Word) (w : Nat), bitsOf w 55 1 = 1 →
     let p := (amGet 0 mp (bitsOf w 52 3)).toNat
     let e := formEntry mp w
     bitsOf e 39 12 = (bitsOf w 39 12 + bitsOf p 0 12) % 4096 ∧ bitsOf e 36 3 = (bitsOf w 36 3 + bitsOf p 12 3) % 8 ∧
       bitsOf e 33 3 = (bitsOf w 33 3 + bitsOf p 15 3) % 8 ∧ bitsOf e 24 9 = (bitsOf w 24 9 + bitsOf p 18 9) % 512 ∧
       bitsOf e 0 24 = bitsOf w 0 24 ∧ bitsOf e 56 8 = bitsOf w 56 8 ∧ bitsOf e 51 5 = 0) ∧
   (∀ (g : Guard) (s : State), exec (.mret g) s = illegal s 3 0x0E))
namespace Sys2Proof

/-! ### Engine commands -/

/-- A copy or transform command: guard, what it does, its two scalars (R253, R256 to R260). -/
def copyForm : Instr → Option (Guard × CopyOp × SCode × SCode)
  | .xcopy g n sa sb => some (g, .copy (n.toNat + 1), sa, sb)
  | .xpack g f rm inf sa sb => some (g, .pack f rm inf, sa, sb)
  | .xunpk g f sa sb => some (g, .unpack f, sa, sb)
  | .xdec g sa sb => some (g, .decode, sa, sb)
  | .xzs g e sa sb => some (g, .zeroSup e, sa, sb)
  | .xcrc g n sa sb => some (g, .crc (n.toNat + 1), sa, sb)
  | _ => none

/-- Number that the next command of an engine context takes (R85). -/
def nextNumber (s : State) (eng : Nat) : Nat := (s.timeline s.ctx.slot eng).issued + 1

/-- From s to t, command k of engine context k.eng has been given to its engine with the next number of its timeline
(R85, R135, R254): it stands behind the context's earlier commands, and its acceptance is an event to come. -/
structure Pushed (s t : State) (k : Cmd) : Prop where
  last : t.ctx.cmds = s.ctx.cmds ++ [k]
  number : k.num = nextNumber s k.eng
  issued : (t.timeline s.ctx.slot k.eng).issued = k.num
  count : (t.timeline s.ctx.slot k.eng).count = (s.timeline s.ctx.slot k.eng).count
  event : .engineCommandAccept s.cur k.eng k.num ∈ t.work
  waits : k.accepted = false ∧ k.paused = false ∧ k.point = 0 ∧ k.staged = [] ∧ k.ending = 0
  rights : k.asid = s.ctx.arch.asid ∧ k.ttb = s.ctx.arch.ttb ∧ k.handler = s.ctx.handler ∧ k.bva = s.bundle.addr

/-- Shape registers 4·e to 4·e + 3 change their active words for their shadows' (R187, R254). -/
def Swapped (s t : State) (e : Nat) : Prop :=
  ∀ w, (32 * e ≤ w ∧ w < 32 * e + 32 → amGet 0 t.ctx.arch.shape w = amGet 0 s.ctx.arch.shadow w ∧
      amGet 0 t.ctx.arch.shadow w = amGet 0 s.ctx.arch.shape w) ∧
    (w < 32 * e ∨ 32 * e + 32 ≤ w → amGet 0 t.ctx.arch.shape w = amGet 0 s.ctx.arch.shape w ∧
      amGet 0 t.ctx.arch.shadow w = amGet 0 s.ctx.arch.shadow w)

/-- Address of register r of a shape at point p: BASE, plus x, plus each dimension's index times its stride, modulo 2^64;
dimension 0 innermost (R225, R254). -/
def addressAt (ws : List Word) (r : Nat) (x : Word) (p : Nat) : Nat :=
  let n := fun d => bitsOf (ws.getD 1 0).toNat (10 * d) 10 + 1
  let at2 := fun d => p / ((List.range d).map n).foldl (· * ·) 1 % n d
  ((((ws.getD (8 * r) 0).toNat : Int) + ((List.range 6).map fun d => (at2 d : Int) * (ws.getD (8 * r + 2 + d) 0).toInt).foldl (· + ·) 0
    + x.toNat) % 2 ^ 64).toNat

/-- Points of a shape (R225, R254). -/
def pointCount (ws : List Word) : Nat :=
  ((List.range 6).map fun d => bitsOf (ws.getD 1 0).toNat (10 * d) 10 + 1).foldl (· * ·) 1

/-- The bytes that staged writes make, with their addresses. -/
def stagedCells (ws : List (Word × List Byte)) : List (Nat × Byte) :=
  ws.flatMap fun w => w.2.zipIdx.map fun b => ((w.1.toNat + b.2) % 2 ^ 64, b.1)

/-- A collective command: guard, its kind in the order of Table 13-5, its scalar (R262). -/
def collForm : Instr → Option (Guard × Nat × SCode)
  | .xbcast g sa => some (g, 0, sa)
  | .xgath g sa => some (g, 1, sa)
  | .xsend g sa => some (g, 2, sa)
  | .xrecv g sa => some (g, 3, sa)
  | .xrscat g sa => some (g, 4, sa)
  | .xallred g sa => some (g, 5, sa)
  | _ => none

/-- The 64 bytes of a descriptor at translated addresses as the context sees them. -/
def descSeen (s : State) (pages : List (Nat × Phys)) (va : Nat) : List Byte :=
  (List.range 64).map fun i => s.seen (physOf pages ((va + i) % 2 ^ 64))

end Sys2Proof

/-! ### Engines -/

/-- A copy or transform command is an Illegal Operation with REASON 0x0E when the shape it would make active has reserved
bits, blocks its bundle while its engine context is full, and at the commit takes the active shape, its scalars and the next
number (R85, R129, R165, R253, R254, R256 to R260). A step of an accepted copy command: its oldest staged write is made,
unless it meets bytes of a spilled one; else its next point is read and its result staged line by line for the destination of
the point (a decoded chunk whole), or its status stops it; else, its last write performed, it completes (R254, R256). That a
point is read at one instant, and that its result is written line by line in later steps, is the model's choice (log 53). -/
def Obligations.CopyCommands : Prop :=
  (∀ (i : Instr) (s : State) (g : Guard) (op : CopyOp) (sa sb : SCode), copyForm i = some (g, op, sa, sb) →
     s.guardOn g = true → s.soundS [sa, sb] → s.sound (shapeMarks 3) →
     (s.stage = .issue → bitsOf (amGet 0 s.ctx.arch.shadow 97).toNat 60 4 ≠ 0 → exec i s = illegal s 6 0x0E) ∧
     (s.stage = .issue → bitsOf (amGet 0 s.ctx.arch.shadow 97).toNat 60 4 = 0 →
       (engineFull s.ctx 0 = true → exec i s = .next { s with issue := .blocked }) ∧
       (engineFull s.ctx 0 = false → nextNumber s 0 < 2 ^ 64 → exec i s = .next s)) ∧
     (s.stage = .commit → ∃ t k, exec i s = .next t ∧ Pushed s t k ∧ Swapped s t 3 ∧ k.eng = 0 ∧ k.work = .copy op ∧
       k.sa = s.readS sa ∧ k.sb = s.readS sb ∧ k.status = 1 ∧ k.crc = 0xFFFFFFFF ∧
       (∀ w, w < 32 → k.words[w]? = some (amGet 0 s.ctx.arch.shadow (96 + w))) ∧ t.mem = s.mem)) ∧
  (∀ (c num : Nat) (s : State) (k : Cmd) (op : CopyOp), cmdOf s c 0 num = some k → k.eng = 0 → k.num = num →
     k.accepted = true → k.paused = false → k.work = .copy op →
     (∀ w ws s1, k.staged = w :: ws → behindSpill (s.ctxOf c) w = false → engWrite s c k w = .ok s1 →
       ∃ t, exec (.copyPoint c num) s = .next t ∧ cmdOf t c 0 num = some { k with staged := ws } ∧ t.mem = s1.mem) ∧
     (∀ s1 bs, k.staged = [] → k.ending = 0 → k.point < pointCount k.words →
       copySource op c k (addressAt k.words 0 k.sa k.point) (k.words.getD 16 0).toNat s = .ok s1 bs →
       (∀ out, copyResult op bs = .ok out → ∃ t st, exec (.copyPoint c num) s = .next t ∧ t.mem = s1.mem ∧
         cmdOf t c 0 num = some { k with
           point := k.point + 1
           staged := st
           crc := match op with
             | .crc _ => crcBytes k.crc bs
             | _ => k.crc } ∧
         stagedCells st = out.zipIdx.map (fun b => ((addressAt k.words 1 k.sb k.point + b.2) % 2 ^ 64, b.1)) ∧
         (op ≠ .decode → ∀ w ∈ st, w.2 ≠ [] ∧ w.1.toNat % 64 + w.2.length ≤ 64)) ∧
       (∀ e, copyResult op bs = .error e → ∃ t, exec (.copyPoint c num) s = .next t ∧ t.mem = s1.mem ∧
         cmdOf t c 0 num = some { k with status := e, ending := 1 })) ∧
     (k.staged = [] → 2 ≤ k.ending → spilled s c k = false → cmdQuiet s c k = true →
       ∃ t, exec (.copyPoint c num) s = .next t ∧ cmdOf t c 0 num = none ∧ t.mem = s.mem))

/-- xnest makes its checks at the issue: an entry that its body admits not, or a shape that it admits not, is an Illegal
Operation with REASON 0x0E; at the commit it takes the active shapes, its scalars, the codebook and zero-bitmap registers
and the next number, and each accumulator tile that it writes has one more write to come (R165, R225 to R227). A point of an
accepted nest, with no earlier nest of the context behind whose writes it waits, runs its body in order on the tiles
fetched, when they hold no poison; after the last point the command completes (R226). -/
def Obligations.NestCommands : Prop :=
  (∀ (g : Guard) (entry : BitVec 7) (sa sb : SCode) (s : State), s.guardOn g = true → s.soundS [sa, sb] →
    s.sound (nestMarks s entry.toNat) →
    let ws := (List.range 32).map fun w => amGet 0 s.ctx.arch.shadow w
    (s.stage = .issue →
      (nestBody s entry.toNat = none → exec (.xnest g entry sa sb) s = illegal s 6 0x0E) ∧
      ∀ body, nestBody s entry.toNat = some body →
        (nestLegal s ws body (s.readS sa) (s.readS sb) = false → exec (.xnest g entry sa sb) s = illegal s 6 0x0E) ∧
        (nestLegal s ws body (s.readS sa) (s.readS sb) = true →
          (engineFull s.ctx 1 = true → exec (.xnest g entry sa sb) s = .next { s with issue := .blocked }) ∧
          (engineFull s.ctx 1 = false → nextNumber s 1 < 2 ^ 64 → exec (.xnest g entry sa sb) s = .next s))) ∧
    (∀ body, s.stage = .commit → nestBody s entry.toNat = some body → ∃ t k, exec (.xnest g entry sa sb) s = .next t ∧
      Pushed s t k ∧ Swapped s t 0 ∧ k.eng = 1 ∧ k.work = .nest body ∧ k.words = ws ∧ k.sa = s.readS sa ∧
      k.sb = s.readS sb ∧ k.codebook = s.ctx.arch.codebook ∧ k.zbitmap = s.ctx.arch.zbitmap ∧
      k.tiles = nestTiles ws body ∧
      (∀ n, amGet 0 t.ctx.accNest n = amGet 0 s.ctx.accNest n + (k.tiles.filter fun p => p.1 = n).length) ∧
      t.mem = s.mem)) ∧
  (∀ (c num : Nat) (s : State) (k : Cmd) (body : List NestOp), cmdOf s c 1 num = some k → k.eng = 1 → k.num = num →
    k.accepted = true → k.paused = false → k.work = .nest body →
    (pointCount k.words ≤ k.point → ∃ t, exec (.nestPoint c num) s = .next t ∧ cmdOf t c 1 num = none ∧ t.mem = s.mem) ∧
    (∀ s1 bs, k.point < pointCount k.words → nestBehind s c k = false → nestFetch s c k body = .ok s1 bs →
      let ix := pointIndex (shapeCounts k.words) k.point
      let red := shapeRed k.words
      let y := body.foldl (NestOp.run (s1.ctxOf c) (leNat bs) (pointOffset k.words 2 ix) (red ≠ 15 && ix.getD red 0 ≠ 0))
        { acc := [], codebook := k.codebook, zbitmap := k.zbitmap, wrote := [], poison := (s1.ctxOf c).arch.poison, eats := false }
      y.eats = false → ∃ t k1, exec (.nestPoint c num) s = .next t ∧ t.mem = s1.mem ∧ cmdOf t c 1 num = some k1 ∧
        k1.point = k.point + 1 ∧ k1.codebook = y.codebook ∧ k1.zbitmap = y.zbitmap ∧
        k1.tiles = k.tiles.filter (fun p => !(p.2 ≤ k.point)) ∧
        ∀ q, (t.ctxOf c).arch.acc.settled q = match amFind y.acc q with
          | some x => x
          | none => (s1.ctxOf c).arch.acc.settled q))

/-- A collective command of any kind, in full or plane mode, reads its descriptor and passes its checks at its issue, and
completes: at the commit it acts on the bytes that the check has read, takes the next number and joins the collective that
waits for its member, or begins one; a plane-mode command zeroes its counters there (R85, R139, R262, R264). At its issue a
descriptor that breaks the limits of Table 13-5 is an Illegal Operation with REASON 0x0E (the model's reading, log 23). Of
members whose LEVEL differs, the collective that the command joins is the model's choice, and its tiles end with a mismatch
there and in every other collective to which it belongs (log 122). -/
def Obligations.CollectiveCommands : Prop :=
  ∀ (i : Instr) (s : State) (g : Guard) (kind : Nat) (sa : SCode), collForm i = some (g, kind, sa) →
    s.guardOn g = true → s.soundS [sa] → (s.readS sa).toNat % 64 = 0 →
    (s.stage = .issue → engineFull s.ctx 2 = true → exec i s = .next { s with issue := .blocked }) ∧
    (∀ v pages, s.stage = .issue → engineFull s.ctx 2 = false → nextNumber s 2 < 2 ^ 64 →
      Translates s .engine false false 64 [⟨(s.readS sa).toNat, 64, 0⟩] v pages →
      let d := descSeen v pages (s.readS sa).toNat
      let from_ := noteBytes (noteRead v [(homePa (physOf pages (s.readS sa).toNat).pa, 64)]) 6 d
      (∀ l ∈ linesOf pages ((List.range 64).map fun j => ((s.readS sa).toNat + j) % 2 ^ 64), l ∉ v.poison) →
      (descLegal s.ctx kind d = false → exec i s = illegal from_ 6 0x0E) ∧
      (descLegal s.ctx kind d = true →
        let n := destCount kind (rankIn s.ctx (descLevel d)) (descSize s.ctx d) d
        (descPlane d = false ∨ n = 0 → exec i s = .next from_) ∧
        (∀ u cps, descPlane d = true → n ≠ 0 →
          translatePages from_ (ctxXlat from_ from_.cur) .engine true false (rangePages (descWord d 0x20) (8 * n)) [] [] =
              (u, cps, []) →
            exec i s = .next (notePages u 6 cps)))) ∧
    (s.stage = .commit →
      let d := bytesAt s 6
      let coll := joinNumber s s.ctx kind d
      let others := s.colls.filter fun p => p.1 ≠ coll
      let away := (others.map fun p => p.2.mates s.ctx kind d).sum
      let old := (amFind s.colls coll).getD (newCollective s.ctx kind d away)
      let torn := old.level ≠ descLevel d ∨ ∃ p ∈ others, p.2.admits s.ctx kind d = true
      let zeros := counterCells (pagesAt s 6) s.ctx kind d
      ∃ t k, exec i s = .next t ∧ Pushed s t k ∧ k.eng = 2 ∧ k.work = .collective coll ∧
        (zeros = [] → t.mem = s.mem) ∧ t.mem = (performStores s s.cur 2 k.num zeros).mem ∧
        amFind t.colls coll = some { old with members := old.members ++ [
          { rank := rankIn s.ctx old.level, ctx := s.cur, num := k.num, kind := kind, desc := d, prec := [], data := [],
            tiles := destCount kind (rankIn s.ctx (descLevel d)) (descSize s.ctx d) d,
            done := [], cancelled := [], told := [], complete := false }], differs := old.differs || decide torn } ∧
        ∀ j, j ≠ coll → amFind t.colls j =
          (amFind s.colls j).map fun k => k.parts s.ctx kind d (amFind s.colls coll).isNone)

namespace Sys2Proof

/-! ### Timelines, waits and atomics -/

/-- A handle with a reserved ENG or SLOT code or a reserved bit set (R88). -/
def badHandle (h : Word) : Prop :=
  bitsOf h.toNat 44 20 ≠ 0 ∨ bitsOf h.toNat 13 19 ≠ 0 ∨ 5 < bitsOf h.toNat 40 4 ∨ 6144 ≤ bitsOf h.toNat 0 13

/-- The handle names a task that has ended: its GEN is not its slot's (R88). -/
def deadHandle (s : State) (h : Word) : Prop :=
  ((amGet TSlot.free s.slots (bitsOf h.toNat 0 13)).gen.toNat ≠ bitsOf h.toNat 32 8)

/-- The timeline that a handle names. -/
def namedTimeline (s : State) (h : Word) : Timeline := s.timeline (bitsOf h.toNat 0 13) (bitsOf h.toNat 40 4)

/-- An atomic: guard, number of its operation, type, whether it returns, registers, land field, new value from the old
one, the operand and the compare value (R269). -/
structure AtomicForm where
  guard : Guard
  op : Nat
  ty : ATy
  ret : Bool
  sd : SCode
  sa : SCode
  sb : SCode
  land : BitVec 6
  value : Nat → Nat → Nat → Nat

/-- a is less than b as numbers of the type. -/
def atomLess (ty : ATy) (a b : Nat) : Bool :=
  if ty.signed then (BitVec.ofNat (8 * ty.bytes) a).slt (BitVec.ofNat (8 * ty.bytes) b)
  else decide (a % 2 ^ (8 * ty.bytes) < b % 2 ^ (8 * ty.bytes))

/-- The atomics of Table 13-9, on operands of the type's width (R269). -/
def atomicForm : Instr → Option AtomicForm
  | .aadd g ty r sd sa sb k => some ⟨g, 0, ty, r, sd, sa, sb, k, fun a b _ => (a + b) % 2 ^ (8 * ty.bytes)⟩
  | .aand g ty r sd sa sb k => some ⟨g, 1, ty, r, sd, sa, sb, k, fun a b _ => (a &&& b) % 2 ^ (8 * ty.bytes)⟩
  | .aor g ty r sd sa sb k => some ⟨g, 2, ty, r, sd, sa, sb, k, fun a b _ => (a ||| b) % 2 ^ (8 * ty.bytes)⟩
  | .axor g ty r sd sa sb k => some ⟨g, 3, ty, r, sd, sa, sb, k, fun a b _ => (a ^^^ b) % 2 ^ (8 * ty.bytes)⟩
  | .amin g ty r sd sa sb k =>
    some ⟨g, 4, ty, r, sd, sa, sb, k, fun a b _ => (if atomLess ty a b then a else b) % 2 ^ (8 * ty.bytes)⟩
  | .amax g ty r sd sa sb k =>
    some ⟨g, 5, ty, r, sd, sa, sb, k, fun a b _ => (if atomLess ty a b then b else a) % 2 ^ (8 * ty.bytes)⟩
  | .aswp g ty r sd sa sb k => some ⟨g, 6, ty, r, sd, sa, sb, k, fun _ b _ => b % 2 ^ (8 * ty.bytes)⟩
  | .acas g ty r sd sa sb k =>
    some ⟨g, 7, ty, r, sd, sa, sb, k, fun a b c =>
      if (a - c : Int) % 2 ^ (8 * ty.bytes) = 0 then b % 2 ^ (8 * ty.bytes) else a % 2 ^ (8 * ty.bytes)⟩
  | .afadd g r sd sa sb k => some ⟨g, 8, .z32, r, sd, sa, sb, k, fun a b _ => Fmt.fp32.sum (a % 2 ^ 32) (b % 2 ^ 32)⟩
  | _ => none

/-- No ring of the interrupt controllers holds a record back. -/
def ringsEmpty (s : State) : Prop := ∀ p ∈ s.rings, p.2.held = []

/-- Registers that the atomic reads. -/
def AtomicForm.srcs (f : AtomicForm) : List SCode := if f.op = 7 then [f.sd, f.sa, f.sb] else [f.sa, f.sb]

/-- The form that a phased task makes as a merge-add: not returning, a 4-byte aadd or afadd (R112). -/
def AtomicForm.merges (f : AtomicForm) : Bool := !f.ret && (f.op == 8 || (f.op == 0 && f.ty.bytes == 4))

end Sys2Proof

/-! ### Waits and timelines -/

/-- twait: a reserved handle is an Illegal Operation with REASON 0x0E; a wait for more than its own task has numbered
on an engine context is a Sync Misuse trap; a wait for an ended task or a number reached completes; every other wait
blocks (R88, R129, R268). tsig raises engine context 4's counter, which never goes down, at its commit (R89). tread
lands the counter, all ones for an ended task (R90). fence: scopes below ridge only commit; the others hold the
context's next bundle until an event ends the wait (R82). pwait completes when PREC of the counter word has reached
its threshold or DONE is set, and blocks otherwise (R129, R267); that the counter is read as a scalar load of 8 bytes, at any
alignment, is the model's choice (log 95). xcancel of a tile that no command of the context has
open takes and completes a number of engine context 2 and changes nothing else; of an open tile it ends the tile for
its member and sets an event for its senders (R266). -/
def Obligations.TimelineResults : Prop :=
  (∀ (g : Guard) (sa sb sd : SCode) (sc : BitVec 3) (land : BitVec 6) (s : State), s.guardOn g = true →
     let h := s.readS sa
     let n := (s.readS sb).toNat
     (s.stage = .issue → s.soundS [sa, sb] →
       (badHandle h → exec (.twait g sa sb) s = illegal s 7 0x0E) ∧
       (¬badHandle h → deadHandle s h → exec (.twait g sa sb) s = .next s) ∧
       (¬badHandle h → ¬deadHandle s h → bitsOf h.toNat 0 13 = s.ctx.slot → bitsOf h.toNat 40 4 ≠ 4 →
         (namedTimeline s h).issued < n → exec (.twait g sa sb) s = trapNow s 7 0x1E 0) ∧
       (¬badHandle h → ¬deadHandle s h →
         (bitsOf h.toNat 0 13 = s.ctx.slot → bitsOf h.toNat 40 4 = 4 ∨ n ≤ (namedTimeline s h).issued) →
         (n ≤ (namedTimeline s h).count → exec (.twait g sa sb) s = .next s) ∧
         ((namedTimeline s h).count < n → s.fabric.unreachable = [] → s.fabric.failedLinks.length < 32 →
           exec (.twait g sa sb) s = .next { s with issue := .blocked }))) ∧
     (s.stage = .commit → s.soundS [sb] → ∃ t, exec (.tsig g sb) s = .next t ∧
       (t.timeline s.ctx.slot 4).count = Nat.max (s.timeline s.ctx.slot 4).count n ∧
       (∀ k e, (k, e) ≠ (s.ctx.slot, 4) → t.timeline k e = s.timeline k e) ∧
       ({ t with slots := s.slots, front := s.front, cqs := s.cqs } : State) = s) ∧
     (s.stage = .issue → s.soundS [sa] → ¬badHandle h →
       (deadHandle s h → ∃ t, exec (.tread g sd sa land) s = .next t ∧
         WroteS (takeLanding s land false true) t sd (BitVec.allOnes 64) (s.due land.toNat)) ∧
       (¬deadHandle s h → ∃ t, exec (.tread g sd sa land) s = .next t ∧
         WroteS (takeLanding s land false true) t sd (BitVec.ofNat 64 (namedTimeline s h).count) (s.due land.toNat))) ∧
     (s.stage = .commit →
       (sc.toNat < 2 → exec (.fence g sc) s = .next s) ∧
       (2 ≤ sc.toNat → ∃ t, exec (.fence g sc) s = .next t ∧ t.ctx.wait = .fence (sc.toNat == 5) s.bundle.addr ∧
         t.work = s.work ++ [.fenceComplete s.cur] ∧
         ({ t.setCtx { t.ctx with wait := s.ctx.wait } with work := s.work } : State) = s.setCtx s.ctx))) ∧
  (∀ (g : Guard) (sa sb : SCode) (s : State), s.guardOn g = true → s.soundS [sa, sb] →
     let va := (s.readS sa).toNat
     let e : Elem := ⟨va, 8, 0⟩
     (∀ v pages, s.stage = .issue → Translates s .scalarLoad false false 1 [e] v pages →
       (∀ l ∈ elemLines pages [e], l ∉ v.poison) →
       let w := v.loaded pages e
       exec (.pwait g sa sb) s = if (s.readS sb).toNat % 16 ≤ w % 256 ∨ w / 256 % 2 = 1
         then .next (noteRead v [(homePa (physOf pages va).pa, 8)]) else .next { v with issue := .blocked }) ∧
     (∀ v pages, s.stage = .issue → va % 64 = 0 → engineFull s.ctx 2 = false → nextNumber s 2 < 2 ^ 64 →
       Translates s .engine false false 64 [⟨va, 64, 0⟩] v pages →
       let n := (s.readS sb).toNat
       let d := descSeen v pages va
       let u := noteBytes (noteRead v [(homePa (physOf pages va).pa, 64)]) 6 d
       (∀ l ∈ linesOf pages ((List.range 64).map fun j => (va + j) % 2 ^ 64), l ∉ v.poison) →
       (cancelTarget u d n = none → exec (.xcancel g sa sb) s = .next u) ∧
       (∀ coll m w cps, cancelTarget u d n = some (coll, m) →
         translatePages u (ctxXlat u u.cur) .engine true false (rangePages (counterAddr m n) 8) [] [] = (w, cps, []) →
         exec (.xcancel g sa sb) s = .next (notePages w 6 cps))) ∧
     (s.stage = .commit → va % 64 = 0 →
       let n := nextNumber s 2
       let d := bytesAt s 6
       (cancelTarget s d (s.readS sb).toNat = none → exec (.xcancel g sa sb) s =
         .next (timelineComplete (takeNumber s s.ctx.slot 2).2 s.ctx.slot 2 n)) ∧
       (∀ coll m k, cancelTarget s d (s.readS sb).toNat = some (coll, m) → amFind s.colls coll = some k → m ∈ k.members →
         ∃ t, exec (.xcancel g sa sb) s = .next t ∧
           (.cancelPropagation coll m.rank (s.readS sb).toNat ∈ t.work) ∧
           (∀ k1, amFind t.colls coll = some k1 → ∃ m1 ∈ k1.members, m1.rank = m.rank ∧ m1.kind = m.kind ∧
             (s.readS sb).toNat ∈ m1.done ∧ (s.readS sb).toNat ∈ m1.cancelled))))

/-- Atomics. A non-returning one checks at its issue and is withheld; when it is performed, the element takes its new value. A
returning one holds its landing at the issue; at the commit the element takes its new value and the old one, extended by its
type, lands; through the fabric window it becomes a request, whose result lands (R84, R103). In a phased task only merge-adds
are legal (R77, R95, R96, R112, R113, R269). -/
def Obligations.AtomicResults : Prop :=
  (∀ (i : Instr) (s : State) (f : AtomicForm), atomicForm i = some f →
    let va := (s.readS f.sa).toNat
    let e : Elem := ⟨va, f.ty.bytes, 0⟩
    (s.ctx.phased = true → f.merges = false → exec i s = illegal s 7 0x11) ∧
    (∀ v w pages, s.stage = .issue → s.guardOn f.guard = true → s.soundS f.srcs → s.ctx.phased = false →
      Translates s .atomic true false f.ty.bytes [e] v pages →
      (f.ret = false → Served v true (elemLines pages [e]) [] w → w.roomW (.atomic f.op f.ty (physOf pages va).pa (s.readS f.sb)) →
        ∃ t, exec i s = .next t ∧ Withheld w t (.atomic f.op f.ty (physOf pages va).pa (s.readS f.sb))) ∧
      (f.ret = true → Served (notePages v 7 pages) true (elemLines pages [e]) [] w →
        exec i s = .next (takeLanding w f.land true true))) ∧
    (∀ v pages, s.stage = .issue → s.guardOn f.guard = true → s.soundS f.srcs → s.ctx.phased = true → f.merges = true →
      Translates s .atomic true true f.ty.bytes [e] v pages →
      v.roomW (.mergeAdd (f.op == 8) (physOf pages va).pa ((s.readS f.sb).setWidth 32)) →
      ∃ t, exec i s = .next t ∧
        Withheld v t (.mergeAdd (f.op == 8) (physOf pages va).pa ((s.readS f.sb).setWidth 32))) ∧
    (s.stage = .commit → s.guardOn f.guard = true → s.soundS f.srcs → s.ctx.phased = false → f.ret = true →
      let pa := (physOf (pagesAt s 7) va).pa
      let old := memNat s.mem pa f.ty.bytes
      rangeOf pa ≠ .fabric → ∃ t u, exec i s = .next t ∧
        u = s.perform (some s.cur) (cellsAt pa (leBytes f.ty.bytes (f.value old (s.readS f.sb).toNat (s.readS f.sd).toNat))) ∧
        WroteS u t f.sd (if f.ty.signed then sext64 (8 * f.ty.bytes) old else zext64 (8 * f.ty.bytes) old)
          (s.due f.land.toNat)) ∧
    (s.stage = .commit → s.guardOn f.guard = true → s.soundS f.srcs → s.ctx.phased = false → f.ret = true →
      let pa := (physOf (pagesAt s 7) va).pa
      rangeOf pa = .fabric → ∃ t, exec i s = .next t ∧ t.mem = s.mem ∧ ∃ o ∈ t.fabric.out, o.ctx = s.cur ∧
        o.req.dest = fabModule pa ∧ o.req.act = .atomic f.op f.ty (pa % 2 ^ 40) (s.readS f.sb) (s.readS f.sd)) ∧
    (∀ pa x, f.op ≠ 7 → rangeOf pa ≠ .fabric → ringsEmpty s →
      (performOp s (.atomic f.op f.ty pa x)).mem =
        memWrite s.mem pa (leBytes f.ty.bytes (f.value (memNat s.mem pa f.ty.bytes) x.toNat 0))))

/-- arrive and drop check their barrier and are withheld; in effect they count, and the last of a phase begins the next one
with the drops taken off (R97, R271, R281). bwait completes once the phase of the context's latest arrive has ended, and
blocks before (R99). A barrier of another launch is a Barrier Fault. qpush and qpop reserve an entry when one is left beside
those that blocked contexts ahead of them and other ranks of their bundle take, and block otherwise; at the commit the token
is appended, or the oldest removed and landed; a queue that is disabled or not the partition's is a Token Queue Fault (R100 to
R102, R272). -/
def Obligations.BarriersAndQueues : Prop :=
  (∀ (g : Guard) (bar : BitVec 5) (s : State), s.guardOn g = true → s.stage = .issue →
    let k := if bar.toNat = 16 then 16 else 17 * (s.cur / 64) + bar.toNat
    let b := amGet Barrier.unowned s.barriers k
    (b.owner ≠ some s.ctx.launch ∨ b.expect = 0 →
      exec (.arrive g bar) s = trapNow s 7 0x1C 0 ∧ exec (.drop g bar) s = trapNow s 7 0x1C 0) ∧
    (b.owner = some s.ctx.launch → b.expect ≠ 0 →
      (s.roomW (.arrive k) → ∃ t, exec (.arrive g bar) s = .next t ∧ Withheld s t (.arrive k)) ∧
      (s.roomW (.drop k) → ∃ t, exec (.drop g bar) s = .next t ∧ Withheld s t (.drop k))) ∧
    (b.owner ≠ some s.ctx.launch → exec (.bwait g bar) s = trapNow s 7 0x1C 0) ∧
    (∀ p, b.owner = some s.ctx.launch → amFind s.ctx.barPhase k = some p →
      (p < b.phase → exec (.bwait g bar) s = .next s) ∧
      (b.phase ≤ p → ∃ t, exec (.bwait g bar) s = .next t ∧ t.issue = .blocked)) ∧
    (b.owner = some s.ctx.launch → amFind s.ctx.barPhase k = none → s.ctx.waitPhase = none →
      ∃ t, exec (.bwait g bar) s = .next t ∧ t.issue = .blocked ∧ t.ctx.waitPhase = some b.phase)) ∧
  (∀ (s : State) (n k : Nat) (drop : Bool),
    let b := amGet Barrier.unowned s.barriers k
    let c := amGet Barrier.unowned (arriveNow s n k drop).barriers k
    (b.count + 1 ≠ b.expect → c.count = b.count + 1 ∧ c.phase = b.phase ∧ c.expect = b.expect) ∧
    (b.count + 1 = b.expect → c.count = 0 ∧ c.phase = b.phase + 1 ∧
      c.expect = b.expect - (b.drops + if drop then 1 else 0)) ∧
    amFind ((arriveNow s n k drop).ctxOf n).barPhase k = some b.phase) ∧
  (∀ (g : Guard) (sa sb sd : SCode) (land : BitVec 6) (s : State), s.guardOn g = true → s.soundS [sa, sb] →
    let q := (s.readS sa).toNat % 256
    let k := amGet TokenQueue.reset s.tokens q
    (s.stage = .issue → (k.en = false ∨ k.parts.getLsbD s.ctx.part = false) →
      exec (.qpush g sa sb) s = trapNow s 7 0x1D 0 ∧ exec (.qpop g sd sa land) s = trapNow s 7 0x1D 0) ∧
    (s.stage = .issue → k.en = true → k.parts.getLsbD s.ctx.part = true → s.ctx.tokenWait ≠ some (q, true) →
      (waitersAhead s k.pushers s.cur + reservedIn s q true + k.entries.length < k.depth.toNat →
        exec (.qpush g sa sb) s = .next (s.setCtx { s.ctx with reserved := some (q, true) })) ∧
      (k.depth.toNat ≤ waitersAhead s k.pushers s.cur + reservedIn s q true + k.entries.length →
        ∃ t, exec (.qpush g sa sb) s = .next t ∧ t.issue = .blocked ∧
          waitPlace s k.pushers s.cur ∈ (amGet TokenQueue.reset t.tokens q).pushers) ∧
      (waitersAhead s k.poppers s.cur + reservedIn s q false < k.entries.length → exec (.qpop g sd sa land) s =
        .next (takeLanding (s.setCtx { s.ctx with reserved := some (q, false) }) land false false)) ∧
      (k.entries.length ≤ waitersAhead s k.poppers s.cur + reservedIn s q false →
        ∃ t, exec (.qpop g sd sa land) s = .next t ∧ t.issue = .blocked ∧
          waitPlace s k.poppers s.cur ∈ (amGet TokenQueue.reset t.tokens q).poppers)) ∧
    (s.stage = .commit →
      (∃ t, exec (.qpush g sa sb) s = .next t ∧
        amGet TokenQueue.reset t.tokens q = { k with entries := k.entries ++ [s.readS sb] } ∧
        (∀ j, j ≠ q → amGet TokenQueue.reset t.tokens j = amGet TokenQueue.reset s.tokens j) ∧ t.mem = s.mem) ∧
      ∀ x xs, k.entries = x :: xs → ∃ t u, exec (.qpop g sd sa land) s = .next t ∧
        amGet TokenQueue.reset t.tokens q = { k with entries := xs } ∧ u.tokens = t.tokens ∧
        u = { s.setCtx { s.ctx with reserved := none } with tokens := t.tokens } ∧
        WroteS u t sd x (s.due land.toNat)))

namespace Sys2Proof

/-! ### Commands of memory-side units, launches, claims -/

/-- n bytes at translated addresses from va, as the context sees them. -/
def bytesSeen (s : State) (pages : List (Nat × Phys)) (va n : Nat) : List Byte :=
  (List.range n).map fun i => s.seen (physOf pages ((va + i) % 2 ^ 64))

/-- At its issue a claim operation finds map m at va: it is aligned, its pages translate as an atomic's, its lines hold no
poison and their tiles serve; this leaves t, which keeps the map's bytes for the commit (R19, R139, R274, R292). -/
def MapFound (s : State) (va : Nat) (t : State) (m : CvMap) : Prop :=
  va % 64 = 0 ∧ ∃ v pages v2 all w,
    let s1 := notePages v 7 pages
    let head : CvMap := { va := va, pages := pages, mem := mapMem s1 }
    let n := ({ head with pages := all } : CvMap).len
    let at_ := (List.range n).map fun i => (va + i) % 2 ^ 64
    let a := engAsk (notePages v2 7 all) v2.cur (at_.map (physOf all))
    translatePages s (mapXlat s) .atomic true false (rangePages va 64) [] [] = (v, pages, []) ∧
    translatePages s1 (mapXlat s1) .atomic true false (rangePages va head.len) [] [] = (v2, all, []) ∧
    m = { va := va, pages := all, mem := mapMem a } ∧ Served a true (linesOf all at_) [] w ∧
    t = noteBytes (noteRead w ((linesOf all at_).map fun l => (64 * l, 64))) 7 m.bytes

/-- Schedule of the map's launch: the schedule register that SREG names (R291). -/
def scheduleOf (s : State) (m : CvMap) : Nat := (amGet (0 : Word) (s.launchOf s.ctx.launch).sched m.sreg).toNat

end Sys2Proof

/-! ### Reductions, launches, claims -/

/-- mred: illegal in a phased task (REASON 0x11) and on a block, or with a FLAG, that is not aligned (0x0E); it passes its
checks on the block and FLAG's page at its issue; at the commit the command takes its number and the block that the check has
read (R139), and travels to FLAG's unit (R92, R113, R270). launch: illegal in a phased task; a record that breaks its rules, a
depth past 4 or a queue that is not open is a Launch Record Fault with its code; at the commit a launch with the 256 bytes of
the record that the check has read enters its queue, and engine context 5 takes a number (R139, R273, R283). That a record's
reads are those of a scalar load is the model's choice (log 26). -/
def Obligations.ReductionAndLaunch : Prop :=
  ∀ (g : Guard) (sa sb : SCode) (s : State), s.guardOn g = true →
    let va := (s.readS sa).toNat
    let q := (s.readS sb).toNat % 64
    (s.ctx.phased = true → exec (.mred g sa) s = illegal s 7 0x11 ∧ exec (.launch g sa sb) s = illegal s 7 0x11) ∧
    (s.ctx.phased = false → s.stage = .issue → nextNumber s 3 < 2 ^ 64 → s.soundS [sa] →
      (va % 64 ≠ 0 → exec (.mred g sa) s = illegal s 7 0x0E) ∧
      (va % 64 = 0 → engineFull s.ctx 3 = true → exec (.mred g sa) s = .next { s with issue := .blocked }) ∧
      (∀ v pages, va % 64 = 0 → engineFull s.ctx 3 = false →
        translatePages s (ctxXlat s s.cur) .vectorLoad false false (touched va 192 0) [] [] = (v, pages, []) →
        (∀ l ∈ linesOf pages ((List.range 192).map fun i => (va + i) % 2 ^ 64), l ∉ v.poison) →
        let b := bytesSeen v pages va 192
        let u := noteRead v ((List.range 3).map fun i => (homePa (physOf pages (va + 64 * i)).pa, 64))
        (blockFlag b % 8 ≠ 0 → exec (.mred g sa) s = illegal u 7 0x0E) ∧
        (∀ w fs, blockFlag b % 8 = 0 →
          translatePages u (ctxXlat u u.cur) .reduction true false [(blockFlag b / 65536, 0)] [] [] = (w, fs, []) →
          exec (.mred g sa) s = .next (noteBytes (w.setCtx { w.ctx with resolved := w.ctx.resolved ++
            [{ slot := 8, page := 0, pa := (physOf fs (blockFlag b)).pa, kind := .memorySide }] }) 7 b)))) ∧
    (s.ctx.phased = false → s.stage = .commit → s.soundS [sa] → ∃ t k r, exec (.mred g sa) s = .next t ∧
      Pushed s t k ∧ k.eng = 3 ∧ k.work = .reduce (bytesAt s 7) ∧ t.reductions = s.reductions ++ [r] ∧
      r.slot = s.ctx.slot ∧ r.num = k.num ∧ r.block = bytesAt s 7 ∧ r.flag = flagResolved s ∧
      r.stack = stackOf r.flag ∧ r.arrived = false ∧ r.line = 0 ∧
      .mredArrival (s.ctx.slot + 8192 * k.num) ∈ t.work ∧ t.mem = s.mem) ∧
    (∀ v pages, s.ctx.phased = false → s.stage = .issue → s.soundS [sa, sb] → engineFull s.ctx 5 = false →
      nextNumber s 5 < 2 ^ 64 → va % 64 = 0 →
      translatePages s (ctxXlat s s.cur) .vectorLoad false false (touched va 256 0) [] [] = (v, pages, []) →
      (∀ l ∈ linesOf pages ((List.range 256).map fun i => (va + i) % 2 ^ 64), l ∉ v.poison) →
      let r := bytesSeen v pages va 256
      let x := amGet LaunchQueue.reset s.queues q
      (recordOk v x.part r = false → exec (.launch g sa sb) s = trapNow v 7 0x17 0) ∧
      (recordOk v x.part r = true → 4 ≤ (s.launchOf s.ctx.launch).depth →
        exec (.launch g sa sb) s = trapNow v 7 0x17 1) ∧
      (recordOk v x.part r = true → (s.launchOf s.ctx.launch).depth < 4 →
        (x.cfg.getLsbD 0 = false ∨ x.cfg.getLsbD 16 = false ∨ x.part ≠ s.ctx.part) →
        exec (.launch g sa sb) s = trapNow v 7 0x17 2) ∧
      (recordOk v x.part r = true → (s.launchOf s.ctx.launch).depth < 4 → x.cfg.getLsbD 0 = true → x.cfg.getLsbD 16 = true →
        x.part = s.ctx.part → exec (.launch g sa sb) s = .next (noteBytes (noteRead v
          ((List.range 4).map fun i => (homePa (physOf pages (va + 64 * i)).pa, 64))) 7 r))) ∧
    (s.ctx.phased = false → s.stage = .commit → s.soundS [sa, sb] → ∃ t l, exec (.launch g sa sb) s = .next t ∧
      (t.timeline s.ctx.slot 5).issued = nextNumber s 5 ∧ t.nextLaunch = s.nextLaunch + 1 ∧
      amGet Launch.none t.launches s.nextLaunch = l ∧ l.record = bytesAt s 7 ∧ l.va = va ∧
      l.launcher = .task s.ctx.launch s.ctx.task s.ctx.slot (nextNumber s 5) ∧ l.queue = q ∧
      l.depth = (s.launchOf s.ctx.launch).depth + 1 ∧ l.asid = s.ctx.arch.asid ∧ l.ttb = s.ctx.arch.ttb ∧
      l.complete = false ∧ l.tasks.length = taskTotal l.record ∧ (∀ r ∈ l.tasks, r.state = .unplaced ∧ r.retries = 0) ∧
      (amGet LaunchQueue.reset t.queues q).items = (amGet LaunchQueue.reset s.queues q).items ++ [.launch s.nextLaunch] ∧
      (∀ j, j ≠ s.nextLaunch → amGet Launch.none t.launches j = amGet Launch.none s.launches j) ∧ t.mem = s.mem)

/-- The cells that a claim takes form a rectangle of clear cells inside the map and inside one grain of the schedule,
from the first clear cell in the schedule's order; no claim is found only when no cell is clear (R292). cvclaim passes
its checks at its issue and holds a landing entry; its commit acts on the map that the check has read (R139): it marks the
cells, fills the lowest free entry of the claim table, remembers the claim and returns its claim word, or returns 2^63 and
changes nothing when no cell is clear; the tuner's claim at its issue, and a claim of clear cells without a free entry, at the
issue and at the commit, is a Coverage Fault. cvdone passes its checks when the context holds the claim or it was released, and
is a Coverage Fault otherwise; its commit sets the entry's state to 10 and forgets the claim, and changes no memory for a
released one (R274, R292, R296). That a claim is held when the context and the map's entry both have it is the model's
reading (log 31). -/
def Obligations.CoverageClaims : Prop :=
  (∀ (m : CvMap) (g h w r0 c0 : Nat), m.choose g = some (h, w, r0, c0) →
    let th := if g / 256 % 256 = 0 then 1 else g / 256 % 256
    let tw := if g % 256 = 0 then 1 else g % 256
    0 < h ∧ 0 < w ∧ r0 + h ≤ m.rows ∧ c0 + w ≤ m.cols ∧ r0 / th = (r0 + h - 1) / th ∧ c0 / tw = (c0 + w - 1) / tw ∧
      (∀ i j, i < h → j < w → m.clear (r0 + i) (c0 + j) = true) ∧
      ∀ r c, r < m.rows → c < m.cols → m.clear r c = true →
        if g / 65536 % 4 = 1 then c0 < c ∨ (c = c0 ∧ r0 ≤ r) else r0 < r ∨ (r = r0 ∧ c0 ≤ c)) ∧
  (∀ (m : CvMap) (g : Nat), m.choose g = none → ∀ r c, r < m.rows → c < m.cols → m.clear r c = false) ∧
  (∀ (g : Guard) (sd sa sb : SCode) (land : BitVec 6) (s : State), s.guardOn g = true → s.stage = .commit →
    (s.readS sa).toNat % 64 = 0 →
    let m := mapAt s (s.readS sa).toNat
    (∀ x t, s.soundS [sa] → m.lost s = none → m.choose (scheduleOf s m) = some x → m.free = some t →
      let cells := m.mark (shapeBits x) true ++ m.cells (0x40 + 16 * t) 8 (2 ^ 62 + s.ctx.task)
        ++ m.cells (0x48 + 16 * t) 8 (shapeBits x)
      let p := mapStore s cells
      let u := p.setCtx { p.ctx with claims := p.ctx.claims ++ [
        { mapPa := m.pa 0, tag := t, dropped := false, va := m.va, pages := m.pages.map fun y => (y.1, y.2.pa) }] }
      ∃ t2, exec (.cvclaim g sd sa land) s = .next t2 ∧
        WroteS u t2 sd (BitVec.ofNat 64 (t * 2 ^ 48 + shapeBits x)) (s.due land.toNat)) ∧
    (s.soundS [sa] → m.lost s = none → m.choose (scheduleOf s m) = none →
      ∃ t2, exec (.cvclaim g sd sa land) s = .next t2 ∧ WroteS s t2 sd (BitVec.ofNat 64 (2 ^ 63)) (s.due land.toNat)) ∧
    (s.soundS [sa] → m.lost s = none → m.choose (scheduleOf s m) ≠ none → m.free = none →
      exec (.cvclaim g sd sa land) s = trapNow s 7 0x12 0) ∧
    (s.soundS [sa] → m.lost s ≠ none → ∃ t2, exec (.cvclaim g sd sa land) s = .next t2 ∧ t2.mem = s.mem) ∧
    (s.soundS [sa, sb] →
      let t := (s.readS sb).toNat / 2 ^ 48 % 4096
      let mine := s.ctx.claims.find? fun k => k.mapPa == m.pa 0 && k.tag == t
      let u := if (match mine with
          | some k => k.dropped
          | none => false) || (m.lost s).isSome then s
        else mapStore s (m.cells (0x40 + 16 * t) 8 (2 ^ 63 + s.ctx.task))
      exec (.cvdone g sa sb) s =
        .next (u.setCtx { u.ctx with claims := u.ctx.claims.filter fun k => !(k.mapPa == m.pa 0 && k.tag == t) }))) ∧
  (∀ (g : Guard) (sd sa sb : SCode) (land : BitVec 6) (s t : State) (m : CvMap), s.guardOn g = true → s.stage = .issue →
    MapFound s (s.readS sa).toNat t m →
    let x := m.choose (scheduleOf t m)
    (s.soundS [sa] →
      (isTuner t = false → (x = none ∨ m.free ≠ none) → exec (.cvclaim g sd sa land) s = .next (takeLanding t land true true)) ∧
      ((isTuner t = true ∨ (x ≠ none ∧ m.free = none)) → exec (.cvclaim g sd sa land) s = trapNow t 7 0x12 0)) ∧
    (s.soundS [sa, sb] →
      let w := (s.readS sb).toNat
      let e := w / 2 ^ 48 % 4096
      let mine := t.ctx.claims.find? fun k => k.mapPa == m.pa 0 && k.tag == e
      let gone := match mine with
        | some k => k.dropped
        | none => false
      let held := mine ≠ none ∧ e < m.tags ∧ m.state e = 1 ∧ m.word (0x40 + 16 * e) 4 = t.ctx.task ∧
        m.word (0x48 + 16 * e) 8 % 2 ^ 48 = w % 2 ^ 48 ∧ w / 2 ^ 63 = 0
      (gone = true ∨ held → exec (.cvdone g sa sb) s = .next t) ∧
      (gone = false → ¬held → exec (.cvdone g sa sb) s = trapNow t 7 0x12 0)))

/-! ### Operations of the system -/

/-- trap commits its bundle and leaves the trap to be taken after it, and has no effect but the trap in handler mode; halt
stops the context's issue, ffence makes fetches current, phase ends the task's part of the phase; the invalidations are
privileged, drop at their commit exactly the entries of their scope that they name, and wait for accesses to the physical
ranges of the leaves among them (R23, R24, R117, R275 to R277, R304). That y.trap in a handler is raised at its issue (log 66),
and the ranges that an invalidation waits for (log 70), are the model's choice. -/
def Obligations.SystemOperations : Prop :=
  ∀ (g : Guard) (sa sb : SCode) (code : BitVec 8) (sc : BitVec 3) (s : State),
    let fault := BitVec.ofNat 64 (code.toNat * 2 ^ 56 + (s.readS sa).toNat % 2 ^ 56)
    (s.guardOn g = true → s.soundS [sa] →
      (s.stage = .issue → s.ctx.handler = false → exec (.trap g sa code) s = .next s) ∧
      (s.stage = .issue → s.ctx.handler = true → exec (.trap g sa code) s = trapNow s 7 0x08 fault) ∧
      (s.stage = .commit → exec (.trap g sa code) s = .next (s.setCtx { s.ctx with softTrap := some fault }))) ∧
    (s.guardOn g = true → s.stage = .issue → exec (.halt g) s = .next s ∧ exec (.ffence g) s = .next s ∧
      (s.ctx.phased = true → exec (.phase g) s = .next s)) ∧
    (s.ctx.phased = false → exec (.phase g) s = illegal s 7 0x11) ∧
    (s.guardOn g = true → s.stage = .commit →
      (∃ t, exec (.halt g) s = .next t ∧ t.ctx = { s.ctx with life := .halting } ∧
        t.work = s.work ++ [.taskHaltComplete s.cur] ∧ t.mem = s.mem) ∧
      exec (.ffence g) s = .next (s.setCtx { s.ctx with fetchFrom := s.history.length }) ∧
      (s.ctx.phased = true → exec (.phase g) s =
        .next (s.setCtx { s.ctx with phaseDone := true, phaseAt := s.bundle.addr }))) ∧
    (s.ctx.handler = false → exec (.tinvPage g sa sb sc) s = privileged s 7 ∧ exec (.tinvAsid g sb sc) s = privileged s 7 ∧
      exec (.tinvAll g sc) s = privileged s 7) ∧
    (s.ctx.handler = true → s.guardOn g = true → s.soundS [sa, sb] →
      let asid : BitVec 16 := (s.readS sb).setWidth 16
      let names := fun (i : Instr) (e : TlbEntry) =>
        match i with
        | .tinvPage .. => (e.asid = asid || (e.leaf && e.entry.getLsbD 9)) &&
            e.vpn = (s.readS sa).toNat / 2 ^ (if e.level = 0 then 55 else if e.level = 1 then 42 else if e.level = 2 then 29
              else 16)
        | .tinvAsid .. => e.asid = asid && !(e.leaf && e.entry.getLsbD 9)
        | _ => true
      ∀ i ∈ [Instr.tinvPage g sa sb sc, .tinvAsid g sb sc, .tinvAll g sc],
        (s.stage = .issue → exec i s = .next s) ∧
        (s.stage = .commit → ∃ t, exec i s = .next t ∧
          t.tlb = s.tlb.filter (fun e => !(inScope s.cur sc.toNat e && names i e)) ∧
          (∃ rs, t.ctx.wait = .tinv sc.toNat rs ∧
            ∀ e ∈ s.tlb, e.leaf = true → inScope s.cur sc.toNat e = true → names i e = true →
              (e.level = 2 → (e.entry.toNat / 2 ^ 29 % 2 ^ 23 * 2 ^ 29, 2 ^ 29) ∈ rs) ∧
              (e.level ≠ 2 → (e.entry.toNat / 2 ^ 16 % 2 ^ 36 * 65536, 65536) ∈ rs)) ∧
          t.work = s.work ++ [.tinvComplete s.cur] ∧ t.mem = s.mem))

/-- smap maps an empty tile: it begins to fill, or with .z the range is stored as zeros and the tile is ready with every line
zero-flagged, unless the context's writes are dropped (R296); sdrain sends a tile to drain, with its KEEP (R57, R58, R62). A
tile past the window is an Illegal Operation with REASON 0x0E; a tile that is not empty, or a misaligned range, a Stash Map
Fault. -/
def Obligations.StashMaps : Prop :=
  ∀ (g : Guard) (z : Bool) (q : QCode) (sa : SCode) (s : State), s.guardOn g = true → s.soundS [sa] →
    let op : BitVec 2 := if z then 1 else 0
    let i := 512 * (s.cur / 4) + s.ctx.swinBase + q.toNat
    let va := (s.readS sa).toNat
    let t0 := amGet StashTile.empty s.stash i
    (s.ctx.swinCount ≤ q.toNat → exec (.smap g op q sa) s = illegal s 7 0x0E ∧ exec (.sdrain g op q) s = illegal s 7 0x0E) ∧
    (q.toNat < s.ctx.swinCount →
      (s.stage = .issue → (t0.state ≠ .empty ∨ va % 4096 ≠ 0) → exec (.smap g op q sa) s = trapNow s 7 0x18 0) ∧
      (∀ v pages, z = false → s.stage = .issue → t0.state = .empty → va % 4096 = 0 →
        translatePages s (ctxXlat s s.cur) .stashFill false false [(va / 65536, 0)] [] [] = (v, pages, []) →
        servingMaps (notePages v 7 pages) s.cur ((physOf pages va).pa / 4096) ((physOf pages va).kind == .zero) = false →
        exec (.smap g op q sa) s = .next (notePages v 7 pages)) ∧
      (∀ v pages, z = true → s.stage = .issue → t0.state = .empty → va % 4096 = 0 →
        translatePages s (ctxXlat s s.cur) .stashFill true false [(va / 65536, 0)] [] [] = (v, pages, []) →
        let u := notePages v 7 pages
        let cells := cellsAt (physOf pages va).pa (List.replicate 4096 0)
        servingMaps u s.cur ((physOf pages va).pa / 4096) ((physOf pages va).kind == .zero) = false →
        wsOverflows u u.cur (u.ctx.withheld ++ [.store cells]) = false → exec (.smap g op q sa) s = .next u) ∧
      (s.stage = .commit →
        let p := physOf (pagesAt s 7) va
        ∃ t u, exec (.smap g op q sa) s = .next t ∧ u = amGet StashTile.empty t.stash i ∧ u.pa = p.pa / 4096 ∧
          u.va = va / 4096 ∧ u.rule = none ∧ u.keep = false ∧
          (z = false → u.state = .filling ∧ u.present = 0 ∧ u.dirty = 0 ∧ u.zero = 0 ∧ t.mem = s.mem) ∧
          (z = true → u.state = .ready ∧ u.present = BitVec.allOnes 64 ∧
            u.zero = (if s.ctx.dropsWrites then 0 else BitVec.allOnes 64) ∧
            t = (performStores s s.cur 6 0 (cellsAt p.pa (List.replicate 4096 0))).setTile i u)) ∧
      (s.stage = .issue → exec (.sdrain g op q) s = .next s) ∧
      (s.stage = .commit → (t0.state = .ready ∨ t0.state = .filling) → ∃ t, exec (.sdrain g op q) s = .next t ∧
        amGet StashTile.empty t.stash i = { t0 with state := .draining, keep := z } ∧
        t.work = s.work ++ [.stashDrainComplete s.cur i] ∧ t.mem = s.mem) ∧
      (s.stage = .commit → t0.state = .empty → exec (.sdrain g op q) s = .next s))

/-- mrtab writes to the rule table rows ROW to ROW + 15 of its tile register, 1,024 bytes (R246). A linked mrule outside a
gang stream, to which no handler's bundle belongs, is an Illegal Operation with REASON 0x0E (R157, R250, R300). mrule checks
at its issue that its tile is ready and that the tile and the rule table are free of poison; at the commit the tile runs GENS
generations of the table that the context holds, and its data is not to be had by name before they have ended; the rank 0 of a
linked gang moves all sixteen (R247 to R250). One generation of a tile of its own replaces every cell by its table entry for
the cell's neighbourhood in the old state. -/
def Obligations.RuleMode : Prop :=
  (∀ (g : Guard) (n : TCode) (row : BitVec 6) (s : State), s.guardOn g = true → s.soundT n → row.toNat ≤ 48 →
     ∃ x, exec (.mrtab g n row) s = .next (s.modArch fun a => { a with ruleTab := x }) ∧
       ∀ b, b < 8192 → x.getLsbD b = (s.readT n).getLsbD (512 * row.toNat + b)) ∧
  ((∀ (g : Guard) (q : QCode) (mode : BitVec 2) (chk : Bool) (bnd : BitVec 2) (fix : BitVec 4) (gens : BitVec 8) (s : State),
     s.guardOn g = true →
     let i := 512 * (s.cur / 4) + s.ctx.swinBase + q.toNat
     let t0 := amGet StashTile.empty s.stash i
     ((bnd.toNat = 2 ∧ (s.ctx.gang = false ∨ s.ctx.handler = true)) ∨ s.ctx.swinCount ≤ q.toNat →
       exec (.mrule g q mode chk bnd fix gens) s = illegal s 3 0x0E) ∧
     ((bnd.toNat = 2 → s.ctx.gang = true ∧ s.ctx.handler = false) → q.toNat < s.ctx.swinCount →
       (s.stage = .issue → t0.state = .empty → exec (.mrule g q mode chk bnd fix gens) s = trapNow s 3 0x18 0) ∧
       (s.stage = .issue → t0.state = .ready → t0.zeroPage = false → s.ctx.phased = false → s.sound [5072] →
         (∀ l, l < 64 → 64 * t0.pa + l ∉ s.poison) → exec (.mrule g q mode chk bnd fix gens) s = .next s) ∧
       (s.stage = .commit → ∃ t, exec (.mrule g q mode chk bnd fix gens) s = .next t ∧ t.mem = s.mem ∧
         amGet StashTile.empty t.stash i = { t0 with
           state := .filling
           gen := gens.toNat
           rule := some { order := s.tick, mode := mode, chk := chk, bnd := bnd, fix := fix, table := s.ctx.arch.ruleTab } } ∧
         t.work = if bnd.toNat = 2 ∧ s.ctx.rank ≠ 0 then s.work else s.work ++ [.ruleGeneration s.cur i]))) ∧
   (∀ (st : RuleStep) (x : Nat), st.chk = false → st.mode.toNat < 3 → st.bnd.toNat < 2 → x < 2 ^ 32768 →
     let w := [2, 1, 4].getD st.mode.toNat 0
     let cell := fun (r c : Int) =>
       if st.bnd.toNat = 0 ∧ (r < 0 ∨ 64 ≤ r ∨ c < 0 ∨ 64 ≤ c) then st.fix.toNat
       else x / 2 ^ (8 * (64 * (r % 64).toNat + (c % 64).toNat)) % 2 ^ w
     let around := fun (r c : Int) => [cell (r - 1) (c - 1), cell (r - 1) c, cell (r - 1) (c + 1), cell r (c + 1),
       cell (r + 1) (c + 1), cell (r + 1) c, cell (r + 1) (c - 1), cell r (c - 1)]
     let index := fun (r c : Int) =>
       match st.mode.toNat with
       | 0 => 256 * cell r c + 64 * cell (r - 1) c + 16 * cell r (c + 1) + 4 * cell (r + 1) c + cell r (c - 1)
       | 1 => 256 * cell r c + (around r c).zipIdx.foldl (fun n p => n + p.1 * 2 ^ ([7, 6, 5, 4, 3, 2, 1, 0].getD p.2 0)) 0
       | _ => 128 * cell r c + (around r c).foldl (· + ·) 0
     ∀ k, k < 4096 →
       let old := x / 2 ^ (8 * k) % 256
       (ruleGen st.chk [st] [x]).map (fun y => y / 2 ^ (8 * k) % 256) =
         [old / 2 ^ w * 2 ^ w + st.table.toNat / 2 ^ (w * index (k / 64 : Nat) (k % 64 : Nat)) % 2 ^ w]))
namespace Sys2Proof

/-! ### Guards -/

/-- The checks that an operation makes whatever its guard pass (R164): privilege, windows, the gang, the phase. -/
def checksPass (s : State) : Instr → Bool
  | .wrsp _ _ (.sys r) => s.ctx.handler && (r == .epc || r == .ttb || r == .asid)
  | .mma _ o | .mmaz _ o | .mmam _ o _ _ =>
    o.acc.toNat + 16 ≤ s.ctx.awinCount && (o.mr.isNone || (s.ctx.gang && !s.ctx.handler))
  | .stq _ _ q => q.toNat < s.ctx.swinCount
  | .aclr _ acc n => acc.toNat + (n.toNat + 1) ≤ s.ctx.awinCount
  | .xav _ _ acc | .xva _ _ acc => acc.toNat + 1 ≤ s.ctx.awinCount
  | .mrule _ q _ _ bnd _ _ => (bnd.toNat != 2 || (s.ctx.gang && !s.ctx.handler)) && q.toNat < s.ctx.swinCount
  | .smap _ _ q _ | .sdrain _ _ q => q.toNat < s.ctx.swinCount
  | .mred .. | .launch .. => !s.ctx.phased
  | .phase .. => s.ctx.phased
  | .tinvPage .. | .tinvAsid .. | .tinvAll .. => s.ctx.handler
  | i => match atomicForm i with
    | some f => !s.ctx.phased || f.merges
    | none => true

end Sys2Proof

/-! ### Guards, traps -/

/-- Every operation of a slot whose guard is false, control transfers and microprogram calls apart, completes and changes
nothing, in every state, but that a load or another landing operation holds its landing-buffer entry (R134, R159, R168). -/
def Obligations.FalseGuards : Prop :=
  ∀ (i : Instr) (g : Guard) (s : State), guardOf i = some g → i.WellFormed → s.guardOn g = false → checksPass s i = true →
    (s.stage = .issue ∨ actsAtCommit i = true) →
    exec i s = match s.stage, landField i with
      | .issue, some k => .next (takeLanding s k false false)
      | _, _ => .next s

/-- Taking a trap in task mode rolls the context back to its last checkpoint and puts it in handler mode at TRAPENT with
sr.cause, sr.fault and sr.epc, the fault record stored at RECBASE + 128·CTX; with its first four words as Table 15-3a lays
them out for a cause without pages, where no reserved range lies there (log 88). Nothing else of memory and of the other
contexts changes, but that a span that has read those bytes is stale. The other ranks of a gang hold, each with cause 0x22
(R141, R149, R297 to R301, R305). In a gang the other ranks that are in task mode roll back with it and hold: their cause is
0x22 with ORIG the fault's (R149, R305). A trap in handler mode, a Fabric Delivery Fault among them, parks the context, of a
gang all sixteen, with cause 0x21 and ORIG the handled trap's, at its checkpoint, and one entry goes to the ring of its ASID,
written or held (R304 to R306). A trap whose route is containment takes the context out of handler mode (R298). -/
def Obligations.TakingTraps : Prop :=
  (∀ (s : State) (n : Nat) (t : Trap), (s.ctxOf n).handler = false → t.cause ∉ [0x13, 0x1A, 0x1F] → ringsEmpty s →
     (s.ctxOf n).gang = false → t.extra.length ≤ 12 →
     let c := s.ctxOf n
     let k := amGet Core.reset s.cores (n / 4)
     let u := takeTrapOf s n t
     let d := u.ctxOf n
     let at1 := k.recbase.toNat + 128 * (n % 4)
     (d.handler = true ∧ d.hpc = k.trapent &&& ~~~63#64 ∧ d.hxfer = { delay := 0, target := none } ∧
       d.cause = BitVec.ofNat 64 t.cause ∧ d.fault = t.fault ∧
       d.arch = { c.ckpt with epc := c.ckpt.pc &&& ~~~63#64 } ∧ d.ckpt = d.arch ∧ d.withheld = [] ∧
       d.landings = (c.landings.filter fun l => c.ckpt.awaits l.id).map (fun l => { l with due := c.ckpt.sched }) ∧
       d.bypass = [] ∧ d.journalV = [] ∧ d.journalA = [] ∧ d.spanReads = [] ∧ d.softTrap = none ∧
       d.hs = c.hs.settle ∧ d.hp = c.hp.settle) ∧
     (∀ a, (a < at1 ∨ at1 + 128 ≤ a) → memGet u.mem a = memGet s.mem a) ∧
     (MemInv s → t.pages = none → t.cause < 256 → t.slot < 16 → (∀ i, i < 128 → rangeOf (at1 + i) ≠ .reserved) →
       memNat u.mem at1 8 = c.ckpt.asid.toNat * 2 ^ 48 + t.cause * 2 ^ 40 + t.slot * 2 ^ 32 ∧
       memNat u.mem (at1 + 8) 8 = t.bva.toNat ∧ memNat u.mem (at1 + 16) 8 = t.fault.toNat ∧
       memNat u.mem (at1 + 24) 8 = (c.ckpt.pc &&& ~~~63#64).toNat) ∧
     (∀ m, m ≠ n → { u.ctxOf m with spanStale := (s.ctxOf m).spanStale } = s.ctxOf m) ∧
     u.rings = s.rings ∧ u.launches = s.launches ∧ u.barriers = s.barriers ∧ u.slots = s.slots) ∧
  ((∀ (s : State) (n j : Nat) (t : Trap), (s.ctxOf n).handler = false → t.cause ∉ [0x13, 0x1A, 0x1F] →
     (s.ctxOf n).gang = true → j < 16 → n = n / 64 * 64 + 4 * (n / 4 % 16) →
     let m := n / 64 * 64 + 4 * j
     m ≠ n → (s.ctxOf m).gang = true → (s.ctxOf m).handler = false →
     let d := (takeTrapOf s n t).ctxOf m
     let c := s.ctxOf m
     d.wait = .gangHold ∧ d.cause = BitVec.ofNat 64 (0x22 + 256 * t.cause) ∧ d.handler = false ∧
       d.arch = { c.ckpt with epc := c.ckpt.pc &&& ~~~63#64 } ∧ d.withheld = [] ∧
       d.landings = (c.landings.filter fun l => c.ckpt.awaits l.id).map fun l => { l with due := c.ckpt.sched }) ∧
   (∀ (s : State) (n : Nat) (t : Trap), (s.ctxOf n).handler = true → t.cause ≠ 0x13 →
     let c := s.ctxOf n
     let u := takeTrapOf s n t
     let d := u.ctxOf n
     let k := ringOf s c.ckpt.asid.toNat
     let r := amGet Ring.reset s.rings k
     let q := amGet Ring.reset u.rings k
     d.parked = true ∧ d.handler = false ∧ d.cause = BitVec.ofNat 64 (0x21 + 256 * (c.cause.toNat % 256)) ∧
       d.fault = c.fault ∧ d.arch = c.ckpt ∧ q.tail + q.held.length = r.tail + r.held.length + 1 ∧
       (c.gang = false → ∀ m, m ≠ n → { u.ctxOf m with spanStale := (s.ctxOf m).spanStale } = s.ctxOf m) ∧
       (c.gang = true → ∀ m ∈ gangOf n, (u.ctxOf m).parked = true ∧ (u.ctxOf m).handler = false)) ∧
   (∀ (s : State) (n : Nat) (t : Trap), t.cause ∈ [0x13, 0x1A, 0x1F] → ((takeTrapOf s n t).ctxOf n).handler = false))
/-! ### The machine as a whole -/

/-- What reset leaves, as the manual gives it: no task anywhere, every register file, predicate, lane mask, accumulator and
special register of a context zero or as Table 7-1 has it, HBM zero and not yet usable, stash tiles empty, timelines and
barriers free, token, launch and command queues and rings disabled, TRAPENT and RECBASE zero, AGE 2^20, no wall cycle
passed; and both invariants hold (R4, R69, R70, R86, R101, R122, R282, R283, R306, R344). -/
def Obligations.ResetLeaves : Prop :=
  let s := State.reset
  (∀ n, s.ctxOf n = Ctx.idle) ∧ Ctx.idle.life = .idle ∧ Ctx.idle.handler = false ∧ Ctx.idle.parked = false ∧
    (∀ n, Ctx.idle.arch.s.settled n = 0 ∧ Ctx.idle.arch.p.settled n = 0 ∧ Ctx.idle.arch.m.settled n = 0 ∧
      Ctx.idle.arch.v.settled n = 0 ∧ Ctx.idle.arch.t.settled n = 0 ∧ Ctx.idle.arch.acc.settled n = 0) ∧
    (∀ a, memGet s.mem a = 0) ∧ s.hbmReady = false ∧ s.work = [.hbmZeroComplete] ∧
    (∀ i, (s.tile i).state = .empty) ∧ (∀ k, (amGet TSlot.free s.slots k).held = false) ∧
    (∀ k e, (s.timeline k e).count = 0 ∧ (s.timeline k e).issued = 0) ∧
    (∀ k, (s.barrier k).owner = none) ∧ (∀ q, (s.token q).en = false) ∧ (∀ q, (s.lq q).cfg = 0) ∧ (∀ q, (s.cq q).en = false) ∧
    (∀ k, (amGet Ring.reset s.rings k).cfg = 0) ∧
    (∀ k, (amGet Core.reset s.cores k).trapent = 0 ∧ (amGet Core.reset s.cores k).recbase = 0) ∧
    s.age = 2 ^ 20 ∧ s.wall = 0 ∧ s.poison = [] ∧ MemInv s ∧ BootInv s

/-- Until HBM is zeroed the units that zero it are the only agents that move: every step keeps that, and while HBM is not
ready a step changes nothing but time, the turn, the work that is left and, when the units report, hbmReady (R70). -/
def Obligations.BootKeepsOrder : Prop :=
  (∀ s t : State, BootInv s → step s = .next t → BootInv t) ∧
  (∀ s t : State, BootInv s → s.hbmReady = false → ringsEmpty s → step s = .next t →
    t = { s with wall := t.wall, tick := t.tick, turn := t.turn, work := t.work, hbmReady := t.hbmReady,
                 waiting := t.waiting, patience := t.patience } ∧
      (t.hbmReady = true → .hbmZeroComplete ∈ s.work))

/-- Every step, of a bundle, an event or the outside world, keeps memory in its canonical form: addresses rise and no
listed byte is zero, so that equal memories are equal data. -/
def Obligations.MemoryStaysCanonical : Prop :=
  ∀ s t : State, MemInv s → step s = .next t → MemInv t

/-- The turn of a core whose context n, the first in its rotation, may be tried: the bytes at its next bundle's address
are fetched, and when their one used slot decodes to i, with every check passed and nothing to wait for, the step is exec
of i, its commit in a checkpoint bundle, then the end of the bundle: registers, clock and transfer move on, and the core
has used its wall cycle; but nothing of it happens while its stores wait for another context's held span (R78, R81, R128,
R129, R139, R154, R289). An operation of a bundle is exec of it, whenever no register of the context holds poison, and at the
commit; poison of a guard or of a register that the operation would consume raises a Machine Check first, unless the
operation raises an Illegal or Privileged Operation whatever that register holds (R65, R164, R165). The cycle of the issue
(log 110), the order of stores and held spans of one core (log 103) and the sr.fault 0 of a poisoned register (log 123) are the
model's choice. -/
def Obligations.StepRunsDecoded : Prop :=
  (∀ (s s1 s3 : State) (n b : Nat) (sl : Slot) (i : Instr),
    let k := n / 4
    let w := { s with wall := s.wall + Config.wallAdvance s.tick }
    let p0 := { w with wall := issueCycle w [n] }
    let s0 := { p0 with cur := n, issue := .ok, stage := .issue, raised := none }
    let addr := nextPc (s.ctxOf n)
    let s2 := { drainPorts [n] b { s1 with bundle := headerInfo b addr } with cur := n }
    let ends := fun (x : State) => (endGroup [n] x).issue = .ok ∨ (endGroup [n] x).issue.isTrap = true
    let done := fun (x : State) => (Host.Outcome.next (settleTurn (some (.core k))
      (match holderOf p0 (endGroup [n] x) [n] with
       | some m => asHeld w n m
       | none => issued p0 (endGroup [n] x) [n])) : Host.Outcome State Fault Refusal)
    s.turn = .core k → coreWaits w k = false → ridgeBrake w k = 0 → (rotation w k).head? = some n →
    groupOf w n = some [n] → (s.ctxOf n).blocked = false → failedFor s0 false n = none → landingLate (s0.ctxOf n) = false →
    fetchBundle (freeLandings s0 n) n addr = .ok s1 b →
    s2.bundle.canonical = false → usedSlots b = [sl] → decodeSlot sl (slotWord b sl) = .ok i →
    verdictOf s2 b = .go → execOp i s2 = .next s3 → s3.issue = .ok → s3.cur = n →
    (s3.bundle.ckpt = false → ends s3 → step s = done s3) ∧
    (s3.bundle.ckpt = true → (commitChecks s3).issue = .ok →
      let s5 := { performWithheld (commitChecks s3) with stage := .commit }
      s5.issue = .ok →
      (actsAtCommit i = false → overfull s5 = false → ends { s5 with stage := .issue } → step s = done { s5 with stage := .issue }) ∧
      (∀ s6, actsAtCommit i = true → exec i s5 = .next s6 → s6.issue = .ok → overfull s6 = false →
        ends { s6 with stage := .issue } → step s = done { s6 with stage := .issue }))) ∧
  (∀ (i : Instr) (s : State), s.ctx.arch.poison = [] ∨ s.stage = .commit → execOp i s = exec i s) ∧
  (∀ (i : Instr) (g : Guard) (sl : Slot) (w : Nat) (s t : State), encode i = some (sl, w) → anyGuard i = some g →
    s.stage = .issue →
    let bad := fun (s1 : State) => exec i s1 = .next t →
      (∀ c f, c = 0x01 ∨ c = 0x02 → t.issue = .trapped c f → execOp i s = trapNow s sl.index c f) ∧
      ((∀ c f, c = 0x01 ∨ c = 0x02 → t.issue ≠ .trapped c f) → execOp i s = trapNow s sl.index 0x20 0)
    (g.pred ≠ 0 → s.ctx.markP g.pred ∈ s.ctx.arch.poison → bad (guardFalse s g)) ∧
    ((g.pred = 0 ∨ s.ctx.markP g.pred ∉ s.ctx.arch.poison) → s.guardOn g = true →
      (∃ r ∈ sideReads s i, r ∈ s.ctx.arch.poison) → bad (clearPoison s (sideReads s i))))

/-- Words written out from the encodings of the manual decode to the operations they stand for, one of each slot
(Table 8-17, the worked encodings of chapters 11 and 13). -/
def Obligations.WrittenWordsDecode : Prop :=
  decodeSlot .s 0x0190A30E00000000 = .ok (.add { neg := true, pred := 2 } 5 6 7) ∧
    decodeSlot .v0 0x230028160C068800 = .ok (.vffma { neg := false, pred := 0 } false .f32 10 11 12 13 0) ∧
    decodeSlot .v1 0x020028160C003101 = .ok (.vsub { neg := false, pred := 0 } true .s16 true 10 11 12 3) ∧
    decodeSlot .m 0x0600005000000000 = .ok (.mcb { neg := false, pred := 0 } 5) ∧
    decodeSlot .l 0x0100244000A083FF = .ok (.lds { neg := false, pred := 0 } .s32 9 4 0x3FF 5) ∧
    decodeSlot .st 0x0200508000000000 = .ok (.stv { neg := false, pred := 0 } .s8 20 8 0 0) ∧
    decodeSlot .x 0x150001804000 = .ok (.xcrc { neg := false, pred := 0 } 8 0 3) ∧
    decodeSlot .y 0x010186800000 = .ok (.twait { neg := false, pred := 0 } 12 13)

/-- In the scalar and vector slots decoding an encoded instruction gives it back: for every well-formed instruction, with
every operand at every value that its encoding admits (R160 to R166). -/
def Obligations.ScalarVectorRoundTrip : Prop :=
  ∀ (i : Instr) (sl : Slot) (w : Nat), encode i = some (sl, w) → i.WellFormed → sl = .s ∨ sl = .v0 ∨ sl = .v1 →
    decodeSlot sl w = .ok i

/-- The same in the matrix, load, store, X and Y slots. -/
def Obligations.OtherSlotsRoundTrip : Prop :=
  ∀ (i : Instr) (sl : Slot) (w : Nat), encode i = some (sl, w) → i.WellFormed → sl ≠ .s → sl ≠ .v0 → sl ≠ .v1 →
    decodeSlot sl w = .ok i

namespace Sys2Proof

/-! ### Events -/

/-- Register n's poison number, and the context, of a soft error in a register (R65). -/
def poisonedReg : PoisonTarget → Option (Nat × Nat)
  | .vector c n => some (c, n % 384)
  | .tile c n => some (c, 384 + n % 8)
  | .scalar c n =>
    if n % 80 = 0 then none else if n % 80 < 64 then some (c, 392 + n % 80) else some (c, 4080 + n % 80)
  | .side c r => some (c, sideMark r)
  | _ => none

end Sys2Proof

/-- Events that end a wait of one context, each with the whole of its effect: a blocked bundle may be tried again (R129); the
data of a landing arrive, unless requests through the fabric window bring them (R134); an invalidation waits while a device
store, a fabric request or a withheld store in its scope that was translated to what it dropped is still to be performed, and
ends once none is, but for stores that an invalidation's brake keeps from their commit and requests that no link delivers
(R24; the model's choice, logs 70 and 99); a fence ends its wait once the context's device stores and, for the fabric scope,
its requests have been performed and acknowledged, or is a Fabric Delivery Fault (R82, R105), whose SLOT 7 and BVA of the
fence's bundle are the model's choice (log 41); the oldest write in flight to an accumulator tile finishes (R59); an engine
accepts a command (R135). -/
def Obligations.ContextEvents : Prop :=
  ∀ (c : Nat) (s : State), let x := s.ctxOf c
    exec (.blockedBundleRetry c) s = .next (s.setCtxOf c { x with blocked := false }) ∧
    (∀ id, exec (.loadDataArrival c id) s = .next (s.setCtxOf c { x with
      landings := x.landings.map fun l => if l.id = id ∧ l.asks = [] then { l with arrived := true } else l })) ∧
    (∀ sc rs, x.wait = .tinv sc rs →
      let later := Host.Outcome.next { s with work := s.work ++ [.tinvComplete c] }
      (stillToPerform s c sc rs = false → exec (.tinvComplete c) s = .next (s.setCtxOf c { x with wait := .none })) ∧
      (∀ d ∈ s.devOut, ctxInScope c sc d.ctx = true → inRanges rs d.pa d.n = true → exec (.tinvComplete c) s = later) ∧
      (∀ o ∈ s.fabric.out, ctxInScope c sc o.ctx = true → reachable s o.req.dest = true →
        (∃ y ∈ fabSpans o.req, inRanges rs y.1 y.2 = true) → exec (.tinvComplete c) s = later) ∧
      (∀ p ∈ s.ctxs, ∀ o ∈ p.2.withheld, ∀ l ∈ o.lines, p.1 < 2 ^ 20 → ctxInScope c sc p.1 = true →
        stuckBehind s (c / 4) (p.1 / 4) = false → inRanges rs (64 * l) 64 = true → exec (.tinvComplete c) s = later)) ∧
    (∀ fab bva, x.wait = .fence fab bva →
      let mine := s.fabric.out.filter fun o => o.ctx == c && (o.eng == 7 || (fab && o.eng == 6))
      (mine = [] → (∀ d ∈ s.devOut, d.ctx ≠ c) →
        exec (.fenceComplete c) s = .next (s.setCtxOf c { x with wait := .none })) ∧
      ((mine ≠ [] ∨ ∃ d ∈ s.devOut, d.ctx = c) → (∀ o ∈ mine, reachable s o.req.dest = true) →
        exec (.fenceComplete c) s = .next { s with work := s.work ++ [.fenceComplete c] }) ∧
      ((∃ o ∈ mine, reachable s o.req.dest = false) → ∃ dest lost t, reachable s dest = false ∧ t.cause = 0x1F ∧
        t.fault = BitVec.ofNat 64 (dest * 2 ^ 48 + lost % 2 ^ 32) ∧
        t.slot = 7 ∧ t.bva = bva ∧ t.extra = [dest, lost, 0] ∧ exec (.fenceComplete c) s = .next (takeTrapOf s c t))) ∧
    (∀ k, ∃ a b, exec (.accumulatorWriteFinish c k) s = .next (s.setCtxOf c { x with accFill := a, accMove := b }) ∧
      if x.accFill.any fun p => p.1 == k then a = x.accFill.eraseP (fun p => p.1 == k) ∧ b = x.accMove
        else a = x.accFill ∧ b = x.accMove.eraseP fun p => p.1 == k) ∧
    (∀ eng num k, cmdOf s c eng num = some k → k.accepted = false → ∃ t, exec (.engineCommandAccept c eng num) s = .next t ∧
      t.work = s.work ++ (if eng = 0 then [.copyPoint c num] else if eng = 1 then [.nestPoint c num] else []) ∧
      t = { s.setCtxOf c { x with cmds := (t.ctxOf c).cmds } with work := t.work } ∧
      (t.ctxOf c).cmds = x.cmds.map fun j => if j.eng = eng ∧ j.num = num then { j with accepted := true } else j)

/-- Events of stash tiles and of the rule-step unit. A line that arrives is present, zero-flagged on a zero page or where the
ridge's cache holds it so, for a phased task at its snapshot point under its own writes, and a tile with every line and no
rule step is ready (R53, R62, R109, R110). A drain that waits for nothing ends with the tile empty, or kept and clean, and
changes no byte (R54, R57). A generation of a rule step of one tile, when no earlier step runs in its core and no held span
reads the tile (R78), stores the tile's next generation as one store and counts down; the last ends the step (R247, R249).
Walks and soft errors. A walk that ends in a leaf that its access may use sets the accessed bit, and the dirty bit for a
write, and one that fails changes no memory (R12, R13); that a walk asked for by itself has the rights of firmware (log 71)
and that the bits are set in the word which lies in memory (log 89) are the model's choice; a corrected error is only counted;
an uncorrectable one marks its line, or its register in the state and in the checkpoint (R65). -/
def Obligations.UnitsOfACore : Prop :=
  (∀ (c i line : Nat) (s : State), let t0 := s.tile i
     let flagged := if (s.ctxOf c).phased = true
       then (i / 8192, 64 * t0.pa + line) ∈ (s.launchOf (s.ctxOf c).launch).snapZero ∧
         ∀ w ∈ (s.ctxOf c).writeSet, w.line ≠ 64 * t0.pa + line
       else (i / 8192, 64 * t0.pa + line) ∈ s.zeroLines
     (t0.state ≠ .empty → line < 64 → ∃ t, exec (.stashLineFill c i line) s = .next t ∧ t = s.setTile i (t.tile i) ∧
       (∀ l, l < 64 → (t.tile i).present.getLsbD l = (t0.present.getLsbD l || l == line) ∧
         (t.tile i).zero.getLsbD l = (t0.zero.getLsbD l || ((t0.zeroPage || decide flagged) && l == line))) ∧
       t.tile i = { t0 with present := (t.tile i).present, zero := (t.tile i).zero, state := (t.tile i).state } ∧
       (t.tile i).state = if t0.state = .filling ∧ t0.rule = none ∧ (t.tile i).present = BitVec.allOnes 64 then .ready
         else t0.state) ∧
     (t0.state = .empty → exec (.stashLineFill c i line) s = .next s) ∧
     (t0.state = .draining → t0.rule = none → (∀ l, l < 64 → fillPending s i l = false) →
       ∃ t, exec (.stashDrainComplete c i) s = .next t ∧ t = s.setTile i (t.tile i) ∧
         (t0.keep = false → t.tile i = StashTile.empty) ∧
         (t0.keep = true → t.tile i = { t0 with
           dirty := 0, keep := false, state := if t0.present = BitVec.allOnes 64 then .ready else .filling })) ∧
     (∀ st, t0.rule = some st → t0.state ≠ .empty → st.bnd.toNat < 2 →
       (∀ p ∈ s.stash, p.1 / 512 = i / 512 → p.1 ≠ i → ∀ r, p.2.rule = some r → st.order ≤ r.order) →
       s.storeHeld (some c) (cellsAt (t0.pa * 4096) (List.replicate 4096 0)) = false →
       (t0.zeroPage = true ∨ ∀ l, l < 64 → 64 * t0.pa + l ∉ s.poison) →
       ∃ t y u, exec (.ruleGeneration c i) s = .next t ∧ ruleGen st.chk [st] [tileNat s c i] = [y] ∧
         u = performStores s c 6 0 (cellsAt (t0.pa * 4096) (leBytes 4096 y)) ∧
         t = { u.setTile i (t.tile i) with work := t.work } ∧
         (t.tile i).gen = t0.gen - 1 ∧ (t.tile i).rule = (if t0.gen = 1 then none else some st) ∧
         (t.tile i).present = BitVec.allOnes 64 ∧ (t.tile i).zero = 0 ∧
         t.work = u.work ++ if t0.gen = 1 then [] else [.ruleGeneration c i])) ∧
  ((∀ (w : WalkReq) (s : State),
     let x : Xlat := { asid := w.asid, ttb := w.ttb, handler := true, phased := false, ctx := none }
     let va := w.va.toNat / 65536 * 65536
     let cls : Access := if w.write then .scalarStore else .scalarLoad
     (∀ l, walk s.mem s.poison w.ttb va = .ok l → leafFault x cls w.write false l va = none →
       exec (.tableWalk w) s = .next (setAD s l w.write)) ∧
     (∀ l r, walk s.mem s.poison w.ttb va = .ok l → leafFault x cls w.write false l va = some r → r ≠ 5 →
       exec (.tableWalk w) s = .next s) ∧
     (∀ r level, walk s.mem s.poison w.ttb va = .error (r, level) → r ≠ 5 → exec (.tableWalk w) s = .next s)) ∧
   (∀ (s : State) (l : Leaf) (write : Bool), ringsEmpty s →
     (setAD s l write).mem = let e := memNat s.mem l.addr 8
       if e.testBit 8 && (!write || e.testBit 7) then s.mem
       else memWrite s.mem l.addr (leBytes 8 (e ||| (if write then 0x180 else 0x100)))) ∧
   (∀ (line : Nat) (s : State), exec (.softErrorCorrected line) s =
     .next { s with counted := amSet s.counted 0 (amGet 0 s.counted 0 + 1) }) ∧
   (∀ (line : Nat) (s : State), ∃ t, exec (.softErrorUncorrectable (.line line)) s = .next t ∧
     t = { s with poison := t.poison } ∧ ∀ k, k ∈ t.poison ↔ k = line ∨ k ∈ s.poison) ∧
   (∀ (p : PoisonTarget) (c k : Nat) (s : State), poisonedReg p = some (c, k) →
     ∃ t, exec (.softErrorUncorrectable p) s = .next t ∧
       (∀ r, (r ∈ (t.ctxOf c).arch.poison ↔ r = k ∨ r ∈ (s.ctxOf c).arch.poison) ∧
         (r ∈ (t.ctxOf c).ckpt.poison ↔ r = k ∨ r ∈ (s.ctxOf c).ckpt.poison)) ∧
       t = s.setCtxOf c { s.ctxOf c with arch := { (s.ctxOf c).arch with poison := (t.ctxOf c).arch.poison }
                                         ckpt := { (s.ctxOf c).ckpt with poison := (t.ctxOf c).ckpt.poison } }) ∧
   (∀ (k n c : Nat) (s : State), c < 4 →
     let inside := fun (i : Nat) => let x := s.ctxOf (4 * k + i)
       x.life ≠ .idle ∧ x.awinBase ≤ n ∧ n < x.awinBase + x.awinCount
     inside c → (∀ i, i < 4 → i ≠ c → ¬inside i) → ∃ t, exec (.softErrorUncorrectable (.acc k n)) s = .next t ∧
       456 + (n - (s.ctxOf (4 * k + c)).awinBase) ∈ (t.ctxOf (4 * k + c)).arch.poison ∧ t.mem = s.mem))

/-- Stores of the context-control bits as steps. ERESUME lets every paused command go on; SAVE asks for pre-emption, once,
from the wall cycle now, of a gang for all sixteen; RESUME lets a parked context issue at sr.epc, of a gang from rank 0
for all, once tiles that a restore could not map are mapped (log 101); a handler's own PARK parks it, or its gang, in the
state that it leaves, its FWD forwards the record and resumes, or parks while the record is held, and its CONTAIN passes
the fault to containment; task code changes nothing (log 20); a watchdog that runs out before a safe bundle is containment
with CAUSE 0x13 and SLOT 0xF (the model's choice, log 42) (R146, R290, R303, R305, R306, R309, R310, R314). -/
def Obligations.ControlRegisterSteps : Prop :=
  ∀ (c : Nat) (s : State), let x := s.ctxOf c
    (let events := (x.cmds.filter (·.paused)).map fun k =>
      if k.eng = 0 then Instr.copyPoint c k.num else .nestPoint c k.num
    let u := s.setCtxOf c { x with cmds := x.cmds.map fun k => { k with paused := false } }
    exec (.eresume c) s = .next { u with work := s.work ++ events }) ∧
    (∃ t, exec (.save c) s = .next t ∧ t = { s with ctxs := t.ctxs } ∧ ∀ k, t.ctxOf k =
      if (if x.gang = true then k ∈ gangOf c else k = c) ∧ (s.ctxOf k).life = .running ∧ (s.ctxOf k).preempt = none then
        { s.ctxOf k with preempt := some s.wall, atSafe := false } else s.ctxOf k) ∧
    (x.gang = false → x.parked = false → exec (.resume c) s = .next s) ∧
    (x.gang = false → x.parked = true → exec (.resume c) s = .next (if x.unmapped = [] then s.setCtxOf c x.resumeTask else
      let u := mapWindow s c x.unmapped
      if (u.ctxOf c).unmapped = [] ∧ (u.ctxOf c).parked = true then u.setCtxOf c (u.ctxOf c).resumeTask else u)) ∧
    (x.gang = true → c % 64 ≠ 0 → exec (.resume c) s = .next s) ∧
    (x.gang = true → c % 64 = 0 → (∀ k ∈ gangOf c, (s.ctxOf k).unmapped = []) → ∃ t, exec (.resume c) s = .next t ∧
      ∀ k, t.ctxOf k =
        if k ∈ gangOf c ∧ (s.ctxOf k).parked = true then (s.ctxOf k).resumeTask else s.ctxOf k) ∧
    (∀ y : Ctx, y.resumeTask.parked = false ∧ y.resumeTask.handler = false ∧
      y.resumeTask.arch.pc = y.arch.epc &&& ~~~63#64 ∧ y.resumeTask.ckpt = y.resumeTask.arch) ∧
    (x.handler = false → exec (.park c) s = .next s ∧ exec (.fwd c) s = .next s ∧ exec (.contain c) s = .next s) ∧
    (x.handler = true → x.gang = true → ∃ t, exec (.park c) s = .next t ∧ t = { s with ctxs := t.ctxs } ∧
      ∀ k, t.ctxOf k = if k ∈ gangOf c then { (s.ctxOf k).resumeTask with parked := true, wait := .none }
        else s.ctxOf k) ∧
    (x.handler = true → x.gang = false →
      let parked : Ctx := { x.resumeTask with parked := true, wait := .none }
      let f := forwardEntry s x.arch.asid.toNat (handledEntry s c) (some (x.launch, x.task))
      exec (.park c) s = .next (s.setCtxOf c parked) ∧
      (f.2 = false → exec (.fwd c) s = .next (f.1.setCtxOf c (f.1.ctxOf c).resumeTask)) ∧
      (f.2 = true → exec (.fwd c) s =
        .next (f.1.setCtxOf c { (f.1.ctxOf c).resumeTask with parked := true, wait := .none })) ∧
      exec (.contain c) s = .next (contain (s.setCtxOf c { x.resumeTask with cause := x.cause, fault := x.fault }) c
        (x.cause.toNat % 256) x.fault x.record)) ∧
    (∀ t0, x.life = .running → x.preempt = some t0 →
      let limit := bitsOf (amGet Partition.reset s.parts x.part).cfg.toNat 0 32
      (x.atSafe = false → 0 < limit → limit < s.wall - t0 → ∃ t, t.cause = 0x13 ∧ t.slot = 0xF ∧ t.fault = 0 ∧
        exec (.watchdogExpiry c) s = .next (takeTrapOf s c t)) ∧
      (x.atSafe = true ∨ limit = 0 ∨ s.wall - t0 ≤ limit → exec (.watchdogExpiry c) s = .next s))

namespace Sys2Proof

/-- No span runs under a hold, so that no store waits for one (R78). -/
def noHolds (s : State) : Prop := ∀ p ∈ s.ctxs, p.2.rollbacks < 3

/-- The tasks of a launch with the state of one of them changed. -/
def withTask (ts : List TaskRec) (id : Nat) (st : TaskState) : List TaskRec :=
  ts.map fun t => if t.id = id then { t with state := st } else t

/-- The tasks of a launch with one of them placed on context n. -/
def placedTask (ts : List TaskRec) (id n : Nat) : List TaskRec :=
  ts.map fun t => if t.id = id then { t with state := .placed n, core := n / 4 } else t

/-- The context of a task at its start (R288): its state cleared, pc, ttb and asid set, its place in the launch, its
windows and slot, and a checkpoint. -/
structure Started (s : State) (id : Nat) (u : TaskRec) (spot : Spot) (k : Nat) (c : Ctx) : Prop where
  arch : c.arch = { Arch.zero with
    pc := BitVec.ofNat 64 (recWord (s.launchOf id).record 0), ttb := (s.launchOf id).ttb, asid := (s.launchOf id).asid }
  ckpt : c.ckpt = c.arch
  runs : c.life = .running ∧ c.handler = false ∧ c.parked = false ∧ c.wait = .none ∧ c.preempt = none
  place : c.launch = id ∧ c.task = u.id ∧ c.part = (s.launchOf id).part ∧ c.prio = (s.launchOf id).prio ∧ c.slot = k
  windows : c.awinBase = spot.awin ∧ c.awinCount = recAwin (s.launchOf id).record ∧ c.swinBase = spot.swin ∧
    c.swinCount = recSwin (s.launchOf id).record ∧ c.wsPlaces = spot.ws
  empty : c.withheld = [] ∧ c.landings = [] ∧ c.writeSet = [] ∧ c.cmds = [] ∧ c.journalV = [] ∧ c.journalA = []

end Sys2Proof

/-- Events in the life of a task. The waits of a halt come in order: engines, then the tiles of the window drained, then
the merge of a phased task's phase; then the task has halted, its context holds none, its slot is free with its GEN moved
on, and its launch completes with its last task (R55, R86, R276). A merge without conflicts or merge-adds makes each plain
byte of the sets memory's, starts the next phase on that memory, and lets every task go on (R114, R117). -/
def Obligations.TaskEnds : Prop :=
  (∀ (c : Nat) (s : State), let x := s.ctxOf c
    let later : Instr := .taskHaltComplete c
    (x.life ≠ .halting → exec (.taskHaltComplete c) s = .next s) ∧
    (x.life = .halting → (∃ k ∈ x.cmds, k.eng < 4) → exec (.taskHaltComplete c) s = .next { s with work := s.work ++ [later] }) ∧
    (∀ i is, x.life = .halting → (∀ k ∈ x.cmds, 4 ≤ k.eng) → windowTiles s c = i :: is →
      ∃ t, exec (.taskHaltComplete c) s = .next t ∧ (t.tile i).state = .draining ∧ (t.tile i).keep = false ∧
        t.work = s.work ++ (if (s.tile i).state = .draining then [later] else [.stashDrainComplete c i, later])) ∧
    (x.life = .halting → (∀ k ∈ x.cmds, 4 ≤ k.eng) → windowTiles s c = [] →
      (x.phased = true → x.phase = (s.launchOf x.launch).phase →
        exec (.taskHaltComplete c) s = .next (s.setCtxOf c { x with phaseDone := true })) ∧
      (x.phased = false ∨ x.phase ≠ (s.launchOf x.launch).phase → (∀ k, (s.ctxOf k).life = .ending → (s.ctxOf k).slot ≠ x.slot) →
        ∃ t, exec (.taskHaltComplete c) s = .next t ∧
        t.ctxOf c = Ctx.idle ∧ (∀ k, k ≠ c → (s.ctxOf k).life ≠ .ending → t.ctxOf k = s.ctxOf k) ∧ t.mem = s.mem ∧
        (amGet TSlot.free t.slots x.slot).held = false ∧
        (amGet TSlot.free t.slots x.slot).gen = (amGet TSlot.free s.slots x.slot).gen + 1 ∧
        (t.launchOf x.launch).tasks = withTask (s.launchOf x.launch).tasks x.task .halted ∧
        ((∀ u ∈ (t.launchOf x.launch).tasks, u.state = .halted ∨ u.state = .failed) →
          (t.launchOf x.launch).complete = true)))) ∧
  (∀ (id : Nat) (s : State), mergeReady s id = true → noHolds s → ringsEmpty s → MemInv s →
    let ctxs := launchCtxs s id
    let sets := ctxs.map fun p => (p.1, p.2, (s.ctxOf p.1).writeSet)
    (ctxs.map Prod.fst).Nodup → (mergeSets sets [] []).2 = [] → (∀ p ∈ sets, ∀ w ∈ p.2.2, w.kind = .plain) →
    ∃ t, exec (.phaseMerge id) s = .next t ∧ (t.launchOf id).phase = (s.launchOf id).phase + 1 ∧
      (t.launchOf id).snap = t.mem ∧
      (∀ p ∈ sets, ∀ w ∈ p.2.2, (∀ w1 ∈ p.2.2, w1.line = w.line → w1 = w) → ∀ b, b < 64 → w.mask.getLsbD b = true →
        memGet t.mem (64 * w.line + b) = byteOf w.data b) ∧
      (∀ a, (∀ p ∈ sets, ∀ w ∈ p.2.2, w.line = a / 64 → w.mask.getLsbD (a % 64) = false) → memGet t.mem a = memGet s.mem a) ∧
      ∀ p ∈ ctxs, (t.ctxOf p.1).phaseDone = false ∧ (t.ctxOf p.1).writeSet = [] ∧
        (t.ctxOf p.1).phase = (if (s.ctxOf p.1).life = .halting then (s.ctxOf p.1).phase else (s.ctxOf p.1).phase + 1) ∧
        ((s.ctxOf p.1).life = .halting → .taskHaltComplete p.1 ∈ t.work)) ∧
  (∀ (id : Nat) (s : State), mergeReady s id = false → exec (.phaseMerge id) s = .next s)

/-- The dispatcher. Nothing is placed before HBM is zeroed or without a ready queue (R70, R283). The one ready queue's launch,
begun before, with one task to place that fits, starts it on its spot, which Started describes, and, with none left to place,
leaves its queue; a launch that begins takes its schedule registers and its dependence fields from one read at that point
(R282, R284, R286, R288; that a head is ready before by the fields that its launch has read: log 96). A queue that has waited
AGE is served likewise (R284). -/
def Obligations.Dispatching : Prop :=
  ∀ (p : Nat) (s : State),
    (s.hbmReady = false ∨ readyQueues s p = [] → exec (.partitionSelection p) s = .next s) ∧
    (∀ q, exec (.queueAged q) s = if headReady s q && decide (s.age.toNat ≤ s.wall - (s.lq q).since)
      then exec (.partitionSelection (s.lq q).part) s else .next s) ∧
    (∀ q id rest u spot k, s.hbmReady = true → readyQueues s p = [q] → (s.lq q).items = .launch id :: rest →
      nextInstance (s.launchOf id) = [u] → slotsFor s id = true → spotsFor s [] p id = some [spot] → freeSlot s = some k →
      staleObject s (s.launchOf id) = false →
      (∀ v ∈ (s.launchOf id).tasks, v.id ≠ u.id → v.state ≠ .unplaced) →
      ((s.launchOf id).started = true → ∃ t, exec (.partitionSelection p) s = .next t ∧
        Started s id u spot k (t.ctxOf spot.ctx) ∧ (∀ n, n ≠ spot.ctx → t.ctxOf n = s.ctxOf n) ∧
        (t.launchOf id).tasks = placedTask (s.launchOf id).tasks u.id spot.ctx ∧
        (amGet TSlot.free t.slots k).held = true ∧ (∀ e, t.timeline k e = Timeline.zero) ∧
        (t.lq q).items = (s.lq q).items.filter (· ≠ .launch id) ∧ (t.lq q).since = s.wall ∧ t.mem = s.mem) ∧
      (∀ v bs ds, (s.launchOf id).started = false → neverFits s p id = false →
        snapshotRead s (s.launchOf id) = .ok v bs ds → ∃ t, exec (.partitionSelection p) s = .next t ∧
        Started s id u spot k (t.ctxOf spot.ctx) ∧ (t.launchOf id).started = true ∧ t.mem = v.mem ∧
        (t.launchOf id).record = withDeps (s.launchOf id).record ds ∧
        ∀ g, g < 16 → amGet 0 (t.launchOf id).sched g = BitVec.ofNat 64 (leNat ((bs.drop (8 * g)).take 8))))

/-- Saving and restoring. A context of no gang at a save point with nothing in flight, and no landing that raises a trap,
becomes an image at the head of its launch's queue, also one of a SAVE (the model's choice, log 63): its registers and
commands stand, complete, under the image's number, its tiles are recorded, and the context holds no task (R285, R296, R311,
R312); that the image stands beside memory, and no byte of memory is written, is the model's choice (log 84). A restore puts
them on a context of an enabled ridge (R1) that holds none, in new windows, and the image is gone, where the launch has no
named barriers or the ridge is the one that held the task; an image that asks for more than the device has is refused and
stays (R314). A released image's slot is free and its task counts as failed (R87, log 100). -/
def Obligations.SaveAndRestore : Prop :=
  (∀ (c : Nat) (s : State), let x := s.ctxOf c
    c < 2 ^ 20 → x.gang = false → x.atSavePoint = true → failedLanding s c = none → saveQuiet s c = true →
    x.phased = false ∨ x.claims = [] →
    let im := s.nextImage
    ∃ t img y, exec (.contextSave c) s = .next t ∧ t.ctxOf c = Ctx.idle ∧ t.mem = s.mem ∧ t.nextImage = im + 1 ∧
      amFind t.images im = some img ∧ img.parked = x.parked ∧ img.ridge = c / 64 ∧
      img.foreign = none ∧
      (x.unmapped = [] → img.tiles = (List.range x.swinCount).map fun k => s.tile (512 * (c / 4) + x.swinBase + k)) ∧
      (∀ k, k < x.swinCount → (t.tile (512 * (c / 4) + x.swinBase + k)).state = .empty) ∧
      y = t.ctxOf (2 ^ 20 + im) ∧ y.arch = x.arch.flush ∧ y.ckpt = y.arch ∧ y.task = x.task ∧ y.launch = x.launch ∧
      y.slot = x.slot ∧ y.life = .running ∧ y.preempt = none ∧ y.claims = x.claims ∧
      y.cmds = x.cmds.map (fun k => if 2 ≤ k.eng then ({ k with accepted := true } : Cmd) else k) ∧
      (t.launchOf x.launch).tasks = withTask (s.launchOf x.launch).tasks x.task (.saved im) ∧
      (t.lq (s.launchOf x.launch).queue).items = .image im :: (s.lq (s.launchOf x.launch).queue).items) ∧
  (∀ (c : Nat) (s : State), let x := s.ctxOf c
    x.gang = false → x.atSavePoint = false → exec (.contextSave c) s = .next s) ∧
  (∀ (im c : Nat) (s : State) (img : Image), amFind s.images im = some img → c < 6656 →
    c / 64 ∉ s.fused →
    let y := s.ctxOf (2 ^ 20 + im)
    (4 < img.feature ∨ img.arith ≠ 1 ∨ img.latency ≠ 1 → ∃ t, exec (.contextRestore im (some c)) s = .next t ∧
      (∀ k, ({ t.ctxOf k with spanStale := (s.ctxOf k).spanStale } : Ctx) = s.ctxOf k) ∧
      t.images = s.images ∧ t.launches = s.launches ∧ t.queues = s.queues) ∧
    (∀ tk, img.feature ≤ 4 → img.arith = 1 → img.latency = 1 → img.foreign = none → y.gang = false →
      (recNbar (s.launchOf y.launch).record = 0 ∨ img.ridge = c / 64) → (s.ctxOf c).life = .idle →
      fitTask { awin := y.awinCount, swin := y.swinCount, wstiles := y.wstiles, gang := y.gang } (takenOn s [] (c / 4)) =
        some tk →
      ∃ t z, exec (.contextRestore im (some c)) s = .next t ∧ amFind t.images im = none ∧
        z = t.ctxOf c ∧ ({ z.arch with epc := y.arch.epc } : Arch) = y.arch ∧ z.life = y.life ∧ z.task = y.task ∧
        z.launch = y.launch ∧ z.slot = y.slot ∧ z.cmds = y.cmds ∧ z.claims = y.claims ∧ z.awinBase = tk.abase ∧
        z.swinBase = tk.sbase ∧ z.wsPlaces = tk.ws ∧
        ((∀ e ∈ img.tiles, e.state = .empty) → z.parked = img.parked ∧ z.arch.epc = y.arch.epc ∧ t.mem = s.mem) ∧
        (t.launchOf y.launch).tasks = placedTask (s.launchOf y.launch).tasks y.task c ∧
        ∀ q, (t.lq q).items = (s.lq q).items.filter (· ≠ .image im)) ∧
    (∀ u, (s.launchOf y.launch).tasks.filter (fun v => v.id = y.task) = [u] → u.state = .saved im → y.cmds = [] →
      launchesOpen s y.slot = false → ∃ t, exec (.contextRestore im none) s = .next t ∧ amFind t.images im = none ∧
        t.ctxOf (2 ^ 20 + im) = Ctx.idle ∧ (amGet TSlot.free t.slots y.slot).held = false ∧
        (t.launchOf y.launch).tasks = withTask (s.launchOf y.launch).tasks y.task .failed ∧
        ∀ q, (t.lq q).items = (s.lq q).items.filter (· ≠ .image im)))

namespace Sys2Proof

/-- The events of a destination tile. -/
def tileEvents (coll rank t : Nat) : List Instr := [.planeLanding coll rank t, .collectiveDelivery coll rank t]

/-- Destination tile t of member m of collective coll is open: every member has issued, the tile has not ended, and no request
that the command follows is still to be performed; the command, the collective and the member (R83, R262). -/
structure TileOpen (s : State) (coll rank t : Nat) (k : Collective) (m : CollMember) (c : Cmd) : Prop where
  coll : amFind s.colls coll = some k
  member : (k.members.find? fun m => m.rank == rank && m.kind ≠ 2) = some m
  cmd : cmdOf s m.ctx 2 m.num = some c
  full : k.full = true
  left : t ∉ m.done
  bound : t < m.tiles
  follows : anyPending s c.after = false

/-- The writes of a member's engine to these byte ranges translate, which leaves u and the pages, none of them in the fabric
window. -/
structure EngineWrites (v : State) (m : CollMember) (c : Cmd) (ranges : List (Nat × Nat)) (u : State)
    (pages : List (Nat × Phys)) : Prop where
  translated : translatePages v (cmdXlat v m.ctx c) .engine true false
    (distinctPages (ranges.flatMap fun r => rangePages r.1 r.2) []) [] [] = (u, pages, [])
  near : ∀ r ∈ ranges, ∀ x ∈ physCells pages r.1 (List.replicate r.2 0), rangeOf x.1 ≠ .fabric

end Sys2Proof

/-- Tiles of collectives. The events of a tile always end in a next state. Once every member has issued alike, a destination
tile takes the tile sent, or the sum of the members' tiles by the fixed tree of R42, a NaN canonical (R28), from the sources
that Table 13-6 names; a full-mode tile is written at one point and ends; a plane lands at one point with its counter, plane 0
setting the bytes and each later plane adding its bits, and the last plane ends the tile with STATUS 1; fields that differ end
every tile with STATUS 3 in its counter and undefined data (R42, R262 to R264). A cancellation reaches the senders by an event
of its own (R266). -/
def Obligations.CollectiveEvents : Prop :=
  (∀ (coll rank t : Nat) (s : State), (∃ t1, exec (.planeLanding coll rank t) s = .next t1) ∧
    (∃ t1, exec (.collectiveDelivery coll rank t) s = .next t1) ∧
    (amFind s.colls coll = none →
      exec (.planeLanding coll rank t) s = .next s ∧ exec (.collectiveDelivery coll rank t) s = .next s)) ∧
  (∀ (coll rank t : Nat) (s v : State) (k : Collective) (m : CollMember) (c : Cmd) (ts : List (List Byte)) (i : Instr),
    i ∈ tileEvents coll rank t → TileOpen s coll rank t k m c → k.alike = true → amFind m.data t = none →
    collRead s (k.sources m t) = .ok v ts →
    let bs := collData m.desc (4 ≤ k.kind) ts
    (∀ u pages, descPlane m.desc = false → EngineWrites v m c [(destAddr m t, bs.length)] u pages →
      exec i s = .next (settleCollective (modMember (performStores u m.ctx 2 m.num (physCells pages (destAddr m t) bs))
        coll m.rank m.kind fun x => { x with done := insertOnce t x.done }) coll)) ∧
    (∀ u pages, descPlane m.desc = true → 0 < descMag m.desc → amGet 0 m.prec t = 0 →
      EngineWrites v m c [(destAddr m t, dstBytes m.desc), (counterAddr m t, 8)] u pages →
      exec i s = .next (let w := modMember (performStores u m.ctx 2 m.num
          (physCells pages (destAddr m t) (leBytes (dstBytes m.desc) (planeBits (descMag m.desc) 0 (leNat bs))) ++
            physCells pages (counterAddr m t) (leBytes 8 1))) coll m.rank m.kind fun x =>
              { x with prec := amSet x.prec t 1, data := amSet x.data t bs }
        { w with work := w.work ++ [.planeLanding coll m.rank t] }))) ∧
  (∀ (coll rank t : Nat) (s u : State) (pages : List (Nat × Phys)) (k : Collective) (m : CollMember) (c : Cmd)
    (bs : List Byte) (i : Instr),
    i ∈ tileEvents coll rank t → TileOpen s coll rank t k m c → k.alike = true → amFind m.data t = some bs →
    descPlane m.desc = true →
    0 < amGet 0 m.prec t →
    EngineWrites s m c [(destAddr m t, dstBytes m.desc), (counterAddr m t, 8)] u pages →
    let p := amGet 0 m.prec t
    let last := decide (descMag m.desc ≤ p)
    let old := leNat (engBytes u m.ctx ((addrsFrom (destAddr m t) (dstBytes m.desc)).map (physOf pages)))
    let w := performStores u m.ctx 2 m.num
      (physCells pages (destAddr m t) (leBytes (dstBytes m.desc) (old ||| planeBits (descMag m.desc) p (leNat bs))) ++
        physCells pages (counterAddr m t) (leBytes 8 (p + 1 + if last then 2 ^ 8 + 2 ^ 12 else 0)))
    ∃ t1, exec i s = .next t1 ∧ t1.mem = w.mem ∧
      (last = false → .planeLanding coll m.rank t ∈ t1.work ∧ ∃ k1, amFind t1.colls coll = some k1 ∧
        ∀ x ∈ k1.members, x.rank = m.rank → x.kind = m.kind → amGet 0 x.prec t = p + 1) ∧
      (last = true → ∀ k1, amFind t1.colls coll = some k1 →
        ∀ x ∈ k1.members, x.rank = m.rank → x.kind = m.kind → t ∈ x.done)) ∧
  (∀ (coll rank t : Nat) (s u : State) (pages : List (Nat × Phys)) (k : Collective) (m : CollMember) (c : Cmd) (i : Instr),
    i ∈ tileEvents coll rank t → TileOpen s coll rank t k m c → k.alike = false →
    EngineWrites s m c ((destAddr m t, dstBytes m.desc) ::
      if descPlane m.desc = true then [(counterAddr m t, 8)] else []) u pages →
    exec i s = .next (settleCollective (modMember (performStores u m.ctx 2 m.num
        (physCells pages (destAddr m t) (openBytes s (dstBytes m.desc) t) ++
          if descPlane m.desc = true then physCells pages (counterAddr m t) (leBytes 8 (0x3100 + amGet 0 m.prec t)) else []))
      coll m.rank m.kind fun x => { x with done := insertOnce t x.done }) coll)) ∧
  (∀ (d : List Byte) (ts : List (List Byte)) (e : Nat), descPlane d = false → descFmt d < 2 → e < 1024 →
    let w := if descFmt d = 1 then 16 else 32
    let f : Fmt := if descFmt d = 1 then .bf16 else .fp32
    let root := (tree f.sum (ts.map fun x => some (leNat x / 2 ^ (w * e) % 2 ^ w))).getD 0
    leNat (collData d true ts) / 2 ^ (w * e) % 2 ^ w = (if (f.value root).isNan then f.qnan else root) % 2 ^ w) ∧
  (∀ (coll rank t : Nat) (s : State) (k : Collective), amFind s.colls coll = some k →
    ∃ t1, exec (.cancelPropagation coll rank t) s = .next t1 ∧ t1.mem = s.mem ∧
      ∀ k1, amFind t1.colls coll = some k1 → ∀ m ∈ k.members, m.rank = rank → t ∈ m.cancelled →
        ∃ x ∈ k1.members, x.rank = m.rank ∧ x.kind = m.kind ∧ t ∈ x.told)

/-- Memory-side units and the engines' spill buffer. A reduction command reaches its unit after the earlier ones of its engine
context, with the status of the first of the four checks that fails (R92, R270); its unit writes one result line at a time,
each element the root of the fixed tree over the operands, and then the flag and the completion (R42, R93, R94). A unit's
access by an agent outside the contexts reads, writes or updates its stack's memory, and an atomic on a poisoned line forwards
an entry and changes no byte there (R66, R67, R74; the entry's fields without a command: log 115). That buffers overlap by
their physical lines (log 64), and what a Millrace delivery changes (log 112), are the model's choice. The oldest spilled
write of a context is made once its page translates, and the next one follows (R255). A Millrace delivery says that the
ridge's next gang bundle need not wait for B data (R149). -/
def Obligations.UnitEvents : Prop :=
  (∀ (cmd n : Nat) (s : State) (r : Reduction) (k : Cmd),
    (s.reductions.find? fun q => q.slot + 8192 * q.num == cmd && !q.arrived) = some r →
    ((∃ q ∈ s.reductions, q.slot = r.slot ∧ q.stack = r.stack ∧ q.arrived = false ∧ q.num < r.num) →
      exec (.mredArrival cmd) s = .next { s with work := s.work ++ [.mredArrival cmd] }) ∧
    ((∀ q ∈ s.reductions, q.slot = r.slot → q.stack = r.stack → q.arrived = false → r.num ≤ q.num) →
      slotCtx s r.slot = some n → cmdOf s n 3 r.num = some k →
      (anyPending s k.after = true → exec (.mredArrival cmd) s = .next { s with work := s.work ++ [.mredArrival cmd] }) ∧
      (anyPending s k.after = false → blockFormat r.block = false → ∃ t, exec (.mredArrival cmd) s = .next t ∧ t.work = s.work ++ [.msuReductionLine r.stack] ∧
        { r with arrived := true, status := 5 } ∈ t.reductions ∧ t.mem = s.mem) ∧
      (anyPending s k.after = false → blockFormat r.block = true →
        let len := 4 * blockCount r.block
        let o := operandPages s (cmdXlat s n k) len ((List.range (blockN r.block)).map (blockOperand r.block))
        let x := bufferPages o.1 (cmdXlat s n k) true (blockResult r.block) len
        let lines := fun (pages : List Nat) (va : Nat) => bufferLines pages va (blockLines r.block)
        let res := lines x.2.1 (blockResult r.block)
        let ops := o.2.1.zipIdx.map fun p => lines p.1 (blockOperand r.block p.2)
        let status := if o.2.2 ++ x.2.2 ≠ [] then 4
          else if ∃ b ∈ res :: ops, ∃ a ∈ b, stackOf a ≠ r.stack then 3
          else if ∃ b ∈ ops, res ≠ b ∧ ∃ a ∈ res, a ∈ b then 2 else 1
        ∃ t, exec (.mredArrival cmd) s = .next t ∧ t.work = x.1.work ++ [.msuReductionLine r.stack] ∧
          { r with arrived := true, status := status, operands := o.2.1, result := x.2.1 } ∈ t.reductions))) ∧
  (∀ (stack : Nat) (s : State) (r : Reduction), ringsEmpty s → MemInv s →
    (s.reductions.find? fun q => q.arrived && q.stack == stack) = some r →
    let b := r.block
    (r.status = 1 → r.line < blockLines b → reducePoison s r r.line = none →
      let lineAt := fun (pages : List Nat) (va : Nat) => homePa (bufferLine pages va r.line)
      ∃ t, exec (.msuReductionLine stack) s = .next t ∧ t.work = s.work ++ [.msuReductionLine stack] ∧
        (∀ e, e < 16 → 16 * r.line + e < blockCount b →
          memNat t.mem (lineAt r.result (blockResult b) + 4 * e) 4 =
            (tree (fun x y => if blockType b = 0 then Fmt.fp32.sum x y else (x + y) % 2 ^ 32)
              (r.operands.zipIdx.map fun p =>
                some (memNat s.mem (lineAt p.1 (blockOperand b p.2)) 64 / 2 ^ (32 * e) % 2 ^ 32))).getD 0 % 2 ^ 32) ∧
        (∀ a, (a < lineAt r.result (blockResult b) ∨
            lineAt r.result (blockResult b) + 4 * min 16 (blockCount b - 16 * r.line) ≤ a) →
          memGet t.mem a = memGet s.mem a)) ∧
    (r.status ≠ 1 ∨ blockLines b ≤ r.line → (∀ n, slotCtx s r.slot = some n → (s.ctxOf n).slot = r.slot) → ∃ t, exec (.msuReductionLine stack) s = .next t ∧
      t.mem = memWrite s.mem (homePa r.flag) (leBytes 8 r.status) ∧
      t.reductions = s.reductions.filter (fun q => !(q.slot == r.slot && q.num == r.num)) ∧
      (t.timeline r.slot 3).issued = (s.timeline r.slot 3).issued ∧
      (r.num = (s.timeline r.slot 3).count + 1 → r.num ≤ (t.timeline r.slot 3).count))) ∧
  (∀ (stack pa n : Nat) (bs : List Byte) (op : Nat) (ty : ATy) (x y : Word) (s : State),
    let one := fun (act : MemAct) => exec (.msuAccess { stack := stack, act := act }) s
    let act : MemAct := .atomic op ty pa x y
    (stackOf pa = stack →
      (stackOf (pa + n - 1) = stack → one (.read pa n) = .next s) ∧
      (bs ≠ [] → stackOf (pa + bs.length - 1) = stack → one (.write pa bs) = .next (s.perform none (cellsAt pa bs))) ∧
      (stackOf (pa + ty.bytes - 1) = stack →
        (actPoison id s act = none → one act = .next (s.perform none (cellsAt pa
          (leBytes ty.bytes (atomicNew op ty (memNat s.mem pa ty.bytes) x.toNat y.toNat))))) ∧
        ∀ l, actPoison id s act = some l → one act = .next (unitPoison s l))) ∧
    (stackOf pa ≠ stack → one (.write pa bs) = .fault (.addressGap pa))) ∧
  (∀ (s : State) (op pa : Nat) (ty : ATy) (x y : Word), pa % ty.bytes = 0 →
    actPoison id s (.atomic op ty pa x y) = if pa / 64 ∈ s.poison then some (pa / 64) else none) ∧
  (∀ (c num : Nat) (s v : State) (k : Cmd) (w : Word × List Byte) (ws : List (Nat × Word × List Byte))
    (pages : List (Nat × Phys)), cmdOf s c 0 num = some k → (s.ctxOf c).spill = (num, w) :: ws →
    translatePages s (cmdXlat s c k) .engine true false (rangePages w.1.toNat w.2.length) [] [] = (v, pages, []) →
    ∃ t u, exec (.spillReplay c num) s = .next t ∧ u = performStores v c 0 num (physCells pages w.1.toNat w.2) ∧
      t = { u.setCtxOf c { u.ctxOf c with spill := ws } with work := t.work } ∧
      t.work = u.work ++ match ws with | [] => [] | x :: _ => [.spillReplay c x.1]) ∧
  (∀ (ridge : Nat) (s : State), ∃ t, exec (.millraceDelivery ridge) s = .next t ∧ t = { s with millrace := t.millrace } ∧
    ∀ r, r ∈ t.millrace ↔ r = ridge ∨ r ∈ s.millrace)

/-- The fabric. The requests of one access to a module take their place together, at one point (R76), once the first
of each of their lanes that is not acknowledged is one of them and has the next number; one performed before is discarded and
one ahead of its turn waits (R84, R103). An acknowledgement takes a performed request out of the port, and its result arrives at the landing entry that
waits for it; of a poisoned line nothing arrives but a Machine Check (R65); a retry and a failed link, one of 32, send again,
as stored, what is not acknowledged; requests to a module that no link reaches stay (R103 to R105). That other modules' memory
stands here under their fabric addresses, and their requests come as outside events (log 79), and how an access is split into
requests (log 116), are the model's choice. -/
def Obligations.FabricEvents : Prop :=
  (∀ (s : State) (d : Nat), reachable s d = true ↔ d ∉ s.fabric.unreachable ∧ s.fabric.failedLinks.length < 32) ∧
  (∀ (s : State) (o : FabOut), o ∈ s.fabric.out → let r := o.req
    let rs := togetherWith s r
    let key := fun (q : FabReq) => 16 * q.dest + q.lane
    let next := fun (q : FabReq) => ∃ p ∈ rs, p.seq = amGet 0 s.fabric.performedAt (key q) + 1 ∧
      (s.fabric.out.find? fun p => p.req.dest == q.dest && p.req.lane == q.lane).map FabOut.req = some p
    (∀ q, q ∈ rs → q.dest = r.dest) ∧ r ∈ rs ∧
    (reachable s r.dest = false ∨ (∃ q ∈ rs, ¬next q) → exec (.fabricRequestArrival r) s = .next
        (if amGet 0 s.fabric.performedAt (key r) < r.seq ∧ reachable s r.dest = true then
          { s with work := s.work ++ [.fabricRequestArrival r] } else s)) ∧
    (reachable s r.dest = true → (∀ q ∈ rs, next q) → (rs.Pairwise fun p q => key p = key q → p.seq < q.seq) →
      let x := performActs s (fabHome r.dest) (rs.map FabReq.act)
      ∃ t, exec (.fabricRequestArrival r) s = .next t ∧
        (∀ j, amGet 0 t.fabric.performedAt j =
          ((rs.filter fun q => key q == j).getLast?.map FabReq.seq).getD (amGet 0 s.fabric.performedAt j)) ∧
        (∀ y, y ∈ t.fabric.results ↔ y ∈ x.1.fabric.results ∨ ∃ p ∈ rs.zip x.2, y = (p.1.src, key p.1, p.1.seq, p.2)) ∧
        t = { x.1 with fabric := { x.1.fabric with performedAt := t.fabric.performedAt, results := t.fabric.results },
                       work := x.1.work ++ rs.map fun q => .fabricAcknowledgement q.dest q.lane q.seq })) ∧
  (∀ (s : State) (at_ : Nat → Nat) (off n op : Nat) (bs : List Byte) (cs : List (Nat × Byte)) (ty : ATy) (x c : Word),
    let one := fun (a : MemAct) => performActs s at_ [a]
    let act : MemAct := .atomic op ty off x c
    let old := memNat s.mem (at_ off) ty.bytes
    (actPoison at_ s (.read off n) = none → one (.read off n) = (s, [some (memNat s.mem (at_ off) n)])) ∧
    (actPoison at_ s (.read off n) ≠ none → one (.read off n) = (s, [none])) ∧
    (bs ≠ [] → one (.write off bs) = (s.perform none (cellsAt (at_ off) bs), [some 0])) ∧
    (cs ≠ [] → one (.writes cs) = (s.perform none (cs.map fun y => (at_ y.1, y.2)), [some 0])) ∧
    (actPoison at_ s act = none →
      one act = (s.perform none (cellsAt (at_ off) (leBytes ty.bytes (atomicNew op ty old x.toNat c.toNat))), [some old])) ∧
    (∀ l, actPoison at_ s act = some l → one act = (unitPoison s l, [none]))) ∧
  (∀ (s : State) (at_ : Nat → Nat) (xs : List (List (Nat × Byte))),
    (performActs s at_ (xs.map MemAct.writes)).1.mem = memWriteCells s.mem (xs.flatten.map fun y => (at_ y.1, y.2))) ∧
  (∀ (s : State) (r : FabReq) (off n op : Nat) (bs : List Byte) (ty : ATy) (x c : Word), (∀ o ∈ s.fabric.out, o.req ≠ r) →
    r.dest = Config.moduleNumber.toNat → r.src ≠ Config.moduleNumber.toNat →
    let k := 16 * r.src + r.lane
    let done := ∃ t, let y := performActs s id [r.act]
      exec (.fabricRequestArrival r) s = .next t ∧ t.mem = y.1.mem ∧
      amGet 0 t.fabric.seen k = r.seq ∧ ∀ v, y.2 = [v] → t.fabric.results = (r.src, r.lane, r.seq, v) :: y.1.fabric.results
    (amGet 0 s.fabric.seen k + 1 < r.seq →
      exec (.fabricRequestArrival r) s = .next { s with work := s.work ++ [.fabricRequestArrival r] }) ∧
    (r.seq ≤ amGet 0 s.fabric.seen k → exec (.fabricRequestArrival r) s = .next s) ∧
    (r.seq = amGet 0 s.fabric.seen k + 1 → off < 2 ^ 40 →
      (r.act = .read off n → off + n ≤ 2 ^ 40 → done) ∧
      (r.act = .write off bs → off + bs.length ≤ 2 ^ 40 → done) ∧
      (r.act = .atomic op ty off x c → off + ty.bytes ≤ 2 ^ 40 → done)) ∧
    (r.seq = amGet 0 s.fabric.seen k + 1 → 2 ^ 40 ≤ off → r.act = .write off bs →
      exec (.fabricRequestArrival r) s = .fault (.addressGap off))) ∧
  (∀ (dest lane seq : Nat) (s : State),
    let mine := fun (o : FabOut) => decide (o.req.dest = dest ∧ o.req.lane = lane ∧ o.req.seq = seq)
    let u := { s with fabric := { s.fabric with out := s.fabric.out.filter fun o => !mine o } }
    (amGet 0 s.fabric.performedAt (16 * dest + lane) < seq ∨ reachable s dest = false →
      exec (.fabricAcknowledgement dest lane seq) s = .next s) ∧
    (seq ≤ amGet 0 s.fabric.performedAt (16 * dest + lane) → reachable s dest = true →
      ((∀ o ∈ s.fabric.out, mine o = true → (s.ctxOf o.ctx).landings = []) →
        exec (.fabricAcknowledgement dest lane seq) s = .next u) ∧
      (∀ o l q r, s.fabric.out.filter mine = [o] → (s.ctxOf o.ctx).landings = [l] → l.asks = [q] →
        q.dest = dest ∧ q.lane = lane ∧ q.seq = seq →
        (s.fabric.results.find? fun r => r.1 == Config.moduleNumber.toNat && r.2.1 == 16 * dest + lane && r.2.2.1 == seq) =
          some (Config.moduleNumber.toNat, 16 * dest + lane, seq, r) →
        (∀ x, r = some x →
          let l1 := { l with asks := [], known := (q.elem, knownOf l.known q.elem + q.bytes l.own x * 2 ^ (8 * q.off)) ::
                                                    l.known.filter fun p => p.1 != q.elem }
          l.bad = none → l1.form.fails (knownOf l1.known) = none →
          exec (.fabricAcknowledgement dest lane seq) s = .next (u.setCtxOf o.ctx ((s.ctxOf o.ctx).arrive l1))) ∧
        (r = none → exec (.fabricAcknowledgement dest lane seq) s = .next (u.setCtxOf o.ctx { s.ctxOf o.ctx with
          landings := [{ l with asks := [], arrived := true,
                                bad := some (0x20, BitVec.ofNat 64 (homePa q.pa / 64 * 64)) }] }))) ∧
      (∀ (q : Ask) (x : Nat), q.skip + q.n ≤ 64 → q.bytes [] x = x / 2 ^ (8 * q.skip) % 2 ^ (8 * q.n)))) ∧
  (∀ (link : Nat) (r : FabReq) (s : State),
    (32 ≤ link → exec (.linkFailure link) s = .next s) ∧
    (link ∈ s.fabric.failedLinks → exec (.linkFailure link) s = .next s ∧ exec (.linkLevelRetry link r) s = .next s) ∧
    (link < 32 → link ∉ s.fabric.failedLinks → ∃ t, exec (.linkFailure link) s = .next t ∧ link ∈ t.fabric.failedLinks ∧
      amGet 0 t.counted 1 = amGet 0 s.counted 1 + 1 ∧ t.fabric.out = s.fabric.out ∧ t.mem = s.mem ∧
      t.work = s.work ++ s.fabric.out.map fun o => .fabricRequestArrival o.req) ∧
    (link ∉ s.fabric.failedLinks → exec (.linkLevelRetry link r) s = .next
      (if ∃ o ∈ s.fabric.out, o.req = r then { s with work := s.work ++ [.fabricRequestArrival r] } else s))) ∧
  (∀ (dest : Nat) (s : State), ∃ t, exec (.destinationUnreachable dest) s = .next t ∧
    (∀ d, d ∈ t.fabric.unreachable ↔ d = dest ∨ d ∈ s.fabric.unreachable) ∧ (ringsEmpty s → t.counted = s.counted) ∧
    t = { s with fabric := { s.fabric with unreachable := t.fabric.unreachable }, counted := t.counted })

/-- What the host and the operating system do to the module. A write to memory takes one point of the module order, after any
held span, as every event's stores do; its bytes past the end of its range make no access, and one outside host memory and HBM
stops the model (R8, R73, R78). A store to a device register acts as the store of the whole register, and one that names no
register changes nothing (R79, log 20); that a misaligned store, and one of another length, change nothing is the model's
choice (log 75), and so is that TAIL and held entries stay across EN (log 76). A ring that is enabled, not full and of this
module delivers the record that it holds longest, TAIL after the entry; one of another module sends the entry and then, once
it is performed, the advance of TAIL (R306 to R308); HEAD is the consumer's store (R307). A token queue starts empty with a
depth of 16 to 1,024, and disabling it drops its tokens and makes the operations that wait at it fault (R101). -/
def Obligations.HostEvents : Prop :=
  (∀ (pa : Nat) (bs : List Byte) (s : State),
    (pa < 2 ^ 40 ∨ (0x8000000000000 ≤ pa ∧ pa < 0xC000000000000) →
      exec (.hostMemoryWrite pa bs) s =
        .next (s.perform none ((cellsAt pa bs).filter fun c => decide (c.1 < if pa < 2 ^ 40 then 2 ^ 40 else 0xC000000000000)))) ∧
    (2 ^ 40 ≤ pa → pa < 0x8000000000000 ∨ 0xC000000000000 ≤ pa →
      exec (.hostMemoryWrite pa bs) s = .fault (.addressGap pa))) ∧
  (∀ (i : Instr) (is : List Instr) (s t : State), s.inputs = i :: is → fromOutside i = true →
    exec i { s with inputs := is, issue := .ok } = .next t →
    (holderOf s t [] ≠ none → inputTurn s = .next s) ∧
    (holderOf s t [] = none → inputTurn s =
      .next (if t.issue = .braked then { t with work := t.work ++ [i], issue := .ok } else t))) ∧
  (∀ (pa n : Nat) (x : Word) (s : State),
    (pa < 0x100000000000 ∨ 0x100100000000 ≤ pa → exec (.registerWrite pa n x) s = .fault (.addressGap pa)) ∧
    (0x100000000000 ≤ pa → pa < 0x100100000000 →
      (n = 1 ∨ n = 2 ∨ n = 4 ∨ n = 8 → pa % n = 0 →
        exec (.registerWrite pa n x) s = .next (deviceNarrow s none pa n x.toNat)) ∧
      (n ∉ [1, 2, 4, 8] ∨ pa % n ≠ 0 → exec (.registerWrite pa n x) s = .next s) ∧
      (deviceWord s (pa / 8 * 8) = none → deviceNarrow s none pa n x.toNat = s) ∧
      (pa % 8 = 0 → deviceWord s pa ≠ none → deviceNarrow s none pa 8 x.toNat = deviceStore s none pa x.toNat))) ∧
  (∀ (k core : Nat) (x : Word) (s : State), k < 9 → core < 1664 →
    (amGet Core.reset (deviceStore s none (0x100000000000 + 0x10000 * core) x.toNat).cores core).trapent = x &&& ~~~63#64 ∧
    (amGet Ring.reset (deviceStore s none (0x100080000100 + 8 * k) x.toNat).rings k).cfg = x &&& 0x800FFFFFFFFFF01F#64) ∧
  (∀ (k : Nat) (head : Word) (s : State), let r := amGet Ring.reset s.rings k
    (∃ t, exec (.ringEnable k) s = .next t ∧ t = { s with rings := t.rings } ∧
      (amGet Ring.reset t.rings k).cfg.getLsbD 63 = true ∧ (amGet Ring.reset t.rings k).held = r.held ∧
      (amGet Ring.reset t.rings k).tail = r.tail) ∧
    (∃ t, exec (.ringHeadAdvance k head) s = .next t ∧ (r.base < 2 ^ 40 →
      t.mem = memWrite s.mem (bitsOf r.cfg.toNat 12 40 * 4096 + 8) (leBytes 8 head.toNat)))) ∧
  (∀ (k : Nat) (s : State) (e : HeldEntry) (es : List HeldEntry), let r := amGet Ring.reset s.rings k
    let size := 2 ^ bitsOf r.cfg.toNat 0 5
    let base := bitsOf r.cfg.toNat 12 40 * 4096
    r.held = e :: es →
    (base + 256 * (1 + size) ≤ 2 ^ 40 → e.bytes.length = 256 → e.resume = none → noHolds s →
      (r.cfg.getLsbD 63 = true → r.tail - memNat s.mem (base + 8) 8 < size →
        (ringStep s k).mem =
          memWrite (memWrite s.mem (base + 256 * (1 + r.tail % size)) e.bytes) base (leBytes 8 (r.tail + 1)) ∧
        (amGet Ring.reset (ringStep s k).rings k).held = es ∧ (amGet Ring.reset (ringStep s k).rings k).tail = r.tail + 1) ∧
      (r.cfg.getLsbD 63 = false ∨ size ≤ r.tail - memNat s.mem (base + 8) 8 → ringStep s k = s)) ∧
    (0xC000000000000 ≤ base → r.cfg.getLsbD 63 = true → reachable s (bitsOf base 40 10) = true →
      (r.stage = 0 → r.tail - memNat s.mem (homePa (base + 8)) 8 < size →
        (ringStep s k).fabric = (fabStore s (2 ^ 30 + k) 6 0 (cellsAt (base + 256 * (1 + r.tail % size)) e.bytes)).fabric ∧
        (amGet Ring.reset (ringStep s k).rings k).stage = 1 ∧ (ringStep s k).mem = s.mem) ∧
      (r.stage = 1 → ringPending s r = false → (ringStep s k).fabric =
          (fabSend s (2 ^ 30 + k) 6 0 base (.atomic 0 .z64 (bitsOf base 0 40) 1 0)).fabric ∧
        (amGet Ring.reset (ringStep s k).rings k).stage = 2 ∧ (amGet Ring.reset (ringStep s k).rings k).tail = r.tail + 1) ∧
      (r.stage = 2 → ringPending s r = false → e.resume = none → (amGet Ring.reset (ringStep s k).rings k).held = es) ∧
      (0 < r.stage → ringPending s r = true → ringStep s k = s))) ∧
  (∀ (q depth parts : Nat) (s : State), let k := amGet TokenQueue.reset s.tokens q
    (k.en = false → 16 ≤ depth → depth ≤ 1024 → ∃ t, exec (.tokenQueueEnable q depth parts) s = .next t ∧
      amGet TokenQueue.reset t.tokens q = { k with parts := BitVec.ofNat 16 parts, depth := BitVec.ofNat 11 depth, en := true } ∧
      ({ t with tokens := [] } : State) = { s with tokens := [] }) ∧
    (k.en = false → depth < 16 ∨ (1024 < depth ∧ depth < 2048) → ∃ t, exec (.tokenQueueEnable q depth parts) s = .next t ∧
      (amGet TokenQueue.reset t.tokens q).en = false) ∧
    (k.en = true → k.entries.length ≤ k.depth.toNat → ∃ t, exec (.tokenQueueDisable q) s = .next t ∧
      amGet TokenQueue.reset t.tokens q = { k with en := false, entries := [], pushers := [], poppers := [] } ∧
      t = { s with tokens := t.tokens, ctxs := t.ctxs } ∧
      (∀ n w, (s.ctxOf n).tokenWait = some w → w.1 = q → t.ctxOf n = { s.ctxOf n with tokenWait := some (q, true) }) ∧
      ∀ n, (∀ w, (s.ctxOf n).tokenWait = some w → w.1 ≠ q) → t.ctxOf n = s.ctxOf n))

namespace Sys2Proof

/-- The eight checks of Table 17-2 in order. -/
def loadChecks (s : State) (o : BmoObject) : List Bool :=
  [headerOk o.bytes, signatureOk o.bytes, rootOk o.bytes, decide (headBits o.bytes 8 0 8 ≤ 4), headBits o.bytes 8 8 8 == 1,
   headBits o.bytes 8 24 1 != 1 || headBits o.bytes 8 16 8 == 1, decide (s.trust.fusectr.toNat ≤ headBits o.bytes 0x10 0 32),
   o.relocs.all (relocOk s o)]

end Sys2Proof

/-- Boot, life cycle, loader and attestation. A cold reset and every life-cycle transition wipe the module: HBM reads as
zeros, no task, object or register outlives it, and the units that zero HBM report anew; fuses stay; a cold reset extends
MEAS0 to MEAS4 with the firmware images, and MEAS5 to MEAS15 with what that firmware measures, which images being the
model's free value (log 73; R4, R70, R335, R337). A transition leads one place on (log 73), ends the tasks, and waits for the
engine commands that still run (log 107). FUSECTR only rises, and drops what is below it that has mapped no text (R334; log
106). A load is kept when its eight checks pass, its tables are those of the object and its sections lie on pages of their
own, and otherwise gives the number of the first check that fails, or changes nothing where only the tables or the places
are ill (log 106); a chunk of text enters memory when its leaf is the verified one, and shares the frame of an equal page
(log 108; R331, R332, R362). A report holds the state, the nonce, the measurements and the key under the device's signature
(R336). The byte order of digests, hash and signatures is the model's reading (log 105, PRESUMED). -/
def Obligations.TrustEvents : Prop :=
  (∀ (s : State), exec .hbmZeroComplete s = .next { s with hbmReady := true }) ∧
  (∀ (goal : LifeCycle) (s t : State),
    (exec .coldReset s = .next t ∨
      (lifeIndex goal = lifeIndex s.trust.lc + 1 ∧ exec (.lifecycleTransition goal) s = .next t ∧ t.issue = .ok)) →
      t.ctxs = [] ∧ t.hbmReady = false ∧ t.work = [.hbmZeroComplete] ∧ t.tlb = [] ∧ t.launches = [] ∧ t.stash = [] ∧
      t.trust.objects = [] ∧ t.trust.cache = [] ∧ t.trust.fusectr = s.trust.fusectr ∧ t.fused = s.fused ∧
      (∀ a, a < 2 ^ 40 → memGet t.mem a = 0)) ∧
  (∀ (s : State), ∃ t, exec .coldReset s = .next t ∧ t.wall = 0 ∧
    t.trust.lc = s.trust.lc ∧ t.trust.deviceKey = s.trust.deviceKey ∧
    (∀ n, n < 5 → amGet 0 t.trust.meas n = sha256 (digestBytes 0 ++ digestBytes (sha256 (Config.firmwareImage n)))) ∧
    (∀ n, 5 ≤ n → n < 16 → amGet 0 t.trust.meas n =
      ((Config.laterImages s.tick).filter (·.1 = n)).foldl
        (fun x p => sha256 (digestBytes x ++ digestBytes (sha256 p.2))) 0) ∧
    ∀ n, 16 ≤ n → amGet 0 t.trust.meas n = 0) ∧
  (∀ (goal : LifeCycle) (s : State), ∃ t, exec (.lifecycleTransition goal) s = .next t ∧
    let runs := (endTasks s).ctxs.any fun p => p.2.cmds.any (cmdRuns (endTasks s) p.1)
    (lifeIndex goal = lifeIndex s.trust.lc + 1 → runs = true → t = { endTasks s with issue := .braked }) ∧
    (lifeIndex goal = lifeIndex s.trust.lc + 1 → runs = false → t.issue = .ok ∧ t.trust.lc = goal ∧
      (goal = .returned → t.trust.deviceKey = none) ∧ (goal = .provisioned → t.trust.deviceKey.isSome = true)) ∧
    (lifeIndex goal ≠ lifeIndex s.trust.lc + 1 → t = s)) ∧
  (∀ (v : BitVec 8) (s : State), ∃ t, exec (.fusectrAdvance v) s = .next t ∧
    let bad := fun (p : Nat × LoadedObject) => p.2.svn < v.toNat ∧ p.2.resident = [] ∧ p.2.native = false
    t.trust.fusectr = (if s.trust.fusectr < v then v else s.trust.fusectr) ∧
    (¬s.trust.fusectr < v → t = s) ∧
    (s.trust.fusectr < v →
      (∀ e, e ∈ t.trust.cache ↔ e ∈ s.trust.cache ∧ v.toNat ≤ e.svn) ∧
      (∀ p, p ∈ t.trust.objects ↔ p ∈ s.trust.objects ∧ ¬bad p) ∧
      ((∀ p ∈ s.trust.objects, ¬bad p) → t.mem = s.mem ∧ t.trust.loadCode = s.trust.loadCode) ∧
      ((∃ p ∈ s.trust.objects, bad p) → t.trust.loadCode = 7 ∧
        t.mem = (s.perform none ((s.trust.objects.filter fun p => decide (bad p)).flatMap fun p => unmapCells s p.2.obj)).mem))) ∧
  (∀ (o : BmoObject) (s : State),
    (∀ k, (loadChecks s o).findIdx? (· == false) = some k →
      exec (.objectLoad o) s = .next { s with trust := { s.trust with loadCode := k + 1 } }) ∧
    ((loadChecks s o).all id = true →
      (tablesOk o = false ∨ placementOk s o = false → exec (.objectLoad o) s = .next s) ∧
      (tablesOk o = true → placementOk s o = true → ∃ t b, exec (.objectLoad o) s = .next t ∧ t.trust.loadCode = 0 ∧
        amFind t.trust.objects (nextObject s.trust.objects) =
          some { obj := o, svn := headBits o.bytes 0x10 0 32, resident := [], native := b } ∧
        (b = true ↔ o.native ≠ none ∧ cachedFor t (rootOf o.bytes) ≠ none) ∧
        (b = false → t.mem = (s.perform none (loadCells s o)).mem)))) ∧
  (∀ (obj chunk pa i : Nat) (bs : List Byte) (o : LoadedObject) (x : Section) (s : State),
    amFind s.trust.objects obj = some o → textSection o.obj chunk = some (x, i) → chunk < nchunk o.obj.bytes →
    pa % 65536 = (4096 * chunk - x.off) % 65536 → pa < 2 ^ 40 →
    let placed := fun (m : Memory) (p : Nat) => ∃ (t v : State) (y : LoadedObject), exec (.textPageIn obj chunk pa bs) s = .next t ∧ v.mem = m ∧
      amFind t.trust.objects obj = some y ∧ y = withChunk o chunk p ∧
      t.mem = (v.perform none (textCells v y x chunk)).mem
    (chunkLeaf bs ≠ chunkLeaf (chunkOf o.obj.bytes chunk) → ∃ t, exec (.textPageIn obj chunk pa bs) s = .next t ∧
      t.trust = { s.trust with leafFailures := s.trust.leafFailures + 1 } ∧ t.tlb = s.tlb) ∧
    (chunkLeaf bs = chunkLeaf (chunkOf o.obj.bytes chunk) →
      (sharedFrame s o.obj x i chunk = none →
        let free := chunkFree s obj x chunk pa = true ∧
          ∀ r ∈ o.resident, r.1 ∈ pageChunks x chunk → r.1 ≠ chunk → r.2 / 65536 = pa / 65536
        (free → placed (s.perform none (cellsAt pa (chunkBytes s o.obj x i chunk))).mem pa) ∧
        (¬free → exec (.textPageIn obj chunk pa bs) s = .next s)) ∧
      ∀ f, sharedFrame s o.obj x i chunk = some f → placed s.mem (f + chunkPlace x chunk))) ∧
  (∀ (nonce : BitVec 256) (s : State), ∃ t r, exec (.attestationRequest nonce) s = .next t ∧
    t = { s with trust := { s.trust with reports := s.trust.reports ++ [r] } } ∧
    leNat (r.take 8) = 1 + 2 ^ 16 * lifeIndex s.trust.lc + 2 ^ 24 * s.trust.fusectr.toNat ∧
    (r.drop 16).take 32 = digestBytes nonce ∧
    (∀ n, n < 16 → (r.drop (48 + 32 * n)).take 32 = digestBytes (amGet 0 s.trust.meas n)) ∧
    (∀ key, s.trust.deviceKey = some key → (r.drop 560).take 32 = devicePublicKey key ∧
      (s.trust.lc = .provisioned ∨ s.trust.lc = .deployed → r.drop 592 = deviceSign key s.tick (r.take 592))) ∧
    (s.trust.lc = .manufacturing ∨ s.trust.lc = .returned ∨ s.trust.deviceKey = none →
      r.drop 592 = List.replicate 17088 0))

namespace Sys2Proof

/-- The queue goes on behind a packet of n payload dwords: at the packet's level, or where a LOOP sends it (R345, R347). -/
def behind (s : State) (q n : Nat) : State := cqGoOn cqFuel (s.modCq q fun c => c.pass (1 + n) 0) q

/-- From s to t, queue q stops with an error code at its packet, gives its lock back, and raises its vector if it has one
(R344, R345, R351). -/
structure QueueStops (s t : State) (q code : Nat) : Prop where
  err : (t.cq q).err = BitVec.ofNat 8 code
  free : (t.cq q).locked = none
  address : ∀ l ls, (s.cq q).levels = l :: ls → (t.cq q).failAt = BitVec.ofNat 64 ((s.cq q).va l l.pos)
  vector : (t.cq q).raised = (s.cq q).raised + (if (s.cq q).irq then 1 else 0)
  rest : t = { s with cqs := t.cqs }

/-- The number in payload dwords i and i + 1. -/
def longAt (p : Packet) (i : Nat) : Nat := (p.payload.getD i 0).toNat + 2 ^ 32 * (p.payload.getD (i + 1) 0).toNat

/-- ARG and NDW are those of the packet's row of Table 20-2, and its fields are no reserved code. -/
def packetOk : Instr → Bool
  | .nopPacket _ p => p.arg == 0
  | .launchPacket _ p => p.arg == 0 && p.payload.length == 3 && decide ((p.payload.getD 2 0).toNat < 64)
  | .ibcallPacket _ p => p.arg == 0 && p.payload.length == 3
  | .ibretPacket _ p => p.arg == 0 && p.payload.length == 0
  | .predPacket _ p => p.arg != 0 && p.payload.length == 5 && decide ((p.payload.getD 4 0).toNat < 4)
  | .loopPacket _ p => p.arg != 0 && p.payload.length == 1
  | .writePacket _ p => p.arg == 0 && decide (3 ≤ p.payload.length) && decide (p.payload.length ≤ 66)
  | .twaitPacket _ p => p.arg == 0 && p.payload.length == 4 && !handleIllegal (BitVec.ofNat 64 (longAt p 0))
  | .tsigPacket _ p => p.arg == 0 && p.payload.length == 2
  | .ffencePacket _ p => p.arg == 0 && p.payload.length == 0
  | .wakearmPacket _ p => p.arg == 0 && p.payload.length == 1 && decide ((p.payload.getD 0 0).toNat < 65536)
  | _ => true

/-- The queue runs, at a level. -/
def Runs (s : State) (q : Nat) (l : CqLevel) (ls : List CqLevel) : Prop :=
  (s.cq q).levels = l :: ls ∧ (s.cq q).en = true ∧ (s.cq q).err = 0

end Sys2Proof

/-- The front end's own events. A doorbell stores QTAIL and waits once, in the event queue of 1,024 entries or behind it
(R344, R345). An enabled queue starts empty with a timeline slot; a malformed one sets ERR 0x06 and one without a slot 0x0A
(R87, R344). Clearing ERR restarts a queue at QHEAD (R351). An event goes to a control core that holds no lock, which takes
the queue's lock, fetches ahead at once (log 67, DESIGN CHOICE) and offers its next packet; a wake frame's event gives back
the frames held (R345, R350). The queue of 1,024 entries fills up from the events held. A core without events for GATE cycles
is gated; frames are delivered while a core is powered, and held from a match on while none is (R350). -/
def Obligations.FrontEndSteps : Prop :=
  (∀ (q : Nat) (tail : BitVec 32) (s : State), ∃ t, exec (.qtailDoorbell q tail) s = .next t ∧
    t.cq q = { s.cq q with tail := tail } ∧ .doorbell q ∈ t.front.events ++ t.front.heldEvents ∧
    (.doorbell q ∈ s.front.events ++ s.front.heldEvents → t.front = s.front) ∧ t = { s with cqs := t.cqs, front := t.front }) ∧
  (∀ (q : Nat) (s : State), let c := s.cq q
    let ok := (∃ k, k ≤ 12 ∧ c.size.toNat = 2 ^ (10 + k)) ∧ c.base.toNat % 4096 = 0
    (c.en = true → exec (.commandQueueEnable q) s = .next s) ∧
    (c.en = false → ¬ok → ∃ t, exec (.commandQueueEnable q) s = .next t ∧ (t.cq q).err = 6 ∧ (t.cq q).en = false) ∧
    (c.en = false → ok → freeSlot s = none → ∃ t, exec (.commandQueueEnable q) s = .next t ∧ (t.cq q).err = 10 ∧
      (t.cq q).en = false) ∧
    (∀ k, c.en = false → ok → freeSlot s = some k → ∃ t l, exec (.commandQueueEnable q) s = .next t ∧
      (t.cq q).en = true ∧ (t.cq q).slot = k ∧ (t.cq q).head = 0 ∧ (t.cq q).tail = 0 ∧ (t.cq q).levels = [l] ∧
      l.base = c.base ∧ l.pos = 0 ∧ (amGet TSlot.free t.slots k).held = true ∧ (∀ e, t.timeline k e = Timeline.zero))) ∧
  (∀ (q : Nat) (s : State), ∃ t, exec (.errClear q) s = .next t ∧ (t.cq q).err = 0 ∧
    ((s.cq q).err = 0 → t.cq q = s.cq q ∧ t.front = s.front) ∧
    ((s.cq q).err ≠ 0 → .errClear q ∈ t.front.events ++ t.front.heldEvents ∧ ((s.cq q).en = true → ∃ l, (t.cq q).levels = [l] ∧
      l.pos = (s.cq q).head.toNat ∧ l.window = [] ∧ (t.cq q).loops = [] ∧ (t.cq q).runs = []))) ∧
  (∀ (core : Nat) (s : State),
    (coreTakes s core = false ∨ nextEvent s = none → exec (.controlEventDispatch core) s = .next s) ∧
    (coreTakes s core = true → nextEvent s = some .wake → ∃ t, exec (.controlEventDispatch core) s = .next t ∧
      core ∉ t.front.gated ∧ t.front.frames = [] ∧ t.front.delivered = s.front.delivered ++ s.front.frames ∧
      t.front.events = s.front.events.erase .wake ++
        s.front.heldEvents.take (1024 - (s.front.events.erase .wake).length)) ∧
    (∀ q l h xs i, coreTakes s core = true → nextEvent s = some (.doorbell q) → (s.cq q).en = true → (s.cq q).err = 0 →
      (s.cq q).levels = [l] → (s.cq q).loops = [] → (s.cq q).runs = [] → (s.cq q).head.toNat ≤ (s.cq q).tail.toNat →
      (s.cq q).tail.toNat ≤ (s.cq q).head.toNat + (s.cq q).size.toNat →
      l.pos + 1 + hdrNdw h ≤ (s.cq q).tail.toNat →
      let f := ({ s.front with events := s.front.events.erase (.doorbell q), gated := s.front.gated.filter (· ≠ core),
                               lastEvent := amSet s.front.lastEvent core s.wall } : FrontEnd).settle
      let v := fetchAhead (({ s with front := if core ∈ s.front.gated then f.replay else f } : State).modCq q fun c =>
        { c with locked := some core, waiting := none }) q
      (∃ l1, (v.cq q).levels = [l1] ∧ l1.pos = l.pos ∧ amFind l1.window l.pos = some h ∧
        ∀ k, k < hdrNdw h → amFind l1.window (l.pos + 1 + k) = xs[k]?) →
      hdrOpc h ≠ 0 → xs.length = hdrNdw h →
      packetStep q { opc := BitVec.ofNat 8 (hdrOpc h), arg := BitVec.ofNat 8 (hdrArg h), payload := xs } = some i →
      exec (.controlEventDispatch core) s = .next { v with work := v.work ++ [i] })) ∧
  (∀ (core : Nat) (s : State), ∃ t, exec (.controlCoreGate core) s = .next t ∧
    (gateDue s core = false → t = s) ∧ (gateDue s core = true → core ∈ t.front.gated ∧
      (∀ k, k ≠ core → (k ∈ t.front.gated ↔ k ∈ s.front.gated)) ∧ t = { s with front := { s.front with gated := t.front.gated } }) ∧
    (gateDue s core = true ↔ core < 12 ∧ s.front.gate ≠ 0 ∧ core ∉ s.front.gated ∧ (∀ p ∈ s.cqs, p.2.locked ≠ some core) ∧
      s.front.gate.toNat ≤ 2 * (s.wall - amGet 0 s.front.lastEvent core))) ∧
  (∀ (frame : List Byte) (s : State), let f := s.front
    let hit := f.frames ≠ [] ∨ ∃ p ∈ f.filters, p.2.matches frame = true
    let room := (f.frames.map List.length).foldl (· + ·) frame.length ≤ 32768
    (f.allGated = false → exec (.wakeFrame frame) s =
      .next { s with front := { f with delivered := f.delivered ++ [frame] } }) ∧
    (f.allGated = true → hit → room → ∃ t, exec (.wakeFrame frame) s = .next t ∧
      t.front.events ++ t.front.heldEvents = f.events ++ f.heldEvents ++ [.wake] ∧
      t.front.frames = f.frames ++ [frame] ∧ t.front.dropped = f.dropped) ∧
    (f.allGated = true → ¬(hit ∧ room) → exec (.wakeFrame frame) s =
      .next { s with front := { f with dropped := f.dropped + 1 } }))

/-- The packets of a running queue. One that is not of its row of Table 20-2 stops the queue with ERR 2 (R346, R351). NOP
passes; LAUNCH queues a launch of depth 0 on the next number of engine context 5, in a wall cycle in which no task has
launched; WRITE stores to ordinary memory at one point, and one dword to a device register; TWAIT passes once its timeline is
reached, and otherwise gives the control core back; TSIG raises engine context 4; FFENCE empties every window and LOOP body;
WAKEARM replaces the armed set; each lets the queue go on behind it (R347, R349, R350). IBCALL enters a buffer, at most four
deep, and IBRET leaves it; PRED runs or skips the packets after it; LOOP repeats those that follow (R347). The model's choices
here: the first fetch of a packet (log 67); how the runs of PRED and LOOP are counted, and when their errors show (log 68);
the one point of a WRITE through the fabric window (log 69); the wall cycle of a dispatch (log 110); ERR 7 for an access to a
poisoned line or to a module that no link reaches (log 129). -/
def Obligations.PacketResults : Prop :=
  (∀ (i : Instr) (q : Nat) (s : State) (l : CqLevel) (ls : List CqLevel), packetQueue i = some q → Runs s q l ls →
    packetOk i = false → ∃ t, exec i s = .next t ∧ QueueStops s t q 2) ∧
  (∀ (q : Nat) (p : Packet) (s : State) (l : CqLevel) (ls : List CqLevel), Runs s q l ls →
    let c := s.cq q
    let n := p.payload.length
    let d := fun (i : Nat) => (p.payload.getD i 0).toNat
    (packetOk (.nopPacket q p) = true → exec (.nopPacket q p) s = .next (behind s q n)) ∧
    (∀ (u : State) (ps : List Phys), let bad := fun (x : Phys) =>
        (rangeOf x.pa = .fabric ∧ reachable u (bitsOf x.pa 40 10) = false) ∨ homePa (x.pa / 64 * 64) / 64 ∈ u.poison
      ((∃ x ∈ ps, x.kind ≠ .zero ∧ bad x) → cqBytes u c ps = (u, none)) ∧
      ((∀ x ∈ ps, x.kind ≠ .zero → rangeOf x.pa ≠ .fabric ∧ ¬bad x) → cqBytes u c ps =
        (u, some (ps.map fun x => if x.kind = .zero then 0 else memGet u.mem (homePa x.pa))))) ∧
    (∀ v pages fs, packetOk (.launchPacket q p) = true → longAt p 0 % 64 = 0 →
      translatePages s (cqXlat c) .vectorLoad false false (touched (longAt p 0) 256 0) [] [] = (v, pages, fs) →
      (fs ≠ [] → ∃ t, exec (.launchPacket q p) s = .next t ∧ QueueStops v t q 7) ∧
      (∀ z, fs = [] → cqBytes v c ((addrsFrom (longAt p 0) 256).map (physOf pages)) = (z, none) →
        ∃ t, exec (.launchPacket q p) s = .next t ∧ QueueStops z t q 7) ∧
      ∀ z r, fs = [] → cqBytes v c ((addrsFrom (longAt p 0) 256).map (physOf pages)) = (z, some r) →
        (recordOk z (z.lq (d 2)).part r = true → (z.lq (d 2)).enabled = true →
          let w := (takeNumber (if z.lastIssue.1 = z.wall then { z with wall := z.wall + 1 } else z) c.slot 5).2
          exec (.launchPacket q p) s = .next (behind (enqueue w (d 2)
            (newLaunch w (d 2) (longAt p 0) r (.front q c.slot ((z.timeline c.slot 5).issued + 1)) 0 c.asid c.ttb)) q n)) ∧
        (recordOk z (z.lq (d 2)).part r = false ∨ (z.lq (d 2)).enabled = false →
          ∃ t, exec (.launchPacket q p) s = .next t ∧ QueueStops z t q 8)) ∧
    (packetOk (.launchPacket q p) = true → longAt p 0 % 64 ≠ 0 →
      ∃ t, exec (.launchPacket q p) s = .next t ∧ QueueStops s t q 6) ∧
    (packetOk (.writePacket q p) = true → longAt p 0 % 4 ≠ 0 →
      ∃ t, exec (.writePacket q p) s = .next t ∧ QueueStops s t q 6) ∧
    (∀ v pages fs, packetOk (.writePacket q p) = true → longAt p 0 % 4 = 0 →
      translatePages s (cqXlat c) (if n = 3 then .scalarStore else .vectorStore) true false
        (rangePages (longAt p 0) (4 * (n - 2))) [] [] = (v, pages, fs) →
      let cells := physCells pages (longAt p 0) ((p.payload.drop 2).flatMap fun x => leBytes 4 x.toNat)
      let lost := ∃ x ∈ cells, rangeOf x.1 = .fabric ∧ reachable v (bitsOf x.1 40 10) = false
      (fs = [] → (∀ y ∈ pages, rangeOf y.2.pa ≠ .device) → ¬lost →
        exec (.writePacket q p) s = .next (behind (cqPerform v c cells) q n) ∧
        ((∀ x ∈ cells, rangeOf x.1 ≠ .fabric) → cqPerform v c cells = v.perform none cells)) ∧
      (fs = [] → (∀ y ∈ pages, rangeOf y.2.pa ≠ .device) → lost →
        ∃ t, exec (.writePacket q p) s = .next t ∧ QueueStops v t q 7) ∧
      (fs = [] → n = 3 → (∃ y ∈ pages, rangeOf y.2.pa = .device) → exec (.writePacket q p) s =
        .next (behind (deviceNarrow v none (physOf pages (longAt p 0)).pa 4 (d 2)) q n)) ∧
      (fs = [] → n ≠ 3 → (∃ y ∈ pages, rangeOf y.2.pa = .device) →
        ∃ t, exec (.writePacket q p) s = .next t ∧ QueueStops s t q 7) ∧
      (fs ≠ [] → ∃ t, exec (.writePacket q p) s = .next t ∧ QueueStops v t q 7)) ∧
    (packetOk (.twaitPacket q p) = true →
      (waitMet s (BitVec.ofNat 64 (longAt p 0)) (longAt p 2) = true → exec (.twaitPacket q p) s = .next (behind s q n)) ∧
      (waitMet s (BitVec.ofNat 64 (longAt p 0)) (longAt p 2) = false → ∃ t, exec (.twaitPacket q p) s = .next t ∧
        t.cq q = { c with waiting := some (BitVec.ofNat 64 (longAt p 0), longAt p 2), locked := none } ∧
        t = { s with cqs := t.cqs })) ∧
    (packetOk (.tsigPacket q p) = true → ∃ u, exec (.tsigPacket q p) s = .next (behind u q n) ∧
      (u.timeline c.slot 4).count = Nat.max (s.timeline c.slot 4).count (longAt p 0) ∧
      (∀ k e, (k, e) ≠ (c.slot, 4) → u.timeline k e = s.timeline k e) ∧
      (∀ k, u.cq k = s.cq k ∨ ∃ h x, (s.cq k).waiting = some (h, x) ∧ waitMet u h x = true ∧ u.cq k = { s.cq k with waiting := none } ∧
        .progress k ∈ u.front.events ++ u.front.heldEvents) ∧
      u = { s with slots := u.slots, front := u.front, cqs := u.cqs }) ∧
    (packetOk (.ffencePacket q p) = true → ∃ u, exec (.ffencePacket q p) s = .next (behind u q n) ∧
      (∀ x ∈ (u.cq q).levels, x.window = []) ∧ (∀ x ∈ (u.cq q).loops, x.body = []) ∧ u = { s with cqs := u.cqs }) ∧
    (packetOk (.wakearmPacket q p) = true → ∃ u, exec (.wakearmPacket q p) s = .next (behind u q n) ∧
      (∀ f, f < 16 → amGet WakeFilter.reset u.front.filters f =
        { amGet WakeFilter.reset s.front.filters f with armed := (d 0).testBit f }) ∧
      u = { s with front := { s.front with filters := u.front.filters } }) ∧
    (packetOk (.ibcallPacket q p) = true → longAt p 0 % 4 = 0 → d 2 ≠ 0 → d 2 ≤ 2 ^ 24 →
      (ls.length < 4 → ∃ u l1, exec (.ibcallPacket q p) s = .next (cqGoOn cqFuel u q) ∧
        (u.cq q).levels = l1 :: (c.pass 4 0).levels ∧ l1.base = BitVec.ofNat 64 (longAt p 0) ∧ l1.len = d 2 ∧ l1.pos = 0 ∧
        (u.cq q).head = c.head ∧ u = { s with cqs := u.cqs }) ∧
      (4 ≤ ls.length → ∃ t, exec (.ibcallPacket q p) s = .next t ∧ QueueStops s t q 3)) ∧
    (packetOk (.ibretPacket q p) = true →
      (ls = [] → ∃ t, exec (.ibretPacket q p) s = .next t ∧ QueueStops s t q 4) ∧
      (ls ≠ [] → ∃ u, exec (.ibretPacket q p) s = .next (cqGoOn cqFuel u q) ∧ (u.cq q).levels = ls ∧
        u = { s with cqs := u.cqs })) ∧
    (packetOk (.predPacket q p) = true → longAt p 0 % 4 = 0 →
      let past := runBehind s c l p.arg.toNat (l.pos + 6)
      (ls ≠ [] → runFits s c l cqFuel past.1 past.2 = false → ∃ t, exec (.predPacket q p) s = .next t ∧ QueueStops s t q 5) ∧
      (ls = [] ∨ runFits s c l cqFuel past.1 past.2 = true →
        (∀ v, (∀ k, predWord s c (longAt p 0) k = k v none) →
          ∃ t, exec (.predPacket q p) s = .next t ∧ QueueStops v t q 7) ∧
        ∀ v w, (∀ k, predWord s c (longAt p 0) k = k v (some w)) →
          let x := w &&& d 2
          let holds := if d 4 = 0 then x = d 3 else if d 4 = 1 then x ≠ d 3 else if d 4 = 2 then d 3 ≤ x else x < d 3
          ∃ u, exec (.predPacket q p) s = .next (cqGoOn cqFuel u q) ∧ u = { v with cqs := u.cqs } ∧
            (holds → u.cq q = (v.cq q).pass 6 0) ∧
            (¬holds → u.cq q = { (v.cq q).pass 6 0 with
              runs := { level := ((v.cq q).pass 6 0).levels.length - 1, left := p.arg.toNat } :: ((v.cq q).pass 6 0).runs }))) ∧
    (∀ v e xs, packetOk (.loopPacket q p) = true → readBody s c l (l.pos + 2) p.arg.toNat = (.ok v e, xs) → c.loop = none →
      (d 0 = 0 → ∃ u r, exec (.loopPacket q p) s = .next (cqGoOn cqFuel u q) ∧
        (u.cq q).runs = r :: ((v.cq q).pass 2 0).runs ∧ r.left = p.arg.toNat ∧ r.level = ls.length) ∧
      (d 0 ≠ 0 → ∃ u b, exec (.loopPacket q p) s = .next (cqGoOn cqFuel u q) ∧
        (u.cq q).loops = b :: ((v.cq q).pass 2 0).loops ∧ b.left = d 0 ∧ b.packets = p.arg.toNat ∧ b.todo = p.arg.toNat ∧
        b.start = l.pos + 2 ∧ b.body = xs)))
end

