-- ==== Sys2Proof/Laws/Store.lean ====
section
/-! SUPPORT. Laws of the tables, of memory and its canonical form, and of delayed writes in a register file. -/

namespace Sys2Proof.Machine

/-! ### Tables -/

@[simp] theorem amGet_amSet_same {α : Type} (d : α) (m : AMap α) (i : Nat) (x : α) : amGet d (amSet m i x) i = x := by
  induction m with
  | nil => simp [amSet, amGet]
  | cons p m ih =>
    obtain ⟨k, y⟩ := p
    by_cases h : k = i
    · simp [amSet, amGet, h]
    · by_cases g : i < k
      · simp [amSet, amGet, h, g]
      · simp [amSet, amGet, h, g, ih]

theorem amGet_amSet_other {α : Type} (d : α) (m : AMap α) {i j : Nat} (x : α) (h : j ≠ i) :
    amGet d (amSet m i x) j = amGet d m j := by
  induction m with
  | nil => simp [amSet, amGet, Ne.symm h]
  | cons p m ih =>
    obtain ⟨k, y⟩ := p
    by_cases hk : k = i
    · subst hk; simp [amSet, amGet, Ne.symm h]
    · by_cases g : i < k
      · simp [amSet, amGet, hk, g, Ne.symm h]
      · simp only [amSet, hk, g, if_false, amGet, ih]

@[simp] theorem amSet_amSet_same {α : Type} (m : AMap α) (i : Nat) (x y : α) :
    amSet (amSet m i x) i y = amSet m i y := by
  induction m with
  | nil => simp [amSet]
  | cons p m ih =>
    obtain ⟨k, z⟩ := p
    by_cases hk : k = i
    · simp [amSet, hk]
    · by_cases g : i < k
      · simp [amSet, hk, g]
      · simp [amSet, hk, g, ih]

/-! ### Memory -/

/-- A byte below every listed address reads as zero. -/
theorem memGet_above : ∀ (m : Memory) {lo a : Nat}, Memory.wfFrom lo m = true → a < lo → memGet m a = 0
  | [], _, _, _, _ => rfl
  | (k, y) :: m, lo, a, h, g => by
    simp only [Memory.wfFrom, Bool.and_eq_true, decide_eq_true_eq] at h
    have hk : k ≠ a := by omega
    simp only [memGet, hk, if_false]
    exact memGet_above m h.2 (by omega)

theorem wfFrom_weaken : ∀ (m : Memory) {lo hi : Nat}, Memory.wfFrom hi m = true → lo ≤ hi → Memory.wfFrom lo m = true
  | [], _, _, _, _ => rfl
  | (k, y) :: m, lo, hi, h, g => by
    simp only [Memory.wfFrom, Bool.and_eq_true, decide_eq_true_eq] at h ⊢
    exact ⟨⟨by omega, h.1.2⟩, h.2⟩

@[simp] theorem memGet_memSet_same (m : Memory) (a : Nat) (b : Byte) (h : m.wf = true) : memGet (memSet m a b) a = b := by
  suffices H : ∀ (m : Memory) lo, Memory.wfFrom lo m = true → memGet (memSet m a b) a = b from H m 0 h
  intro m
  induction m with
  | nil => intro lo _; by_cases hb : b = 0#8 <;> simp [memSet, memGet, hb]
  | cons p m ih =>
    intro lo h
    obtain ⟨k, y⟩ := p
    simp only [Memory.wfFrom, Bool.and_eq_true, decide_eq_true_eq] at h
    by_cases hk : k = a
    · subst hk
      by_cases hb : b = 0#8
      · subst hb
        simp only [memSet, if_true]
        exact memGet_above m h.2 (Nat.lt_succ_self k)
      · simp [memSet, memGet, hb]
    · by_cases g : a < k
      · by_cases hb : b = 0#8
        · subst hb
          simp only [memSet, hk, g, if_true, if_false]
          rw [if_pos (by rfl)]
          simp only [memGet, hk, if_false]
          exact memGet_above m h.2 (Nat.lt_succ_of_lt g)
        · simp [memSet, memGet, hk, g, hb]
      · simp only [memSet, hk, g, if_false, memGet]
        exact ih _ h.2

theorem memGet_memSet_other (m : Memory) {a c : Nat} (b : Byte) (h : c ≠ a) : memGet (memSet m a b) c = memGet m c := by
  induction m with
  | nil => by_cases hb : b = 0#8 <;> simp [memSet, memGet, hb, Ne.symm h]
  | cons p m ih =>
    obtain ⟨k, y⟩ := p
    by_cases hk : k = a
    · subst hk; by_cases hb : b = 0#8 <;> simp [memSet, memGet, hb, Ne.symm h]
    · by_cases g : a < k
      · by_cases hb : b = 0#8 <;> simp [memSet, memGet, hk, g, hb, Ne.symm h]
      · simp only [memSet, hk, g, if_false, memGet, ih]

theorem memSet_wfFrom (b : Byte) : ∀ (m : Memory) {lo a : Nat}, Memory.wfFrom lo m = true → lo ≤ a →
    Memory.wfFrom lo (memSet m a b) = true
  | [], lo, a, _, g => by by_cases hb : b = 0#8 <;> simp [memSet, Memory.wfFrom, hb, g]
  | (k, y) :: m, lo, a, h, g => by
    simp only [Memory.wfFrom, Bool.and_eq_true, decide_eq_true_eq] at h
    by_cases hk : k = a
    · subst hk
      by_cases hb : b = 0#8
      · subst hb
        simp only [memSet, if_true]
        exact wfFrom_weaken m h.2 (Nat.le_succ_of_le g)
      · simp [memSet, Memory.wfFrom, hb, g, h.2]
    · by_cases gk : a < k
      · by_cases hb : b = 0#8
        · simpa [memSet, Memory.wfFrom, hk, gk, hb, h.1.1, h.2] using h.1.2
        · have : a + 1 ≤ k := gk
          simpa [memSet, Memory.wfFrom, hk, gk, hb, g, this, h.2] using h.1.2
      · simp only [memSet, hk, gk, if_false, Memory.wfFrom, Bool.and_eq_true, decide_eq_true_eq]
        exact ⟨h.1, memSet_wfFrom b m h.2 (by omega)⟩

theorem memSet_wf {m : Memory} (a : Nat) (b : Byte) (h : m.wf = true) : (memSet m a b).wf = true :=
  memSet_wfFrom b m h (Nat.zero_le a)

theorem memWrite_wf : ∀ (bs : List Byte) {m : Memory} (a : Nat), m.wf = true → (memWrite m a bs).wf = true
  | [], _, _, h => h
  | b :: bs, _, a, h => memWrite_wf bs (a + 1) (memSet_wf a b h)

theorem memWriteCells_wf : ∀ (cs : List (Nat × Byte)) {m : Memory}, m.wf = true → (memWriteCells m cs).wf = true
  | [], _, h => h
  | (a, b) :: cs, _, h => memWriteCells_wf cs (memSet_wf a b h)

/-- A store to other addresses leaves a byte as it stands. -/
theorem memGet_memWriteCells_other : ∀ (cs : List (Nat × Byte)) (m : Memory) {c : Nat}, (∀ p ∈ cs, p.1 ≠ c) →
    memGet (memWriteCells m cs) c = memGet m c
  | [], _, _, _ => rfl
  | (a, b) :: cs, m, c, h => by
    have h1 : c ≠ a := fun e => h (a, b) (by simp) e.symm
    simp only [memWriteCells]
    rw [memGet_memWriteCells_other cs _ fun p hp => h p (List.mem_cons_of_mem _ hp), memGet_memSet_other m b h1]

/-- Part of a canonical memory is canonical. -/
theorem filter_wfFrom (p : Host.Cell → Bool) : ∀ (m : Memory) {lo : Nat}, Memory.wfFrom lo m = true →
    Memory.wfFrom lo (m.filter p) = true
  | [], _, _ => rfl
  | (k, y) :: m, lo, h => by
    simp only [Memory.wfFrom, Bool.and_eq_true, decide_eq_true_eq] at h
    by_cases hp : p (k, y) = true
    · simp only [List.filter_cons, hp, if_true, Memory.wfFrom, Bool.and_eq_true, decide_eq_true_eq]
      exact ⟨h.1, filter_wfFrom p m h.2⟩
    · simp only [List.filter_cons, hp]
      exact wfFrom_weaken _ (filter_wfFrom p m h.2) (by omega)

theorem filter_wf (p : Host.Cell → Bool) {m : Memory} (h : m.wf = true) : Memory.wf (m.filter p) = true :=
  filter_wfFrom p m h

/-- Memory after reset has the canonical form. -/
theorem reset_mem_wf : State.reset.mem.wf = true := rfl

/-! ### The operations that change a module's memory keep its canonical form -/

/-- A store performed keeps memory canonical. -/
theorem perform_wf {s : State} (byCtx : Option Nat) (cells : List (Nat × Byte)) (h : s.mem.wf = true) :
    (s.perform byCtx cells).mem.wf = true :=
  memWriteCells_wf cells h

theorem ringPut_wf {s : State} (k : Nat) (r : Ring) (e : List Byte) (h : s.mem.wf = true) :
    (ringPut s k r e).mem.wf = true :=
  perform_wf none _ (perform_wf none _ h)

theorem forwardEntry_wf {s : State} (asid : Nat) (e : List Byte) (resume : Option (Nat × Nat)) (h : s.mem.wf = true) :
    (forwardEntry s asid e resume).1.mem.wf = true := by
  simp only [forwardEntry]
  split
  · exact ringPut_wf _ _ _ h
  · split <;> exact h

/-! ### Register files -/

/-- Writes to other registers play no part in what register j settles to. -/
theorem applyAll_other {w : Nat} (j : Nat) : ∀ (qs : List (PendW w)) (m : AMap (BitVec w)), (∀ q ∈ qs, q.idx ≠ j) →
    amGet 0 (qs.foldl (fun m q => q.apply m) m) j = amGet 0 m j
  | [], _, _ => rfl
  | q :: qs, m, h => by
    simp only [List.foldl_cons]
    rw [applyAll_other j qs _ fun p hp => h p (List.mem_cons_of_mem _ hp)]
    exact amGet_amSet_other 0 m _ fun e => h q (List.mem_cons_self ..) e.symm

/-- What register j settles to depends on its own writes alone. -/
theorem applyAll_own {w : Nat} (j : Nat) : ∀ (qs : List (PendW w)) (m n : AMap (BitVec w)), amGet 0 m j = amGet 0 n j →
    amGet 0 (qs.foldl (fun m q => q.apply m) m) j = amGet 0 ((qs.filter fun q => q.idx = j).foldl (fun m q => q.apply m) n) j
  | [], _, _, h => h
  | q :: qs, m, n, h => by
    by_cases hq : q.idx = j
    · simp only [List.foldl_cons, List.filter_cons, hq, decide_true, if_true]
      refine applyAll_own j qs _ _ ?_
      simp only [PendW.apply, hq, h, amGet_amSet_same]
    · simp only [List.foldl_cons, List.filter_cons, hq, decide_false]
      refine applyAll_own j qs _ _ ?_
      simp only [PendW.apply]
      rw [amGet_amSet_other 0 m _ (Ne.symm hq), h]

/-- A later write takes nothing over from the writes of another register. -/
theorem dropPend_filter_other {w : Nat} {i j : Nat} (mask : BitVec w) (h : j ≠ i) : ∀ (qs : List (PendW w)),
    (dropPend i mask qs).filter (fun q => q.idx = j) = qs.filter fun q => q.idx = j
  | [] => rfl
  | q :: qs => by
    simp only [dropPend]
    by_cases hq : q.idx = i
    · have : q.idx ≠ j := fun e => h (e ▸ hq)
      simp only [hq, if_true]
      split
      · simp [this, dropPend_filter_other mask h qs]
      · have h2 : ¬ i = j := fun e => h e.symm
        simp [hq, h2, dropPend_filter_other mask h qs]
    · simp [hq, List.filter_cons, dropPend_filter_other mask h qs]

/-- A write of the whole register takes over every earlier one. -/
theorem dropPend_all {w : Nat} (i : Nat) : ∀ (qs : List (PendW w)), ∀ q ∈ dropPend i (BitVec.allOnes w) qs, q.idx ≠ i
  | [], _, h => by simp [dropPend] at h
  | p :: qs, q, h => by
    simp only [dropPend] at h
    by_cases hp : p.idx = i
    · have hz : p.mask &&& ~~~(BitVec.allOnes w) = 0#w := by simp
      simp only [hp, if_true, hz] at h
      exact dropPend_all i qs q (by simpa using h)
    · simp only [hp, if_false, List.mem_cons] at h
      rcases h with rfl | h
      · exact hp
      · exact dropPend_all i qs q h

theorem takeOver_append {w : Nat} (qs : List (PendW w)) (q : PendW w) :
    takeOver (qs ++ [q]) = dropPend q.idx q.mask (takeOver qs) ++ [q] := by
  simp [takeOver, List.foldl_append]

/-- A register takes a whole write's value at the cycle in which it is due (R130). -/
theorem RegFile.write_settled {w : Nat} (f : RegFile w) (i : Nat) (x : BitVec w) (due now c : Nat) (h : due ≤ c) :
    ((f.write i (BitVec.allOnes w) x due now).advance c).settled i = x := by
  simp only [RegFile.settled, RegFile.advance, RegFile.land, RegFile.write, takeOver_append, List.filter_append, List.foldl_append]
  have h1 : ([{ idx := i, mask := BitVec.allOnes w, data := x, due := due, issued := now : PendW w }].filter
      fun q => decide (q.due ≤ c) && q.late.isNone) = [{ idx := i, mask := BitVec.allOnes w, data := x, due := due, issued := now }] := by
    simp [h]
  rw [h1]
  simp [PendW.apply]

/-- A write leaves every other register as it is, at every cycle (R130). -/
theorem RegFile.write_other {w : Nat} (f : RegFile w) {i j : Nat} (mask x : BitVec w) (due now c : Nat) (h : j ≠ i) :
    ((f.write i mask x due now).advance c).settled j = (f.advance c).settled j := by
  simp only [RegFile.settled, RegFile.advance, RegFile.land, RegFile.write, takeOver_append, List.filter_append, List.foldl_append]
  rw [applyAll_other j _ _ (by
    intro q hq
    simp only [List.mem_filter, List.mem_singleton] at hq
    rw [hq.1]
    exact Ne.symm h)]
  rw [applyAll_own j _ f.vals f.vals rfl, applyAll_own j ((takeOver f.pend).filter _) f.vals f.vals rfl]
  have swap : ∀ qs : List (PendW w), (qs.filter fun q => decide (q.due ≤ c) && q.late.isNone).filter (fun q => decide (q.idx = j)) =
      (qs.filter fun q => decide (q.idx = j)).filter fun q => decide (q.due ≤ c) && q.late.isNone := fun qs => by
    simp only [List.filter_filter, Bool.and_comm]
  rw [swap, swap, dropPend_filter_other mask h]

/-- The reads of other registers go on as before a write. -/
theorem RegFile.write_read_other {w : Nat} (f : RegFile w) {i j : Nat} (mask x : BitVec w) (due now : Nat) (u : BitVec w)
    (h : j ≠ i) : (f.write i mask x due now).read j now u = f.read j now u := by
  have e : ∀ qs : List (PendW w), pendMask j now (qs ++ [{ idx := i, mask := mask, data := x, due := due, issued := now }])
      = pendMask j now qs := by
    intro qs
    induction qs with
    | nil => simp [pendMask, Ne.symm h]
    | cons q qs ih => simp only [List.cons_append, pendMask, ih]
  simp only [RegFile.read, RegFile.write, e, RegFile.settled]

/-- A bundle's own write does not show in a read of the bundle (R130). -/
theorem RegFile.write_read_now {w : Nat} (f : RegFile w) (i : Nat) (mask x : BitVec w) (due now j : Nat) (u : BitVec w) :
    (f.write i mask x due now).read j now u = f.read j now u := by
  have e : ∀ qs : List (PendW w), pendMask j now (qs ++ [{ idx := i, mask := mask, data := x, due := due, issued := now }])
      = pendMask j now qs := by
    intro qs
    induction qs with
    | nil => simp [pendMask]
    | cons q qs ih => simp only [List.cons_append, pendMask, ih]
  simp only [RegFile.read, RegFile.write, e, RegFile.settled]

end Sys2Proof.Machine
end

