-- ==== Sys2Proof/Laws/State.lean ====
section
/-! SUPPORT. What the updates of a state leave as they are, field by field, and what is read after them. -/

namespace Sys2Proof.Machine

/-! ### A context replaced -/

@[simp] theorem State.setCtxOf_cores (s : State) (n : Nat) (c : Ctx) : (s.setCtxOf n c).cores = s.cores := rfl
@[simp] theorem State.setCtxOf_stash (s : State) (n : Nat) (c : Ctx) : (s.setCtxOf n c).stash = s.stash := rfl
@[simp] theorem State.setCtxOf_mem (s : State) (n : Nat) (c : Ctx) : (s.setCtxOf n c).mem = s.mem := rfl
@[simp] theorem State.setCtxOf_history (s : State) (n : Nat) (c : Ctx) : (s.setCtxOf n c).history = s.history := rfl
@[simp] theorem State.setCtxOf_tlb (s : State) (n : Nat) (c : Ctx) : (s.setCtxOf n c).tlb = s.tlb := rfl
@[simp] theorem State.setCtxOf_slots (s : State) (n : Nat) (c : Ctx) : (s.setCtxOf n c).slots = s.slots := rfl
@[simp] theorem State.setCtxOf_barriers (s : State) (n : Nat) (c : Ctx) : (s.setCtxOf n c).barriers = s.barriers := rfl
@[simp] theorem State.setCtxOf_tokens (s : State) (n : Nat) (c : Ctx) : (s.setCtxOf n c).tokens = s.tokens := rfl
@[simp] theorem State.setCtxOf_launches (s : State) (n : Nat) (c : Ctx) : (s.setCtxOf n c).launches = s.launches := rfl
@[simp] theorem State.setCtxOf_nextLaunch (s : State) (n : Nat) (c : Ctx) : (s.setCtxOf n c).nextLaunch = s.nextLaunch := rfl
@[simp] theorem State.setCtxOf_queues (s : State) (n : Nat) (c : Ctx) : (s.setCtxOf n c).queues = s.queues := rfl
@[simp] theorem State.setCtxOf_parts (s : State) (n : Nat) (c : Ctx) : (s.setCtxOf n c).parts = s.parts := rfl
@[simp] theorem State.setCtxOf_age (s : State) (n : Nat) (c : Ctx) : (s.setCtxOf n c).age = s.age := rfl
@[simp] theorem State.setCtxOf_images (s : State) (n : Nat) (c : Ctx) : (s.setCtxOf n c).images = s.images := rfl
@[simp] theorem State.setCtxOf_nextImage (s : State) (n : Nat) (c : Ctx) : (s.setCtxOf n c).nextImage = s.nextImage := rfl
@[simp] theorem State.setCtxOf_steer (s : State) (n : Nat) (c : Ctx) : (s.setCtxOf n c).steer = s.steer := rfl
@[simp] theorem State.setCtxOf_rings (s : State) (n : Nat) (c : Ctx) : (s.setCtxOf n c).rings = s.rings := rfl
@[simp] theorem State.setCtxOf_cqs (s : State) (n : Nat) (c : Ctx) : (s.setCtxOf n c).cqs = s.cqs := rfl
@[simp] theorem State.setCtxOf_front (s : State) (n : Nat) (c : Ctx) : (s.setCtxOf n c).front = s.front := rfl
@[simp] theorem State.setCtxOf_colls (s : State) (n : Nat) (c : Ctx) : (s.setCtxOf n c).colls = s.colls := rfl
@[simp] theorem State.setCtxOf_nextColl (s : State) (n : Nat) (c : Ctx) : (s.setCtxOf n c).nextColl = s.nextColl := rfl
@[simp] theorem State.setCtxOf_reductions (s : State) (n : Nat) (c : Ctx) : (s.setCtxOf n c).reductions = s.reductions := rfl
@[simp] theorem State.setCtxOf_fabric (s : State) (n : Nat) (c : Ctx) : (s.setCtxOf n c).fabric = s.fabric := rfl
@[simp] theorem State.setCtxOf_trust (s : State) (n : Nat) (c : Ctx) : (s.setCtxOf n c).trust = s.trust := rfl
@[simp] theorem State.setCtxOf_poison (s : State) (n : Nat) (c : Ctx) : (s.setCtxOf n c).poison = s.poison := rfl
@[simp] theorem State.setCtxOf_counted (s : State) (n : Nat) (c : Ctx) : (s.setCtxOf n c).counted = s.counted := rfl
@[simp] theorem State.setCtxOf_hbmReady (s : State) (n : Nat) (c : Ctx) : (s.setCtxOf n c).hbmReady = s.hbmReady := rfl
@[simp] theorem State.setCtxOf_fused (s : State) (n : Nat) (c : Ctx) : (s.setCtxOf n c).fused = s.fused := rfl
@[simp] theorem State.setCtxOf_wall (s : State) (n : Nat) (c : Ctx) : (s.setCtxOf n c).wall = s.wall := rfl
@[simp] theorem State.setCtxOf_tick (s : State) (n : Nat) (c : Ctx) : (s.setCtxOf n c).tick = s.tick := rfl
@[simp] theorem State.setCtxOf_turn (s : State) (n : Nat) (c : Ctx) : (s.setCtxOf n c).turn = s.turn := rfl
@[simp] theorem State.setCtxOf_work (s : State) (n : Nat) (c : Ctx) : (s.setCtxOf n c).work = s.work := rfl
@[simp] theorem State.setCtxOf_inputs (s : State) (n : Nat) (c : Ctx) : (s.setCtxOf n c).inputs = s.inputs := rfl
@[simp] theorem State.setCtxOf_cur (s : State) (n : Nat) (c : Ctx) : (s.setCtxOf n c).cur = s.cur := rfl
@[simp] theorem State.setCtxOf_bundle (s : State) (n : Nat) (c : Ctx) : (s.setCtxOf n c).bundle = s.bundle := rfl
@[simp] theorem State.setCtxOf_issue (s : State) (n : Nat) (c : Ctx) : (s.setCtxOf n c).issue = s.issue := rfl
@[simp] theorem State.setCtxOf_stage (s : State) (n : Nat) (c : Ctx) : (s.setCtxOf n c).stage = s.stage := rfl
@[simp] theorem State.setCtxOf_devOut (s : State) (n : Nat) (c : Ctx) : (s.setCtxOf n c).devOut = s.devOut := rfl
@[simp] theorem State.setCtxOf_zeroLines (s : State) (n : Nat) (c : Ctx) : (s.setCtxOf n c).zeroLines = s.zeroLines := rfl
@[simp] theorem State.setCtxOf_raised (s : State) (n : Nat) (c : Ctx) : (s.setCtxOf n c).raised = s.raised := rfl
@[simp] theorem State.setCtxOf_lastIssue (s : State) (n : Nat) (c : Ctx) : (s.setCtxOf n c).lastIssue = s.lastIssue := rfl
@[simp] theorem State.setCtxOf_patience (s : State) (n : Nat) (c : Ctx) : (s.setCtxOf n c).patience = s.patience := rfl
@[simp] theorem State.setCtxOf_waiting (s : State) (n : Nat) (c : Ctx) : (s.setCtxOf n c).waiting = s.waiting := rfl
@[simp] theorem State.setCtxOf_millrace (s : State) (n : Nat) (c : Ctx) : (s.setCtxOf n c).millrace = s.millrace := rfl

/-! ### The context in issue replaced -/

@[simp] theorem State.setCtx_cores (s : State) (c : Ctx) : (s.setCtx c).cores = s.cores := rfl
@[simp] theorem State.setCtx_stash (s : State) (c : Ctx) : (s.setCtx c).stash = s.stash := rfl
@[simp] theorem State.setCtx_mem (s : State) (c : Ctx) : (s.setCtx c).mem = s.mem := rfl
@[simp] theorem State.setCtx_history (s : State) (c : Ctx) : (s.setCtx c).history = s.history := rfl
@[simp] theorem State.setCtx_tlb (s : State) (c : Ctx) : (s.setCtx c).tlb = s.tlb := rfl
@[simp] theorem State.setCtx_slots (s : State) (c : Ctx) : (s.setCtx c).slots = s.slots := rfl
@[simp] theorem State.setCtx_barriers (s : State) (c : Ctx) : (s.setCtx c).barriers = s.barriers := rfl
@[simp] theorem State.setCtx_tokens (s : State) (c : Ctx) : (s.setCtx c).tokens = s.tokens := rfl
@[simp] theorem State.setCtx_launches (s : State) (c : Ctx) : (s.setCtx c).launches = s.launches := rfl
@[simp] theorem State.setCtx_nextLaunch (s : State) (c : Ctx) : (s.setCtx c).nextLaunch = s.nextLaunch := rfl
@[simp] theorem State.setCtx_queues (s : State) (c : Ctx) : (s.setCtx c).queues = s.queues := rfl
@[simp] theorem State.setCtx_parts (s : State) (c : Ctx) : (s.setCtx c).parts = s.parts := rfl
@[simp] theorem State.setCtx_age (s : State) (c : Ctx) : (s.setCtx c).age = s.age := rfl
@[simp] theorem State.setCtx_images (s : State) (c : Ctx) : (s.setCtx c).images = s.images := rfl
@[simp] theorem State.setCtx_nextImage (s : State) (c : Ctx) : (s.setCtx c).nextImage = s.nextImage := rfl
@[simp] theorem State.setCtx_steer (s : State) (c : Ctx) : (s.setCtx c).steer = s.steer := rfl
@[simp] theorem State.setCtx_rings (s : State) (c : Ctx) : (s.setCtx c).rings = s.rings := rfl
@[simp] theorem State.setCtx_cqs (s : State) (c : Ctx) : (s.setCtx c).cqs = s.cqs := rfl
@[simp] theorem State.setCtx_front (s : State) (c : Ctx) : (s.setCtx c).front = s.front := rfl
@[simp] theorem State.setCtx_colls (s : State) (c : Ctx) : (s.setCtx c).colls = s.colls := rfl
@[simp] theorem State.setCtx_nextColl (s : State) (c : Ctx) : (s.setCtx c).nextColl = s.nextColl := rfl
@[simp] theorem State.setCtx_reductions (s : State) (c : Ctx) : (s.setCtx c).reductions = s.reductions := rfl
@[simp] theorem State.setCtx_fabric (s : State) (c : Ctx) : (s.setCtx c).fabric = s.fabric := rfl
@[simp] theorem State.setCtx_trust (s : State) (c : Ctx) : (s.setCtx c).trust = s.trust := rfl
@[simp] theorem State.setCtx_poison (s : State) (c : Ctx) : (s.setCtx c).poison = s.poison := rfl
@[simp] theorem State.setCtx_counted (s : State) (c : Ctx) : (s.setCtx c).counted = s.counted := rfl
@[simp] theorem State.setCtx_hbmReady (s : State) (c : Ctx) : (s.setCtx c).hbmReady = s.hbmReady := rfl
@[simp] theorem State.setCtx_fused (s : State) (c : Ctx) : (s.setCtx c).fused = s.fused := rfl
@[simp] theorem State.setCtx_wall (s : State) (c : Ctx) : (s.setCtx c).wall = s.wall := rfl
@[simp] theorem State.setCtx_tick (s : State) (c : Ctx) : (s.setCtx c).tick = s.tick := rfl
@[simp] theorem State.setCtx_turn (s : State) (c : Ctx) : (s.setCtx c).turn = s.turn := rfl
@[simp] theorem State.setCtx_work (s : State) (c : Ctx) : (s.setCtx c).work = s.work := rfl
@[simp] theorem State.setCtx_inputs (s : State) (c : Ctx) : (s.setCtx c).inputs = s.inputs := rfl
@[simp] theorem State.setCtx_cur (s : State) (c : Ctx) : (s.setCtx c).cur = s.cur := rfl
@[simp] theorem State.setCtx_bundle (s : State) (c : Ctx) : (s.setCtx c).bundle = s.bundle := rfl
@[simp] theorem State.setCtx_issue (s : State) (c : Ctx) : (s.setCtx c).issue = s.issue := rfl
@[simp] theorem State.setCtx_stage (s : State) (c : Ctx) : (s.setCtx c).stage = s.stage := rfl
@[simp] theorem State.setCtx_devOut (s : State) (c : Ctx) : (s.setCtx c).devOut = s.devOut := rfl
@[simp] theorem State.setCtx_zeroLines (s : State) (c : Ctx) : (s.setCtx c).zeroLines = s.zeroLines := rfl
@[simp] theorem State.setCtx_raised (s : State) (c : Ctx) : (s.setCtx c).raised = s.raised := rfl
@[simp] theorem State.setCtx_lastIssue (s : State) (c : Ctx) : (s.setCtx c).lastIssue = s.lastIssue := rfl
@[simp] theorem State.setCtx_patience (s : State) (c : Ctx) : (s.setCtx c).patience = s.patience := rfl
@[simp] theorem State.setCtx_waiting (s : State) (c : Ctx) : (s.setCtx c).waiting = s.waiting := rfl
@[simp] theorem State.setCtx_millrace (s : State) (c : Ctx) : (s.setCtx c).millrace = s.millrace := rfl

/-! ### Registers of the context in issue changed -/

@[simp] theorem State.modArch_cores (s : State) (f : Arch → Arch) : (s.modArch f).cores = s.cores := rfl
@[simp] theorem State.modArch_stash (s : State) (f : Arch → Arch) : (s.modArch f).stash = s.stash := rfl
@[simp] theorem State.modArch_mem (s : State) (f : Arch → Arch) : (s.modArch f).mem = s.mem := rfl
@[simp] theorem State.modArch_history (s : State) (f : Arch → Arch) : (s.modArch f).history = s.history := rfl
@[simp] theorem State.modArch_tlb (s : State) (f : Arch → Arch) : (s.modArch f).tlb = s.tlb := rfl
@[simp] theorem State.modArch_slots (s : State) (f : Arch → Arch) : (s.modArch f).slots = s.slots := rfl
@[simp] theorem State.modArch_barriers (s : State) (f : Arch → Arch) : (s.modArch f).barriers = s.barriers := rfl
@[simp] theorem State.modArch_tokens (s : State) (f : Arch → Arch) : (s.modArch f).tokens = s.tokens := rfl
@[simp] theorem State.modArch_launches (s : State) (f : Arch → Arch) : (s.modArch f).launches = s.launches := rfl
@[simp] theorem State.modArch_nextLaunch (s : State) (f : Arch → Arch) : (s.modArch f).nextLaunch = s.nextLaunch := rfl
@[simp] theorem State.modArch_queues (s : State) (f : Arch → Arch) : (s.modArch f).queues = s.queues := rfl
@[simp] theorem State.modArch_parts (s : State) (f : Arch → Arch) : (s.modArch f).parts = s.parts := rfl
@[simp] theorem State.modArch_age (s : State) (f : Arch → Arch) : (s.modArch f).age = s.age := rfl
@[simp] theorem State.modArch_images (s : State) (f : Arch → Arch) : (s.modArch f).images = s.images := rfl
@[simp] theorem State.modArch_nextImage (s : State) (f : Arch → Arch) : (s.modArch f).nextImage = s.nextImage := rfl
@[simp] theorem State.modArch_steer (s : State) (f : Arch → Arch) : (s.modArch f).steer = s.steer := rfl
@[simp] theorem State.modArch_rings (s : State) (f : Arch → Arch) : (s.modArch f).rings = s.rings := rfl
@[simp] theorem State.modArch_cqs (s : State) (f : Arch → Arch) : (s.modArch f).cqs = s.cqs := rfl
@[simp] theorem State.modArch_front (s : State) (f : Arch → Arch) : (s.modArch f).front = s.front := rfl
@[simp] theorem State.modArch_colls (s : State) (f : Arch → Arch) : (s.modArch f).colls = s.colls := rfl
@[simp] theorem State.modArch_nextColl (s : State) (f : Arch → Arch) : (s.modArch f).nextColl = s.nextColl := rfl
@[simp] theorem State.modArch_reductions (s : State) (f : Arch → Arch) : (s.modArch f).reductions = s.reductions := rfl
@[simp] theorem State.modArch_fabric (s : State) (f : Arch → Arch) : (s.modArch f).fabric = s.fabric := rfl
@[simp] theorem State.modArch_trust (s : State) (f : Arch → Arch) : (s.modArch f).trust = s.trust := rfl
@[simp] theorem State.modArch_poison (s : State) (f : Arch → Arch) : (s.modArch f).poison = s.poison := rfl
@[simp] theorem State.modArch_counted (s : State) (f : Arch → Arch) : (s.modArch f).counted = s.counted := rfl
@[simp] theorem State.modArch_hbmReady (s : State) (f : Arch → Arch) : (s.modArch f).hbmReady = s.hbmReady := rfl
@[simp] theorem State.modArch_fused (s : State) (f : Arch → Arch) : (s.modArch f).fused = s.fused := rfl
@[simp] theorem State.modArch_wall (s : State) (f : Arch → Arch) : (s.modArch f).wall = s.wall := rfl
@[simp] theorem State.modArch_tick (s : State) (f : Arch → Arch) : (s.modArch f).tick = s.tick := rfl
@[simp] theorem State.modArch_turn (s : State) (f : Arch → Arch) : (s.modArch f).turn = s.turn := rfl
@[simp] theorem State.modArch_work (s : State) (f : Arch → Arch) : (s.modArch f).work = s.work := rfl
@[simp] theorem State.modArch_inputs (s : State) (f : Arch → Arch) : (s.modArch f).inputs = s.inputs := rfl
@[simp] theorem State.modArch_cur (s : State) (f : Arch → Arch) : (s.modArch f).cur = s.cur := rfl
@[simp] theorem State.modArch_bundle (s : State) (f : Arch → Arch) : (s.modArch f).bundle = s.bundle := rfl
@[simp] theorem State.modArch_issue (s : State) (f : Arch → Arch) : (s.modArch f).issue = s.issue := rfl
@[simp] theorem State.modArch_stage (s : State) (f : Arch → Arch) : (s.modArch f).stage = s.stage := rfl
@[simp] theorem State.modArch_devOut (s : State) (f : Arch → Arch) : (s.modArch f).devOut = s.devOut := rfl
@[simp] theorem State.modArch_zeroLines (s : State) (f : Arch → Arch) : (s.modArch f).zeroLines = s.zeroLines := rfl
@[simp] theorem State.modArch_raised (s : State) (f : Arch → Arch) : (s.modArch f).raised = s.raised := rfl
@[simp] theorem State.modArch_lastIssue (s : State) (f : Arch → Arch) : (s.modArch f).lastIssue = s.lastIssue := rfl
@[simp] theorem State.modArch_patience (s : State) (f : Arch → Arch) : (s.modArch f).patience = s.patience := rfl
@[simp] theorem State.modArch_waiting (s : State) (f : Arch → Arch) : (s.modArch f).waiting = s.waiting := rfl
@[simp] theorem State.modArch_millrace (s : State) (f : Arch → Arch) : (s.modArch f).millrace = s.millrace := rfl

/-! ### A stash tile replaced -/

@[simp] theorem State.setTile_ctxs (s : State) (i : Nat) (t : StashTile) : (s.setTile i t).ctxs = s.ctxs := rfl
@[simp] theorem State.setTile_cores (s : State) (i : Nat) (t : StashTile) : (s.setTile i t).cores = s.cores := rfl
@[simp] theorem State.setTile_mem (s : State) (i : Nat) (t : StashTile) : (s.setTile i t).mem = s.mem := rfl
@[simp] theorem State.setTile_history (s : State) (i : Nat) (t : StashTile) : (s.setTile i t).history = s.history := rfl
@[simp] theorem State.setTile_tlb (s : State) (i : Nat) (t : StashTile) : (s.setTile i t).tlb = s.tlb := rfl
@[simp] theorem State.setTile_slots (s : State) (i : Nat) (t : StashTile) : (s.setTile i t).slots = s.slots := rfl
@[simp] theorem State.setTile_barriers (s : State) (i : Nat) (t : StashTile) : (s.setTile i t).barriers = s.barriers := rfl
@[simp] theorem State.setTile_tokens (s : State) (i : Nat) (t : StashTile) : (s.setTile i t).tokens = s.tokens := rfl
@[simp] theorem State.setTile_launches (s : State) (i : Nat) (t : StashTile) : (s.setTile i t).launches = s.launches := rfl
@[simp] theorem State.setTile_nextLaunch (s : State) (i : Nat) (t : StashTile) : (s.setTile i t).nextLaunch = s.nextLaunch := rfl
@[simp] theorem State.setTile_queues (s : State) (i : Nat) (t : StashTile) : (s.setTile i t).queues = s.queues := rfl
@[simp] theorem State.setTile_parts (s : State) (i : Nat) (t : StashTile) : (s.setTile i t).parts = s.parts := rfl
@[simp] theorem State.setTile_age (s : State) (i : Nat) (t : StashTile) : (s.setTile i t).age = s.age := rfl
@[simp] theorem State.setTile_images (s : State) (i : Nat) (t : StashTile) : (s.setTile i t).images = s.images := rfl
@[simp] theorem State.setTile_nextImage (s : State) (i : Nat) (t : StashTile) : (s.setTile i t).nextImage = s.nextImage := rfl
@[simp] theorem State.setTile_steer (s : State) (i : Nat) (t : StashTile) : (s.setTile i t).steer = s.steer := rfl
@[simp] theorem State.setTile_rings (s : State) (i : Nat) (t : StashTile) : (s.setTile i t).rings = s.rings := rfl
@[simp] theorem State.setTile_cqs (s : State) (i : Nat) (t : StashTile) : (s.setTile i t).cqs = s.cqs := rfl
@[simp] theorem State.setTile_front (s : State) (i : Nat) (t : StashTile) : (s.setTile i t).front = s.front := rfl
@[simp] theorem State.setTile_colls (s : State) (i : Nat) (t : StashTile) : (s.setTile i t).colls = s.colls := rfl
@[simp] theorem State.setTile_nextColl (s : State) (i : Nat) (t : StashTile) : (s.setTile i t).nextColl = s.nextColl := rfl
@[simp] theorem State.setTile_reductions (s : State) (i : Nat) (t : StashTile) : (s.setTile i t).reductions = s.reductions := rfl
@[simp] theorem State.setTile_fabric (s : State) (i : Nat) (t : StashTile) : (s.setTile i t).fabric = s.fabric := rfl
@[simp] theorem State.setTile_trust (s : State) (i : Nat) (t : StashTile) : (s.setTile i t).trust = s.trust := rfl
@[simp] theorem State.setTile_poison (s : State) (i : Nat) (t : StashTile) : (s.setTile i t).poison = s.poison := rfl
@[simp] theorem State.setTile_counted (s : State) (i : Nat) (t : StashTile) : (s.setTile i t).counted = s.counted := rfl
@[simp] theorem State.setTile_hbmReady (s : State) (i : Nat) (t : StashTile) : (s.setTile i t).hbmReady = s.hbmReady := rfl
@[simp] theorem State.setTile_fused (s : State) (i : Nat) (t : StashTile) : (s.setTile i t).fused = s.fused := rfl
@[simp] theorem State.setTile_wall (s : State) (i : Nat) (t : StashTile) : (s.setTile i t).wall = s.wall := rfl
@[simp] theorem State.setTile_tick (s : State) (i : Nat) (t : StashTile) : (s.setTile i t).tick = s.tick := rfl
@[simp] theorem State.setTile_turn (s : State) (i : Nat) (t : StashTile) : (s.setTile i t).turn = s.turn := rfl
@[simp] theorem State.setTile_work (s : State) (i : Nat) (t : StashTile) : (s.setTile i t).work = s.work := rfl
@[simp] theorem State.setTile_inputs (s : State) (i : Nat) (t : StashTile) : (s.setTile i t).inputs = s.inputs := rfl
@[simp] theorem State.setTile_cur (s : State) (i : Nat) (t : StashTile) : (s.setTile i t).cur = s.cur := rfl
@[simp] theorem State.setTile_bundle (s : State) (i : Nat) (t : StashTile) : (s.setTile i t).bundle = s.bundle := rfl
@[simp] theorem State.setTile_issue (s : State) (i : Nat) (t : StashTile) : (s.setTile i t).issue = s.issue := rfl
@[simp] theorem State.setTile_stage (s : State) (i : Nat) (t : StashTile) : (s.setTile i t).stage = s.stage := rfl
@[simp] theorem State.setTile_devOut (s : State) (i : Nat) (t : StashTile) : (s.setTile i t).devOut = s.devOut := rfl
@[simp] theorem State.setTile_zeroLines (s : State) (i : Nat) (t : StashTile) : (s.setTile i t).zeroLines = s.zeroLines := rfl
@[simp] theorem State.setTile_raised (s : State) (i : Nat) (t : StashTile) : (s.setTile i t).raised = s.raised := rfl
@[simp] theorem State.setTile_lastIssue (s : State) (i : Nat) (t : StashTile) : (s.setTile i t).lastIssue = s.lastIssue := rfl
@[simp] theorem State.setTile_patience (s : State) (i : Nat) (t : StashTile) : (s.setTile i t).patience = s.patience := rfl
@[simp] theorem State.setTile_waiting (s : State) (i : Nat) (t : StashTile) : (s.setTile i t).waiting = s.waiting := rfl
@[simp] theorem State.setTile_millrace (s : State) (i : Nat) (t : StashTile) : (s.setTile i t).millrace = s.millrace := rfl

/-! ### A launch changed -/

@[simp] theorem State.modLaunch_ctxs (s : State) (n : Nat) (f : Launch → Launch) : (s.modLaunch n f).ctxs = s.ctxs := rfl
@[simp] theorem State.modLaunch_cores (s : State) (n : Nat) (f : Launch → Launch) : (s.modLaunch n f).cores = s.cores := rfl
@[simp] theorem State.modLaunch_stash (s : State) (n : Nat) (f : Launch → Launch) : (s.modLaunch n f).stash = s.stash := rfl
@[simp] theorem State.modLaunch_mem (s : State) (n : Nat) (f : Launch → Launch) : (s.modLaunch n f).mem = s.mem := rfl
@[simp] theorem State.modLaunch_history (s : State) (n : Nat) (f : Launch → Launch) : (s.modLaunch n f).history = s.history := rfl
@[simp] theorem State.modLaunch_tlb (s : State) (n : Nat) (f : Launch → Launch) : (s.modLaunch n f).tlb = s.tlb := rfl
@[simp] theorem State.modLaunch_slots (s : State) (n : Nat) (f : Launch → Launch) : (s.modLaunch n f).slots = s.slots := rfl
@[simp] theorem State.modLaunch_barriers (s : State) (n : Nat) (f : Launch → Launch) : (s.modLaunch n f).barriers = s.barriers := rfl
@[simp] theorem State.modLaunch_tokens (s : State) (n : Nat) (f : Launch → Launch) : (s.modLaunch n f).tokens = s.tokens := rfl
@[simp] theorem State.modLaunch_nextLaunch (s : State) (n : Nat) (f : Launch → Launch) : (s.modLaunch n f).nextLaunch = s.nextLaunch := rfl
@[simp] theorem State.modLaunch_queues (s : State) (n : Nat) (f : Launch → Launch) : (s.modLaunch n f).queues = s.queues := rfl
@[simp] theorem State.modLaunch_parts (s : State) (n : Nat) (f : Launch → Launch) : (s.modLaunch n f).parts = s.parts := rfl
@[simp] theorem State.modLaunch_age (s : State) (n : Nat) (f : Launch → Launch) : (s.modLaunch n f).age = s.age := rfl
@[simp] theorem State.modLaunch_images (s : State) (n : Nat) (f : Launch → Launch) : (s.modLaunch n f).images = s.images := rfl
@[simp] theorem State.modLaunch_nextImage (s : State) (n : Nat) (f : Launch → Launch) : (s.modLaunch n f).nextImage = s.nextImage := rfl
@[simp] theorem State.modLaunch_steer (s : State) (n : Nat) (f : Launch → Launch) : (s.modLaunch n f).steer = s.steer := rfl
@[simp] theorem State.modLaunch_rings (s : State) (n : Nat) (f : Launch → Launch) : (s.modLaunch n f).rings = s.rings := rfl
@[simp] theorem State.modLaunch_cqs (s : State) (n : Nat) (f : Launch → Launch) : (s.modLaunch n f).cqs = s.cqs := rfl
@[simp] theorem State.modLaunch_front (s : State) (n : Nat) (f : Launch → Launch) : (s.modLaunch n f).front = s.front := rfl
@[simp] theorem State.modLaunch_colls (s : State) (n : Nat) (f : Launch → Launch) : (s.modLaunch n f).colls = s.colls := rfl
@[simp] theorem State.modLaunch_nextColl (s : State) (n : Nat) (f : Launch → Launch) : (s.modLaunch n f).nextColl = s.nextColl := rfl
@[simp] theorem State.modLaunch_reductions (s : State) (n : Nat) (f : Launch → Launch) : (s.modLaunch n f).reductions = s.reductions := rfl
@[simp] theorem State.modLaunch_fabric (s : State) (n : Nat) (f : Launch → Launch) : (s.modLaunch n f).fabric = s.fabric := rfl
@[simp] theorem State.modLaunch_trust (s : State) (n : Nat) (f : Launch → Launch) : (s.modLaunch n f).trust = s.trust := rfl
@[simp] theorem State.modLaunch_poison (s : State) (n : Nat) (f : Launch → Launch) : (s.modLaunch n f).poison = s.poison := rfl
@[simp] theorem State.modLaunch_counted (s : State) (n : Nat) (f : Launch → Launch) : (s.modLaunch n f).counted = s.counted := rfl
@[simp] theorem State.modLaunch_hbmReady (s : State) (n : Nat) (f : Launch → Launch) : (s.modLaunch n f).hbmReady = s.hbmReady := rfl
@[simp] theorem State.modLaunch_fused (s : State) (n : Nat) (f : Launch → Launch) : (s.modLaunch n f).fused = s.fused := rfl
@[simp] theorem State.modLaunch_wall (s : State) (n : Nat) (f : Launch → Launch) : (s.modLaunch n f).wall = s.wall := rfl
@[simp] theorem State.modLaunch_tick (s : State) (n : Nat) (f : Launch → Launch) : (s.modLaunch n f).tick = s.tick := rfl
@[simp] theorem State.modLaunch_turn (s : State) (n : Nat) (f : Launch → Launch) : (s.modLaunch n f).turn = s.turn := rfl
@[simp] theorem State.modLaunch_work (s : State) (n : Nat) (f : Launch → Launch) : (s.modLaunch n f).work = s.work := rfl
@[simp] theorem State.modLaunch_inputs (s : State) (n : Nat) (f : Launch → Launch) : (s.modLaunch n f).inputs = s.inputs := rfl
@[simp] theorem State.modLaunch_cur (s : State) (n : Nat) (f : Launch → Launch) : (s.modLaunch n f).cur = s.cur := rfl
@[simp] theorem State.modLaunch_bundle (s : State) (n : Nat) (f : Launch → Launch) : (s.modLaunch n f).bundle = s.bundle := rfl
@[simp] theorem State.modLaunch_issue (s : State) (n : Nat) (f : Launch → Launch) : (s.modLaunch n f).issue = s.issue := rfl
@[simp] theorem State.modLaunch_stage (s : State) (n : Nat) (f : Launch → Launch) : (s.modLaunch n f).stage = s.stage := rfl
@[simp] theorem State.modLaunch_devOut (s : State) (n : Nat) (f : Launch → Launch) : (s.modLaunch n f).devOut = s.devOut := rfl
@[simp] theorem State.modLaunch_zeroLines (s : State) (n : Nat) (f : Launch → Launch) : (s.modLaunch n f).zeroLines = s.zeroLines := rfl
@[simp] theorem State.modLaunch_raised (s : State) (n : Nat) (f : Launch → Launch) : (s.modLaunch n f).raised = s.raised := rfl
@[simp] theorem State.modLaunch_lastIssue (s : State) (n : Nat) (f : Launch → Launch) : (s.modLaunch n f).lastIssue = s.lastIssue := rfl
@[simp] theorem State.modLaunch_patience (s : State) (n : Nat) (f : Launch → Launch) : (s.modLaunch n f).patience = s.patience := rfl
@[simp] theorem State.modLaunch_waiting (s : State) (n : Nat) (f : Launch → Launch) : (s.modLaunch n f).waiting = s.waiting := rfl
@[simp] theorem State.modLaunch_millrace (s : State) (n : Nat) (f : Launch → Launch) : (s.modLaunch n f).millrace = s.millrace := rfl

/-! ### A timeline replaced -/

@[simp] theorem State.setTimeline_ctxs (s : State) (k e : Nat) (t : Timeline) : (s.setTimeline k e t).ctxs = s.ctxs := rfl
@[simp] theorem State.setTimeline_cores (s : State) (k e : Nat) (t : Timeline) : (s.setTimeline k e t).cores = s.cores := rfl
@[simp] theorem State.setTimeline_stash (s : State) (k e : Nat) (t : Timeline) : (s.setTimeline k e t).stash = s.stash := rfl
@[simp] theorem State.setTimeline_mem (s : State) (k e : Nat) (t : Timeline) : (s.setTimeline k e t).mem = s.mem := rfl
@[simp] theorem State.setTimeline_history (s : State) (k e : Nat) (t : Timeline) : (s.setTimeline k e t).history = s.history := rfl
@[simp] theorem State.setTimeline_tlb (s : State) (k e : Nat) (t : Timeline) : (s.setTimeline k e t).tlb = s.tlb := rfl
@[simp] theorem State.setTimeline_barriers (s : State) (k e : Nat) (t : Timeline) : (s.setTimeline k e t).barriers = s.barriers := rfl
@[simp] theorem State.setTimeline_tokens (s : State) (k e : Nat) (t : Timeline) : (s.setTimeline k e t).tokens = s.tokens := rfl
@[simp] theorem State.setTimeline_launches (s : State) (k e : Nat) (t : Timeline) : (s.setTimeline k e t).launches = s.launches := rfl
@[simp] theorem State.setTimeline_nextLaunch (s : State) (k e : Nat) (t : Timeline) : (s.setTimeline k e t).nextLaunch = s.nextLaunch := rfl
@[simp] theorem State.setTimeline_queues (s : State) (k e : Nat) (t : Timeline) : (s.setTimeline k e t).queues = s.queues := rfl
@[simp] theorem State.setTimeline_parts (s : State) (k e : Nat) (t : Timeline) : (s.setTimeline k e t).parts = s.parts := rfl
@[simp] theorem State.setTimeline_age (s : State) (k e : Nat) (t : Timeline) : (s.setTimeline k e t).age = s.age := rfl
@[simp] theorem State.setTimeline_images (s : State) (k e : Nat) (t : Timeline) : (s.setTimeline k e t).images = s.images := rfl
@[simp] theorem State.setTimeline_nextImage (s : State) (k e : Nat) (t : Timeline) : (s.setTimeline k e t).nextImage = s.nextImage := rfl
@[simp] theorem State.setTimeline_steer (s : State) (k e : Nat) (t : Timeline) : (s.setTimeline k e t).steer = s.steer := rfl
@[simp] theorem State.setTimeline_rings (s : State) (k e : Nat) (t : Timeline) : (s.setTimeline k e t).rings = s.rings := rfl
@[simp] theorem State.setTimeline_cqs (s : State) (k e : Nat) (t : Timeline) : (s.setTimeline k e t).cqs = s.cqs := rfl
@[simp] theorem State.setTimeline_front (s : State) (k e : Nat) (t : Timeline) : (s.setTimeline k e t).front = s.front := rfl
@[simp] theorem State.setTimeline_colls (s : State) (k e : Nat) (t : Timeline) : (s.setTimeline k e t).colls = s.colls := rfl
@[simp] theorem State.setTimeline_nextColl (s : State) (k e : Nat) (t : Timeline) : (s.setTimeline k e t).nextColl = s.nextColl := rfl
@[simp] theorem State.setTimeline_reductions (s : State) (k e : Nat) (t : Timeline) : (s.setTimeline k e t).reductions = s.reductions := rfl
@[simp] theorem State.setTimeline_fabric (s : State) (k e : Nat) (t : Timeline) : (s.setTimeline k e t).fabric = s.fabric := rfl
@[simp] theorem State.setTimeline_trust (s : State) (k e : Nat) (t : Timeline) : (s.setTimeline k e t).trust = s.trust := rfl
@[simp] theorem State.setTimeline_poison (s : State) (k e : Nat) (t : Timeline) : (s.setTimeline k e t).poison = s.poison := rfl
@[simp] theorem State.setTimeline_counted (s : State) (k e : Nat) (t : Timeline) : (s.setTimeline k e t).counted = s.counted := rfl
@[simp] theorem State.setTimeline_hbmReady (s : State) (k e : Nat) (t : Timeline) : (s.setTimeline k e t).hbmReady = s.hbmReady := rfl
@[simp] theorem State.setTimeline_fused (s : State) (k e : Nat) (t : Timeline) : (s.setTimeline k e t).fused = s.fused := rfl
@[simp] theorem State.setTimeline_wall (s : State) (k e : Nat) (t : Timeline) : (s.setTimeline k e t).wall = s.wall := rfl
@[simp] theorem State.setTimeline_tick (s : State) (k e : Nat) (t : Timeline) : (s.setTimeline k e t).tick = s.tick := rfl
@[simp] theorem State.setTimeline_turn (s : State) (k e : Nat) (t : Timeline) : (s.setTimeline k e t).turn = s.turn := rfl
@[simp] theorem State.setTimeline_work (s : State) (k e : Nat) (t : Timeline) : (s.setTimeline k e t).work = s.work := rfl
@[simp] theorem State.setTimeline_inputs (s : State) (k e : Nat) (t : Timeline) : (s.setTimeline k e t).inputs = s.inputs := rfl
@[simp] theorem State.setTimeline_cur (s : State) (k e : Nat) (t : Timeline) : (s.setTimeline k e t).cur = s.cur := rfl
@[simp] theorem State.setTimeline_bundle (s : State) (k e : Nat) (t : Timeline) : (s.setTimeline k e t).bundle = s.bundle := rfl
@[simp] theorem State.setTimeline_issue (s : State) (k e : Nat) (t : Timeline) : (s.setTimeline k e t).issue = s.issue := rfl
@[simp] theorem State.setTimeline_stage (s : State) (k e : Nat) (t : Timeline) : (s.setTimeline k e t).stage = s.stage := rfl
@[simp] theorem State.setTimeline_devOut (s : State) (k e : Nat) (t : Timeline) : (s.setTimeline k e t).devOut = s.devOut := rfl
@[simp] theorem State.setTimeline_zeroLines (s : State) (k e : Nat) (t : Timeline) : (s.setTimeline k e t).zeroLines = s.zeroLines := rfl
@[simp] theorem State.setTimeline_raised (s : State) (k e : Nat) (t : Timeline) : (s.setTimeline k e t).raised = s.raised := rfl
@[simp] theorem State.setTimeline_lastIssue (s : State) (k e : Nat) (t : Timeline) : (s.setTimeline k e t).lastIssue = s.lastIssue := rfl
@[simp] theorem State.setTimeline_patience (s : State) (k e : Nat) (t : Timeline) : (s.setTimeline k e t).patience = s.patience := rfl
@[simp] theorem State.setTimeline_waiting (s : State) (k e : Nat) (t : Timeline) : (s.setTimeline k e t).waiting = s.waiting := rfl
@[simp] theorem State.setTimeline_millrace (s : State) (k e : Nat) (t : Timeline) : (s.setTimeline k e t).millrace = s.millrace := rfl

/-! ### Reads after these updates -/

@[simp] theorem State.setCtxOf_ctxs (s : State) (n : Nat) (c : Ctx) : (s.setCtxOf n c).ctxs = amSet s.ctxs n c := rfl

@[simp] theorem State.setCtx_ctxs (s : State) (c : Ctx) : (s.setCtx c).ctxs = amSet s.ctxs s.cur c := rfl

@[simp] theorem State.setCtxOf_ctxOf (s : State) (n : Nat) (c : Ctx) : (s.setCtxOf n c).ctxOf n = c := by
  simp [State.setCtxOf, State.ctxOf]

theorem State.setCtxOf_ctxOf_other (s : State) {n m : Nat} (c : Ctx) (h : m ≠ n) :
    (s.setCtxOf n c).ctxOf m = s.ctxOf m := amGet_amSet_other Ctx.idle s.ctxs c h

@[simp] theorem State.setCtx_ctx (s : State) (c : Ctx) : (s.setCtx c).ctx = c := by
  simp [State.ctx, State.setCtx]

@[simp] theorem State.modArch_ctx (s : State) (f : Arch → Arch) :
    (s.modArch f).ctx = { s.ctx with arch := f s.ctx.arch } := by simp [State.modArch]

@[simp] theorem State.setCtxOf_setCtxOf (s : State) (n : Nat) (c d : Ctx) :
    (s.setCtxOf n c).setCtxOf n d = s.setCtxOf n d := by simp [State.setCtxOf]

@[simp] theorem State.setCtx_setCtx (s : State) (c d : Ctx) : (s.setCtx c).setCtx d = s.setCtx d := by
  simp [State.setCtx]

@[simp] theorem State.modArch_modArch (s : State) (f g : Arch → Arch) :
    (s.modArch f).modArch g = s.modArch fun a => g (f a) := by simp [State.modArch]

theorem State.setCtx_eq (s : State) (c : Ctx) : s.setCtx c = s.setCtxOf s.cur c := rfl

@[simp] theorem State.setTile_tile (s : State) (i : Nat) (t : StashTile) : (s.setTile i t).tile i = t := by
  simp [State.setTile, State.tile]

theorem State.setTile_tile_other (s : State) {i j : Nat} (t : StashTile) (h : j ≠ i) :
    (s.setTile i t).tile j = s.tile j := amGet_amSet_other StashTile.empty s.stash t h

@[simp] theorem State.setTile_ctxOf (s : State) (i n : Nat) (t : StashTile) : (s.setTile i t).ctxOf n = s.ctxOf n := rfl

@[simp] theorem State.setTile_ctx (s : State) (i : Nat) (t : StashTile) : (s.setTile i t).ctx = s.ctx := rfl

@[simp] theorem State.modLaunch_launchOf (s : State) (n : Nat) (f : Launch → Launch) :
    (s.modLaunch n f).launchOf n = f (s.launchOf n) := by simp [State.modLaunch, State.launchOf, amMod]

@[simp] theorem State.modLaunch_ctxOf (s : State) (n k : Nat) (f : Launch → Launch) :
    (s.modLaunch n f).ctxOf k = s.ctxOf k := rfl

@[simp] theorem State.modLaunch_ctx (s : State) (n : Nat) (f : Launch → Launch) : (s.modLaunch n f).ctx = s.ctx := rfl

@[simp] theorem State.setTimeline_timeline (s : State) (k e : Nat) (t : Timeline) :
    (s.setTimeline k e t).timeline k e = t := by simp [State.setTimeline, State.timeline, amMod]

@[simp] theorem State.setTimeline_ctxOf (s : State) (k e n : Nat) (t : Timeline) :
    (s.setTimeline k e t).ctxOf n = s.ctxOf n := rfl

@[simp] theorem State.setTimeline_ctx (s : State) (k e : Nat) (t : Timeline) : (s.setTimeline k e t).ctx = s.ctx := rfl

/-! ### The clock and the bundle of the context in issue -/

@[simp] theorem State.setCtx_now (s : State) (c : Ctx) : (s.setCtx c).now = c.arch.sched := by simp [State.now]

@[simp] theorem State.modArch_now (s : State) (f : Arch → Arch) : (s.modArch f).now = (f s.ctx.arch).sched := by
  simp [State.now]

@[simp] theorem State.setCtx_undef (s : State) (c : Ctx) (w i : Nat) : (s.setCtx c).undef w i = s.undef w i := rfl

@[simp] theorem State.modArch_undef (s : State) (f : Arch → Arch) (w i : Nat) : (s.modArch f).undef w i = s.undef w i := rfl

end Sys2Proof.Machine
end

