-- ==== Sys2Proof/Laws/Writes.lean ====
section
/-! SUPPORT. Everything that the shared operations on registers can do: guards, operand checks, delayed writes to each
register file and what they leave as it is. -/

namespace Sys2Proof.Machine

/-! ### Guards and operand checks -/

theorem guarded_on {g : Guard} {s : State} (k : Out) (h : s.guardOn g = true) : guarded g s k = k := by
  simp [guarded, h]

theorem guarded_off {g : Guard} {s : State} (k : Out) (h : s.guardOn g = false) : guarded g s k = .next s := by
  simp [guarded, h]

theorem poisonFree_clean {s : State} (sl : Nat) {rs : List Nat} (k : Out) (h : ∀ r ∈ rs, r ∉ s.ctx.arch.poison) :
    poisonFree s sl rs k = k := by
  have : rs.any (fun r => decide (r ∈ s.ctx.arch.poison)) = false := by
    simpa [List.any_eq_false] using h
  simp [poisonFree, this]

theorem poisonFree_hit {s : State} (sl : Nat) {rs : List Nat} (k : Out) {r : Nat} (h : r ∈ rs)
    (hp : r ∈ s.ctx.arch.poison) : poisonFree s sl rs k = trapNow s sl 0x20 0 := by
  have : rs.any (fun r => decide (r ∈ s.ctx.arch.poison)) = true := List.any_eq_true.2 ⟨r, h, by simpa using hp⟩
  simp [poisonFree, this]

theorem readingS_sound {s : State} (sl : Nat) {rs : List SCode} (k : Out) (h : s.soundS rs) :
    readingS s sl rs k = k := by
  refine poisonFree_clean sl k ?_
  intro r hr
  obtain ⟨c, hc, rfl⟩ := List.mem_map.1 hr
  exact h c hc

theorem readingV_sound {s : State} (sl : Nat) {cs : List VCode} (k : Out) (h : s.soundV cs) :
    readingV s sl cs k = k := by
  have h1 : cs.all s.vecReadable = true := List.all_eq_true.2 fun c hc => (h c hc).1
  simp only [readingV, withVecs, h1, if_true]
  refine poisonFree_clean sl k ?_
  intro r hr
  obtain ⟨c, hc, rfl⟩ := List.mem_map.1 hr
  obtain ⟨hm, hb⟩ := List.mem_filter.1 hc
  exact (h c hm).2 (by simpa using hb)

/-! ### Poison marks -/

@[simp] theorem clearPoison_cur (s : State) (rs : List Nat) : (clearPoison s rs).cur = s.cur := by
  simp only [clearPoison]; split <;> rfl

@[simp] theorem clearPoison_bundle (s : State) (rs : List Nat) : (clearPoison s rs).bundle = s.bundle := by
  simp only [clearPoison]; split <;> rfl

@[simp] theorem clearPoison_tick (s : State) (rs : List Nat) : (clearPoison s rs).tick = s.tick := by
  simp only [clearPoison]; split <;> rfl

theorem clearPoison_ctx (s : State) (rs : List Nat) : (clearPoison s rs).ctx =
    { s.ctx with arch := { s.ctx.arch with poison := s.ctx.arch.poison.filter fun r => !(r ∈ rs) } } := by
  simp only [clearPoison]
  split
  · rename_i h
    have : s.ctx.arch.poison = [] := by simpa using h
    simp [this]
    rw [← this]
  · simp

@[simp] theorem clearPoison_setCtx (s : State) (rs : List Nat) (c : Ctx) : (clearPoison s rs).setCtx c = s.setCtx c := by
  simp only [clearPoison]
  split
  · rfl
  · simp [State.modArch]

@[simp] theorem clearPoison_undef (s : State) (rs : List Nat) (w i : Nat) : (clearPoison s rs).undef w i = s.undef w i := by
  simp [State.undef]

/-! ### Scalars -/

theorem toNat_ne {w : Nat} {a b : BitVec w} (h : a ≠ b) : a.toNat ≠ b.toNat := fun e => h (BitVec.eq_of_toNat_eq e)

/-- A scalar result: everything that it can do. -/
theorem putS_wrote (s : State) (n : SCode) (x : Word) (due : Nat) :
    WroteS s ((clearPoison s [s.ctx.markS n]).putS n x due) n x due := by
  have hc := clearPoison_ctx s [s.ctx.markS n]
  have hp : (s.ctx.arch.poison.filter fun r => !decide (r ∈ [s.ctx.markS n])) =
      s.ctx.arch.poison.filter fun r => decide (r ≠ s.ctx.markS n) := by
    congr 1; funext r; simp
  simp only [State.putS, State.modArch, hc, clearPoison_setCtx, State.now, Ctx.bankS, Arch.reach]
  split
  · rename_i h0
    subst h0
    refine ⟨?_, ?_, ?_, ?_, ?_⟩
    · simp [State.scalarAt]
    · intro k c _; simp [State.scalarAt, Ctx.bankS]
    · intro k; simp [State.readS, State.now, Ctx.bankS]
    · simp
    · simp [State.sansS]
  · rename_i h0
    split
    · rename_i hb
      refine ⟨?_, ?_, ?_, ?_, ?_⟩
      · have h1 : ¬n = 0#6 := h0
        simp [State.scalarAt, h1, Ctx.bankS, hb, RegFile.write_settled, -BitVec.reduceAllOnes]
      · intro k c hk
        simp only [State.scalarAt, Ctx.bankS, State.setCtx_ctx]
        rw [RegFile.write_other _ _ _ _ _ _ (toNat_ne hk)]
        rfl
      · intro k
        simp [State.readS, State.now, Ctx.bankS, RegFile.write_read_now]
      · simp
      · simp [State.sansS]
    · rename_i hb
      refine ⟨?_, ?_, ?_, ?_, ?_⟩
      · have h1 : ¬n = 0#6 := h0
        simp [State.scalarAt, h1, Ctx.bankS, hb, RegFile.write_settled, -BitVec.reduceAllOnes]
      · intro k c hk
        simp only [State.scalarAt, Ctx.bankS, State.setCtx_ctx]
        rw [RegFile.write_other _ _ _ _ _ _ (toNat_ne hk)]
        rfl
      · intro k
        simp [State.readS, State.now, Ctx.bankS, RegFile.write_read_now]
      · simp
      · simp [State.sansS]

theorem clearPoison_due (s : State) (rs : List Nat) (l : Nat) : (clearPoison s rs).due l = s.due l := by
  simp [State.due, State.now, clearPoison_ctx]

/-- The end of an operation with a scalar result. -/
theorem finishS_wrote (s : State) (n : SCode) (x : Word) (l : Nat) :
    ∃ t, finishS s n x l = .next t ∧ WroteS s t n x (s.due l) :=
  ⟨_, rfl, by
    have := putS_wrote s n x ((clearPoison s [s.ctx.markS n]).due l)
    simp only [State.writeS, clearPoison_due] at this ⊢
    exact this⟩

/-! ### Lane masks -/

/-- Writes on their way to one register, as the bits outside mask see them. -/
theorem applyAll_dropPend {w : Nat} (i c : Nat) (mask : BitVec w) : ∀ (qs : List (PendW w)) (m n : AMap (BitVec w)),
    amGet 0 m i &&& ~~~mask = amGet 0 n i &&& ~~~mask →
    amGet 0 (((dropPend i mask qs).filter fun q => decide (q.due ≤ c) && q.late.isNone).foldl (fun m q => q.apply m) m) i &&& ~~~mask =
      amGet 0 ((qs.filter fun q => decide (q.due ≤ c) && q.late.isNone).foldl (fun m q => q.apply m) n) i &&& ~~~mask
  | [], _, _, h => h
  | q :: qs, m, n, h => by
    by_cases hq : q.idx = i
    · by_cases hz : q.mask &&& ~~~mask = 0
      · simp only [dropPend, hq, if_true, hz]
        by_cases hd : (decide (q.due ≤ c) && q.late.isNone) = true
        · simp only [List.filter_cons, hd, if_true, List.foldl_cons]
          refine applyAll_dropPend i c mask qs m _ ?_
          rw [h]
          simp only [PendW.apply, hq, amGet_amSet_same]
          ext k hk
          have hb := congrArg (fun v : BitVec w => v.getLsbD k) hz
          simp at hb ⊢
          cases hm : mask[k] <;> simp_all
        · simp only [List.filter_cons, hd, if_false, Bool.false_eq_true]
          exact applyAll_dropPend i c mask qs m n h
      · simp only [dropPend, hq, if_true, hz, if_false]
        by_cases hd : (decide (q.due ≤ c) && q.late.isNone) = true
        · simp only [List.filter_cons, hd, if_true, List.foldl_cons]
          refine applyAll_dropPend i c mask qs _ _ ?_
          simp only [PendW.apply, hq, amGet_amSet_same]
          ext k hk
          have hb := congrArg (fun v : BitVec w => v.getLsbD k) h
          simp at hb ⊢
          cases hm : mask[k] <;> simp_all
        · simp only [List.filter_cons, hd, if_false, Bool.false_eq_true]
          exact applyAll_dropPend i c mask qs m n h
    · simp only [dropPend, hq, if_false]
      by_cases hd : (decide (q.due ≤ c) && q.late.isNone) = true
      · simp only [List.filter_cons, hd, if_true, List.foldl_cons]
        refine applyAll_dropPend i c mask qs _ _ ?_
        simp only [PendW.apply]
        rw [amGet_amSet_other _ _ _ (Ne.symm hq), amGet_amSet_other _ _ _ (Ne.symm hq), h]
      · simp only [List.filter_cons, hd, if_false, Bool.false_eq_true]
        exact applyAll_dropPend i c mask qs m n h

/-- A write of part of a register: its bits take the value, the others hold what they would have held (R130, R132). -/
theorem RegFile.write_part {w : Nat} (f : RegFile w) (i : Nat) (mask x : BitVec w) (due now c : Nat) (h : due ≤ c) :
    ((f.write i mask x due now).advance c).settled i = ((f.advance c).settled i &&& ~~~mask) ||| (x &&& mask) := by
  simp only [RegFile.settled, RegFile.advance, RegFile.land, RegFile.write, takeOver_append, List.filter_append, List.foldl_append]
  have h1 : ([{ idx := i, mask := mask, data := x, due := due, issued := now : PendW w }].filter
      fun q => decide (q.due ≤ c) && q.late.isNone) = [{ idx := i, mask := mask, data := x, due := due, issued := now }] := by
    simp [h]
  rw [h1]
  have h2 := applyAll_dropPend i c mask (takeOver f.pend) f.vals f.vals rfl
  generalize ((dropPend i mask (takeOver f.pend)).filter fun q => decide (q.due ≤ c) && q.late.isNone).foldl (fun m q => q.apply m) f.vals
    = m1 at h2 ⊢
  simp only [List.foldl_cons, List.foldl_nil]
  rw [PendW.apply, amGet_amSet_same, h2]

/-- A lane-mask result: everything that it can do. -/
theorem writeM_wrote (s : State) (n : MCode) (mask x : Word) (l : Nat) :
    WroteM s (s.writeM n mask x l) n mask x (s.due l) := by
  simp only [State.writeM, Arch.reach]
  split
  · rename_i h0
    subst h0
    refine ⟨?_, ?_, ?_, ?_⟩
    · simp [State.maskAt]
    · intro k c _; simp [State.maskAt]
    · intro k; simp [State.readM, State.now]
    · simp [State.sansM]
  · rename_i h0
    refine ⟨?_, ?_, ?_, ?_⟩
    · have h1 : ¬n = 0#3 := h0
      simp [State.maskAt, h1, RegFile.write_settled, -BitVec.reduceAllOnes]
    · intro k c hk
      simp only [State.maskAt, State.modArch_ctx]
      rw [RegFile.write_other _ _ _ _ _ _ (toNat_ne hk)]
    · intro k
      simp [State.readM, State.now, RegFile.write_read_now]
    · simp [State.sansM]

/-! ### Predicates -/

/-- Everything that a write of a predicate can be. -/
theorem writeP_cases (s : State) (n : PCode) (x : Bool) :
    (n = 0 ∧ s.writeP n x = s.modArch (·.reach (s.due 1))) ∨
    (n ≠ 0 ∧ s.ctx.bankP n = true ∧ s.writeP n x =
      s.setCtx { s.ctx with hp := s.ctx.hp.write n.toNat 1 (if x then 1 else 0) (s.due 1) s.now }) ∨
    (n ≠ 0 ∧ s.ctx.bankP n = false ∧ s.writeP n x =
      s.modArch fun a => { a.reach (s.due 1) with p := a.p.write n.toNat 1 (if x then 1 else 0) (s.due 1) s.now }) := by
  unfold State.writeP
  by_cases h : n = 0
  · exact .inl ⟨h, by rw [if_pos h]⟩
  · by_cases hb : s.ctx.bankP n = true
    · exact .inr (.inl ⟨h, hb, by rw [if_neg h]; simp only [hb, if_true]⟩)
    · simp only [Bool.not_eq_true] at hb
      exact .inr (.inr ⟨h, hb, by rw [if_neg h]; simp only [hb, Bool.false_eq_true, if_false]⟩)

@[simp] theorem writeP_now (s : State) (n : PCode) (x : Bool) : (s.writeP n x).now = s.now := by
  obtain ⟨_, e⟩ | ⟨_, _, e⟩ | ⟨_, _, e⟩ := writeP_cases s n x <;> simp [e, State.now, Arch.reach]

@[simp] theorem writeP_bundle (s : State) (n : PCode) (x : Bool) : (s.writeP n x).bundle = s.bundle := by
  obtain ⟨_, e⟩ | ⟨_, _, e⟩ | ⟨_, _, e⟩ := writeP_cases s n x <;> simp [e]

@[simp] theorem writeP_due (s : State) (n : PCode) (x : Bool) (l : Nat) : (s.writeP n x).due l = s.due l := by
  simp [State.due]

theorem writeP_sans (s : State) (n : PCode) (x : Bool) : (s.writeP n x).sansP = s.sansP := by
  obtain ⟨_, e⟩ | ⟨_, _, e⟩ | ⟨_, _, e⟩ := writeP_cases s n x <;> simp [e, State.sansP, State.modArch, Arch.reach]

theorem writeP_reads (s : State) (n k : PCode) (x : Bool) : (s.writeP n x).readP k = s.readP k := by
  obtain ⟨_, e⟩ | ⟨_, _, e⟩ | ⟨_, _, e⟩ := writeP_cases s n x <;>
    simp only [e, State.readP, State.now, Ctx.bankP, State.undef, Arch.reach, State.setCtx_ctx, State.modArch_ctx,
      State.modArch_tick, State.modArch_cur, State.setCtx_tick, State.setCtx_cur, RegFile.write_read_now] <;> rfl

theorem writeP_other (s : State) (n k : PCode) (x : Bool) (c : Nat) (h : k ≠ n) :
    (s.writeP n x).predAt k c = s.predAt k c := by
  have h1 := toNat_ne h
  obtain ⟨_, e⟩ | ⟨_, _, e⟩ | ⟨_, _, e⟩ := writeP_cases s n x <;>
    simp only [e, State.predAt, Ctx.bankP, Arch.reach, State.setCtx_ctx, State.modArch_ctx,
      RegFile.write_other _ _ _ _ _ _ h1] <;> rfl

theorem writeP_value (s : State) (n : PCode) (x : Bool) :
    (s.writeP n x).predAt n (s.due 1) = if n = 0 then true else x := by
  have one (b : Bool) (v : BitVec 1) :
      decide (((v &&& ~~~(1 : BitVec 1)) ||| ((if b then (1 : BitVec 1) else 0) &&& 1)) = 1) = b := by
    have : v = 0#1 ∨ v = 1#1 := by revert v; decide
    rcases this with rfl | rfl <;> cases b <;> decide
  obtain ⟨h, e⟩ | ⟨h, hb, e⟩ | ⟨h, hb, e⟩ := writeP_cases s n x
  · simp [State.predAt, h]
  · have hb' : (12 ≤ n.toNat) ∧ s.ctx.handler = true := by simp [Ctx.bankP] at hb; exact ⟨hb.2, hb.1⟩
    simp only [e, State.predAt, if_neg h, State.setCtx_ctx, Ctx.bankP, hb', decide_true, Bool.and_true, if_true]
    rw [RegFile.write_part _ _ _ _ _ _ _ (Nat.le_refl _)]
    exact one x _
  · have hb' : (s.ctx.handler && decide (12 ≤ n.toNat)) = false := hb
    simp only [e, State.predAt, if_neg h, State.modArch_ctx, Ctx.bankP, hb', Bool.false_eq_true, if_false]
    rw [RegFile.write_part _ _ _ _ _ _ _ (Nat.le_refl _)]
    exact one x _

theorem writeP_wrote (s : State) (pt pf : PCode) (b : Bool) :
    WroteP s ((s.writeP pt b).writeP pf (!b)) pt pf b (s.due 1) := by
  have h2 := writeP_value (s.writeP pt b) pf (!b)
  rw [writeP_due] at h2
  refine ⟨?_, h2, ?_, ?_, ?_⟩
  · by_cases h : pt = pf
    · rw [h] at h2 ⊢; rw [h2]; simp
    · rw [writeP_other _ _ _ _ _ h, writeP_value]; simp [h]
  · intro n c h h'
    rw [writeP_other _ _ _ _ _ h', writeP_other _ _ _ _ _ h]
  · intro n; rw [writeP_reads, writeP_reads]
  · rw [writeP_sans, writeP_sans]

/-- A compare's or plog's result. -/
theorem predPair_wrote (s : State) (pt pf : PCode) (b : Bool) :
    ∃ t, predPair s pt pf b = .next t ∧ WroteP s t pt pf b (s.due 1) := ⟨_, rfl, writeP_wrote ..⟩

/-! ### Vectors -/

theorem packElems_lt (w : Nat) (f : Nat → Nat) : ∀ n, packElems w f n < 2 ^ (w * n)
  | 0 => by simp [packElems]
  | n + 1 => by
    have h1 := packElems_lt w f n
    have h2 : f n % 2 ^ w < 2 ^ w := Nat.mod_lt _ (Nat.two_pow_pos w)
    have h3 : 2 ^ (w * (n + 1)) = 2 ^ w * 2 ^ (w * n) := by
      rw [← Nat.pow_add, Nat.mul_add, Nat.mul_one, Nat.add_comm]
    have h4 := Nat.mul_le_mul_right (2 ^ (w * n)) (Nat.succ_le_of_lt h2)
    simp only [packElems, h3]
    rw [Nat.succ_mul] at h4
    omega

/-- The elements of packed elements. -/
theorem elem_packElems (w : Nat) (f : Nat → Nat) : ∀ n i, i < n → elem (packElems w f n) w i = f i % 2 ^ w
  | 0, _, h => absurd h (Nat.not_lt_zero _)
  | n + 1, i, h => by
    have hw := Nat.two_pow_pos w
    by_cases hi : i = n
    · subst hi
      have h1 := packElems_lt w f i
      simp only [elem, packElems]
      rw [Nat.add_mul_div_right _ _ (Nat.two_pow_pos _), Nat.div_eq_of_lt h1, Nat.zero_add, Nat.mod_mod]
    · have h1 := elem_packElems w f n i (by omega)
      rw [← h1]
      have h3 : 2 ^ (w * n) = 2 ^ (w * i) * (2 ^ w * 2 ^ (w * (n - i - 1))) := by
        rw [← Nat.pow_add, ← Nat.pow_add]
        congr 1
        obtain ⟨d, rfl⟩ : ∃ d, n = i + 1 + d := ⟨n - i - 1, by omega⟩
        have : i + 1 + d - i - 1 = d := by omega
        rw [this, Nat.mul_add, Nat.mul_add, Nat.mul_one, Nat.add_assoc]
      simp only [elem, packElems]
      rw [h3, show (f n % 2 ^ w) * (2 ^ (w * i) * (2 ^ w * 2 ^ (w * (n - i - 1)))) =
        2 ^ (w * i) * (2 ^ w * (2 ^ (w * (n - i - 1)) * (f n % 2 ^ w))) by
          rw [Nat.mul_comm (f n % 2 ^ w), Nat.mul_assoc, Nat.mul_assoc],
        Nat.add_mul_div_left _ _ (Nat.two_pow_pos _), Nat.add_mul_mod_self_left]

theorem bits_lanes (t : Ty) : t.bits * t.lanes = 2048 := by cases t <;> rfl

theorem lane_ofLanes (t : Ty) (f : Nat → Nat) (l : Nat) (h : l < t.lanes) : lane (ofLanes t f) t l = f l % 2 ^ t.bits := by
  have h1 := packElems_lt t.bits f t.lanes
  rw [bits_lanes] at h1
  rw [lane, ofLanes, BitVec.toNat_ofNat, Nat.mod_eq_of_lt h1, elem_packElems _ _ _ _ h]

theorem lane_lt (x : VReg) (t : Ty) (l : Nat) : lane x t l < 2 ^ t.bits := Nat.mod_lt _ (Nat.two_pow_pos _)

theorem lane_mergeLanes (t : Ty) (k : Word) (old new : VReg) (l : Nat) (h : l < t.lanes) :
    lane (mergeLanes t k old new) t l = if activeIn k l t then lane new t l else lane old t l := by
  rw [mergeLanes, lane_ofLanes _ _ _ h]
  split <;> exact Nat.mod_eq_of_lt (lane_lt ..)

/-- A vector result with its journal entry: everything that it can do. -/
theorem storeV_wrote (s : State) (sl : Nat) (c : VCode) (whole : Bool) (x : VReg) (due : Nat) (hc : s.roomFor c) :
    ∃ t, storeV s sl c whole x due = .next t ∧ WroteV s t c whole x due := by
  by_cases hb : isBypass c = true
  · refine ⟨_, by rw [storeV, if_pos hb], ?_⟩
    simp only [State.putV, hb, if_true]
    refine ⟨?_, ?_, ?_, ?_, ?_, ?_, ?_⟩
    · simp [State.vectorMade, hb]
    · intro n k _; simp [State.vectorAt, Arch.reach]
    · intro n; simp [State.fileV, State.now, Arch.reach, State.undef]
    · simp [hb]
    · simp [hb]
    · simp [hb, Arch.reach]
    · simp [State.sansV, Arch.reach]
  · have hr : s.roomV [c.toNat] := hc.resolve_left hb
    have hj : ¬16 < (insertAll [c.toNat] s.ctx.journalV).length := Nat.not_lt.2 hr
    simp only [Bool.not_eq_true] at hb
    simp only [storeV, hb, Bool.false_eq_true, if_false, journalAddV, vecEntry, hj]
    refine ⟨_, rfl, ?_⟩
    generalize hj2 : insertAll [c.toNat] s.ctx.journalV = j
    let u : State := s.setCtx { s.ctx with
      journalV := j, arch := { s.ctx.arch with
        poison := if whole then s.ctx.arch.poison.filter fun r => !(r ∈ [c.toNat]) else s.ctx.arch.poison } }
    have hu (f : Arch → Arch) : (if whole = true then clearPoison (s.setCtx { s.ctx with journalV := j }) [c.toNat]
        else s.setCtx { s.ctx with journalV := j }).modArch f = u.modArch f := by
      cases whole
      · rfl
      · simp [State.modArch, clearPoison_ctx, u]
    simp only [State.putV, hb, Bool.false_eq_true, if_false, hu]
    have hn : (if whole = true then clearPoison (s.setCtx { s.ctx with journalV := j }) [c.toNat]
        else s.setCtx { s.ctx with journalV := j }).now = s.now := by
      cases whole <;> simp [State.now, clearPoison_ctx]
    rw [hn]
    refine ⟨?_, ?_, ?_, ?_, ?_, ?_, ?_⟩
    · simp [State.vectorMade, hb, State.vectorAt, Arch.reach, u, RegFile.write_settled, -BitVec.reduceAllOnes]
    · intro n k hn
      have hn : n ≠ c.toNat := hn.resolve_left (by simp [hb])
      simp only [State.vectorAt, Arch.reach, u, State.modArch_ctx, State.setCtx_ctx]
      rw [RegFile.write_other _ _ _ _ _ _ hn]
    · intro n; simp [State.fileV, State.now, Arch.reach, State.undef, u, RegFile.write_read_now]
    · simp [hb, u]
    · simp [hb, u, hj2]
    · cases whole <;> simp [hb, u, Arch.reach]
    · simp [State.sansV, Arch.reach, u, State.modArch]

/-- A lanewise result under a write mask: everything that it can do. -/
theorem writeV_wrote (s : State) (sl : Nat) (ty : Ty) (m : MCode) (c : VCode) (f : Nat → Nat) (l : Nat) (hc : s.roomFor c) :
    ∃ t, writeV s sl c ty m (ofLanes ty f) l = .next t ∧ WroteLanes s t ty m c f (s.due l) := by
  obtain ⟨t, ht, hw⟩ := storeV_wrote s sl c (s.readM m == BitVec.allOnes 64)
    (mergeLanes ty (s.readM m) (s.keptV c) (ofLanes ty f)) (s.due l) hc
  refine ⟨t, ht, _, hw, ?_⟩
  intro k hk
  rw [lane_mergeLanes _ _ _ _ _ hk, lane_ofLanes _ _ _ hk]
  rfl

/-- A lanewise operation: everything that it can do when its guard holds and its sources can be read. -/
theorem laneOp_wrote {g : Guard} {v1 : Bool} {ty : Ty} {srcs : List VCode} {vd : VCode} {m : MCode} {f : Nat → Nat} {l : Nat}
    {s : State} (hg : s.guardOn g = true) (hs : s.soundV srcs) (hc : s.roomFor vd) :
    ∃ t, laneOp g v1 ty srcs vd m f l s = .next t ∧ WroteLanes s t ty m vd f (s.due l) := by
  rw [laneOp, guarded_on _ hg, readingV_sound _ _ hs]
  exact writeV_wrote s _ ty m vd f l hc

/-- A lanewise operation that reads a scalar register too. -/
theorem wideOp_wrote {g : Guard} {v1 : Bool} {ty : Ty} {srcs : List VCode} {vd : VCode} {m : MCode} {sa : SCode}
    {f : Nat → Nat} {l : Nat} {s : State} (hg : s.guardOn g = true) (hs : s.soundV srcs) (ha : s.soundS [sa])
    (hc : s.roomFor vd) :
    ∃ t, wideOp g v1 ty srcs vd m sa f l s = .next t ∧ WroteLanes s t ty m vd f (s.due l) := by
  rw [wideOp, guarded_on _ hg, readingS_sound _ _ ha, readingV_sound _ _ hs]
  exact writeV_wrote s _ ty m vd f l hc

/-! ### Tile registers -/

/-- A tile-register result with its journal entries: everything that it can do. -/
theorem storeT_wrote (s : State) (sl : Nat) (n : TCode) (gs : List Nat) (mask x : TReg) (due : Nat)
    (h : s.roomV (gs.map (rowEntry n.toNat))) :
    ∃ t, storeT s sl n gs mask x due = .next t ∧ WroteT s t n gs mask x due := by
  have hj : ¬16 < (insertAll (gs.map (rowEntry n.toNat)) s.ctx.journalV).length := Nat.not_lt.2 h
  simp only [storeT, journalAddV, hj, if_false]
  refine ⟨_, rfl, ?_⟩
  simp only [State.putT, Arch.reach]
  refine ⟨?_, ?_, ?_, ?_, ?_⟩
  · simp [State.tileAt, RegFile.write_part]
  · intro k c hk
    simp only [State.tileAt, State.modArch_ctx, State.setCtx_ctx]
    rw [RegFile.write_other _ _ _ _ _ _ (toNat_ne hk)]
  · intro k; simp [State.readT, State.now, State.undef, RegFile.write_read_now]
  · simp
  · simp [State.sansT, State.modArch]

end Sys2Proof.Machine
end

