-- ==== Sys2Proof/Tests/Slice0.lean ====
section
/-! SUPPORT. Tests: words written out from the encodings decode to their operations, ill-formed terms are refused, the
manual's worked values come out, and states that meet the hypotheses of each statement. Expected values are the
manual's or computed by hand from its rules. -/

namespace Sys2Proof.Tests

open Sys2Proof Sys2Proof.Machine

/- One proof at a time: kernel evaluations that wait for each other would each hold a thread. -/
set_option Elab.async false

theorem test_decode_scalar_registers :
    decodeSlot .s 0x0190A30E00000000 = .ok (.add ⟨true, 2⟩ 5 6 7) ∧
    decodeSlot .s 0x0290A30E00000000 = .ok (.sub ⟨true, 2⟩ 5 6 7) ∧
    decodeSlot .s 0x0390A30E00000000 = .ok (.mul ⟨true, 2⟩ 5 6 7) ∧
    decodeSlot .s 0x0490A30E00080000 = .ok (.mulh ⟨true, 2⟩ true 5 6 7) ∧
    decodeSlot .s 0x0590A30E00080000 = .ok (.div ⟨true, 2⟩ true 5 6 7) ∧
    decodeSlot .s 0x0690A30E00080000 = .ok (.rem ⟨true, 2⟩ true 5 6 7) ∧
    decodeSlot .s 0x0790A30E00000000 = .ok (.and ⟨true, 2⟩ 5 6 7) ∧
    decodeSlot .s 0x0890A30E00000000 = .ok (.or ⟨true, 2⟩ 5 6 7) ∧
    decodeSlot .s 0x0990A30E00000000 = .ok (.xor ⟨true, 2⟩ 5 6 7) ∧
    decodeSlot .s 0x0A90A30E00000000 = .ok (.andn ⟨true, 2⟩ 5 6 7) ∧
    decodeSlot .s 0x0B90A30E00000000 = .ok (.shl ⟨true, 2⟩ 5 6 7) ∧
    decodeSlot .s 0x0C90A30E00080000 = .ok (.shr ⟨true, 2⟩ true 5 6 7) ∧
    decodeSlot .s 0x0D90A30E00080000 = .ok (.min ⟨true, 2⟩ true 5 6 7) ∧
    decodeSlot .s 0x0E90A30E00080000 = .ok (.max ⟨true, 2⟩ true 5 6 7) :=
  ⟨rfl, rfl, rfl, rfl, rfl, rfl, rfl, rfl, rfl, rfl, rfl, rfl, rfl, rfl⟩

theorem test_decode_scalar_immediates :
    decodeSlot .s 0x107C3F0080000001 = .ok (.addi ⟨false, 15⟩ 33 62 0x80000001) ∧
    decodeSlot .s 0x117C3F0080000001 = .ok (.andi ⟨false, 15⟩ 33 62 0x80000001) ∧
    decodeSlot .s 0x127C3F0080000001 = .ok (.ori ⟨false, 15⟩ 33 62 0x80000001) ∧
    decodeSlot .s 0x137C3F0080000001 = .ok (.xori ⟨false, 15⟩ 33 62 0x80000001) ∧
    decodeSlot .s 0x147C3F0000000029 = .ok (.shli ⟨false, 15⟩ 33 62 0x29) ∧
    decodeSlot .s 0x157C3F0100000029 = .ok (.shri ⟨false, 15⟩ true 33 62 0x29) ∧
    decodeSlot .s 0x167C200080000001 = .ok (.movi ⟨false, 15⟩ 33 0x80000001) ∧
    decodeSlot .s 0x177C3F0080000001 = .ok (.movhi ⟨false, 15⟩ 33 62 0x80000001) ∧
    decodeSlot .s 0x187C3F0580000001 = .ok (.lea ⟨false, 15⟩ 5 33 62 0x80000001) :=
  ⟨rfl, rfl, rfl, rfl, rfl, rfl, rfl, rfl, rfl⟩

theorem test_decode_scalar_compares :
    decodeSlot .s 0x2001A12548000000 = .ok (.cmp ⟨false, 0⟩ .geZ 3 4 9 10) ∧
    decodeSlot .s 0x2101A120100FFFFF = .ok (.cmpi ⟨false, 0⟩ .ltS 3 4 9 0xFFFFF) ∧
    decodeSlot .s 0x2201A12530000000 = .ok (.fcmp ⟨false, 0⟩ .un 3 4 9 10) ∧
    decodeSlot .s 0x2301A0A300900000 = .ok (.plog ⟨false, 0⟩ 3 4 5 6 0x9) :=
  ⟨rfl, rfl, rfl, rfl⟩

theorem test_decode_scalar_fp :
    decodeSlot .s 0x3000A30E00000000 = .ok (.fadd ⟨false, 0⟩ 5 6 7) ∧
    decodeSlot .s 0x3100A30E00000000 = .ok (.fsub ⟨false, 0⟩ 5 6 7) ∧
    decodeSlot .s 0x3200A30E00000000 = .ok (.fmul ⟨false, 0⟩ 5 6 7) ∧
    decodeSlot .s 0x3300A30E40000000 = .ok (.ffma ⟨false, 0⟩ 5 6 7 8) ∧
    decodeSlot .s 0x3400A30E00000000 = .ok (.fdiv ⟨false, 0⟩ 5 6 7) ∧
    decodeSlot .s 0x3500A30000000000 = .ok (.fsqrt ⟨false, 0⟩ 5 6) ∧
    decodeSlot .s 0x3600A30E00000000 = .ok (.fmin ⟨false, 0⟩ 5 6 7) ∧
    decodeSlot .s 0x3700A30E00000000 = .ok (.fmax ⟨false, 0⟩ 5 6 7) ∧
    decodeSlot .s 0x3800A30004D80000 = .ok (.fcvt ⟨false, 0⟩ 9 true .rz true 5 6) :=
  ⟨rfl, rfl, rfl, rfl, rfl, rfl, rfl, rfl, rfl⟩

theorem test_decode_control :
    decodeSlot .s 0x400FFFFFFC000000 = .ok (.br ⟨false, 1⟩ 0x1FFFFFF) ∧
    decodeSlot .s 0x410000000C024000 = .ok (.call ⟨false, 0⟩ 9 3) ∧
    decodeSlot .s 0x4200000000800000 = .ok (.jmp ⟨false, 0⟩ 8) ∧
    decodeSlot .s 0x4300000000824000 = .ok (.calli ⟨false, 0⟩ 9 8) ∧
    decodeSlot .s 0x4400000000800000 = .ok (.ret ⟨false, 0⟩ 8) ∧
    decodeSlot .s 0x4507FFFFF8014000 = .ok (.loop ⟨false, 0⟩ 5 0x1FFFFFE) ∧
    decodeSlot .s 0x4800000000000000 = .ok (.tret ⟨false, 0⟩) ∧
    decodeSlot .s 0x5000E00200000000 = .ok (.rdsp ⟨false, 0⟩ 7 (.sys .cause)) ∧
    decodeSlot .s 0x5100E406C0000000 = .ok (.wrsp ⟨false, 0⟩ 7 (.shadow 6 3)) :=
  ⟨rfl, rfl, rfl, rfl, rfl, rfl, rfl, rfl, rfl⟩

theorem test_decode_integer_lanes :
    decodeSlot .v0 0x010028160C003101 = .ok (.vadd ⟨false, 0⟩ false .s16 true 10 11 12 3) ∧
    decodeSlot .v1 0x020028160C003101 = .ok (.vsub ⟨false, 0⟩ true .s16 true 10 11 12 3) ∧
    decodeSlot .v0 0x030028160C003101 = .ok (.vmul ⟨false, 0⟩ false .s16 true 10 11 12 3) ∧
    decodeSlot .v1 0x040028160C003100 = .ok (.vmulh ⟨false, 0⟩ true .s16 10 11 12 3) ∧
    decodeSlot .v0 0x050028160C003100 = .ok (.vmin ⟨false, 0⟩ false .s16 10 11 12 3) ∧
    decodeSlot .v1 0x060028160C003100 = .ok (.vmax ⟨false, 0⟩ true .s16 10 11 12 3) ∧
    decodeSlot .v0 0x0700281600003101 = .ok (.vabs ⟨false, 0⟩ false .s16 true 10 11 3) ∧
    decodeSlot .v1 0x0800281600003101 = .ok (.vneg ⟨false, 0⟩ true .s16 true 10 11 3) ∧
    decodeSlot .v0 0x090028160C003100 = .ok (.vand ⟨false, 0⟩ false .s16 10 11 12 3) ∧
    decodeSlot .v1 0x0A0028160C003100 = .ok (.vor ⟨false, 0⟩ true .s16 10 11 12 3) ∧
    decodeSlot .v0 0x0B0028160C003100 = .ok (.vxor ⟨false, 0⟩ false .s16 10 11 12 3) ∧
    decodeSlot .v1 0x0C0028160C003100 = .ok (.vandn ⟨false, 0⟩ true .s16 10 11 12 3) ∧
    decodeSlot .v0 0x0D0028160C003100 = .ok (.vshl ⟨false, 0⟩ false .s16 10 11 12 3) ∧
    decodeSlot .v1 0x0E0028160C003100 = .ok (.vshr ⟨false, 0⟩ true .s16 10 11 12 3) ∧
    decodeSlot .v0 0x0F0028160C003100 = .ok (.vsel ⟨false, 0⟩ false .s16 10 11 12 3) :=
  ⟨rfl, rfl, rfl, rfl, rfl, rfl, rfl, rfl, rfl, rfl, rfl, rfl, rfl, rfl, rfl⟩

theorem test_decode_vector_immediates :
    decodeSlot .v0 0x100028168801FFFE = .ok (.vaddi ⟨false, 0⟩ false .s32 true 10 11 2 0xFFFE) ∧
    decodeSlot .v1 0x1100281694008001 = .ok (.vandi ⟨false, 0⟩ true .z16 10 11 2 0x8001) ∧
    decodeSlot .v0 0x1200281698900011 = .ok (.vshli ⟨false, 0⟩ false .z32 10 11 2 9 17) ∧
    decodeSlot .v1 0x130028168C900011 = .ok (.vshri ⟨false, 0⟩ true .s64 10 11 2 9 17) ∧
    decodeSlot .v0 0x1400280094003F80 = .ok (.vmovi ⟨false, 0⟩ false .z16 10 2 0x3F80) :=
  ⟨rfl, rfl, rfl, rfl, rfl⟩

theorem test_decode_fp_lanes :
    decodeSlot .v1 0x200028160C003A00 = .ok (.vfadd ⟨false, 0⟩ true .f16 10 11 12 3) ∧
    decodeSlot .v0 0x210028160C003800 = .ok (.vfsub ⟨false, 0⟩ false .f32 10 11 12 3) ∧
    decodeSlot .v1 0x220028160C003800 = .ok (.vfmul ⟨false, 0⟩ true .f32 10 11 12 3) ∧
    decodeSlot .v0 0x230028160C06B800 = .ok (.vffma ⟨false, 0⟩ false .f32 10 11 12 13 3) ∧
    decodeSlot .v1 0x240028160C06B800 = .ok (.vfnma ⟨false, 0⟩ true .f32 10 11 12 13 3) ∧
    decodeSlot .v0 0x250028160C003800 = .ok (.vfdiv ⟨false, 0⟩ false .f32 10 11 12 3) ∧
    decodeSlot .v1 0x2600281600003800 = .ok (.vfsqrt ⟨false, 0⟩ true .f32 10 11 3) ∧
    decodeSlot .v0 0x270028160C003A00 = .ok (.vfmin ⟨false, 0⟩ false .f16 10 11 12 3) ∧
    decodeSlot .v1 0x280028160C003800 = .ok (.vfmax ⟨false, 0⟩ true .f32 10 11 12 3) ∧
    decodeSlot .v0 0x2900281600003800 = .ok (.vfabs ⟨false, 0⟩ false .f32 10 11 3) ∧
    decodeSlot .v1 0x2A00281600003800 = .ok (.vfneg ⟨false, 0⟩ true .f32 10 11 3) :=
  ⟨rfl, rfl, rfl, rfl, rfl, rfl, rfl, rfl, rfl, rfl, rfl⟩

theorem test_decode_conversions :
    decodeSlot .v0 0x3000281608000BC7 = .ok (.vcvt ⟨false, 0⟩ false .e4m3 .f32 6 true .rd 10 11 0) ∧
    decodeSlot .v1 0x310028160C001041 = .ok (.vcvts ⟨false, 0⟩ true .s8 2 false .rz 10 11 12 1) ∧
    decodeSlot .v0 0x3200281600000874 = .ok (.vsbpk ⟨false, 0⟩ false 2 3 true .rn 10 11 0) ∧
    decodeSlot .v1 0x33002816000028A8 = .ok (.vsbun ⟨false, 0⟩ true 1 5 false .rn 10 11 2) :=
  ⟨rfl, rfl, rfl, rfl⟩

theorem test_decode_permutes :
    decodeSlot .v0 0x400028160C003401 = .ok (.vperm ⟨false, 0⟩ false .z8 true 10 11 12 3) ∧
    decodeSlot .v1 0x410028168090012C = .ok (.vrot ⟨false, 0⟩ true .s8 10 11 2 9 300) ∧
    decodeSlot .v1 0x420028168090012C = .ok (.vbcl ⟨false, 0⟩ true .s8 10 11 2 9 300) ∧
    decodeSlot .v1 0x470028168091012C = .ok (.vslide ⟨false, 0⟩ true .s8 true 10 11 2 9 300) ∧
    decodeSlot .v0 0x430028160C003801 = .ok (.vzip ⟨false, 0⟩ false .f32 true 10 11 12 3) ∧
    decodeSlot .v0 0x440028160C003801 = .ok (.vuzp ⟨false, 0⟩ false .f32 true 10 11 12 3) ∧
    decodeSlot .v1 0x4500281600003900 = .ok (.vcomp ⟨false, 0⟩ true .bf16 10 11 3) ∧
    decodeSlot .v1 0x4600281600003900 = .ok (.vexpd ⟨false, 0⟩ true .bf16 10 11 3) :=
  ⟨rfl, rfl, rfl, rfl, rfl, rfl, rfl, rfl⟩

theorem test_decode_reductions :
    decodeSlot .v1 0x5000281600003201 = .ok (.vsum ⟨false, 0⟩ true .s32 true 10 11 3) ∧
    decodeSlot .v0 0x5100281600003200 = .ok (.vrmax ⟨false, 0⟩ false .s32 10 11 3) ∧
    decodeSlot .v1 0x5200281600003200 = .ok (.vrmin ⟨false, 0⟩ true .s32 10 11 3) ∧
    decodeSlot .v0 0x5300281600003800 = .ok (.vfsum ⟨false, 0⟩ false .f32 10 11 3) ∧
    decodeSlot .v1 0x5400281600003800 = .ok (.vfrmax ⟨false, 0⟩ true .f32 10 11 3) ∧
    decodeSlot .v0 0x5500281600003800 = .ok (.vfrmin ⟨false, 0⟩ false .f32 10 11 3) :=
  ⟨rfl, rfl, rfl, rfl, rfl, rfl⟩

theorem test_decode_masks :
    decodeSlot .v0 0x580014160C003607 = .ok (.vcmp ⟨false, 0⟩ false .leZ .z32 false 5 11 12 3) ∧
    decodeSlot .v1 0x5904B0160C003814 = .ok (.vfcmp ⟨false, 0⟩ true .gt .f32 true 300 11 12 3) ∧
    decodeSlot .v0 0x5A00140C07000006 = .ok (.mlog ⟨false, 0⟩ false 5 6 7 0x6) ∧
    decodeSlot .v1 0x600028160C00383F = .ok (.vtmask ⟨false, 0⟩ true .f32 true 31 10 11 12 3) :=
  ⟨rfl, rfl, rfl, rfl⟩

theorem test_decode_probability :
    decodeSlot .v0 0x68002816880B0020 = .ok (.psqz ⟨false, 0⟩ false .s32 11 32 10 11 2) ∧
    decodeSlot .v1 0x690028160C003000 = .ok (.plut ⟨false, 0⟩ true 10 11 12 3) ∧
    decodeSlot .v0 0x6A0028160C06B000 = .ok (.pmix ⟨false, 0⟩ false 10 11 12 13 3) :=
  ⟨rfl, rfl, rfl⟩

theorem test_decode_coder :
    decodeSlot .v1 0x8000501000002001 = .ok (.cdec ⟨false, 0⟩ 1 20 8 2) ∧
    decodeSlot .v1 0x8100001009002002 = .ok (.cenc ⟨false, 0⟩ 2 8 9 2) ∧
    decodeSlot .v1 0x8200501000002003 = .ok (.cdecm ⟨false, 0⟩ 3 20 8 2) ∧
    decodeSlot .v1 0x8300001009002001 = .ok (.cencm ⟨false, 0⟩ 1 8 9 2) ∧
    decodeSlot .v1 0x8400001009053006 = .ok (.cinit ⟨false, 0⟩ true 2 8 9 10 3) ∧
    decodeSlot .v1 0x8500000000004003 = .ok (.cflush ⟨false, 0⟩ 3 4) ∧
    decodeSlot .v1 0x8604B00000004001 = .ok (.csave ⟨false, 0⟩ 1 300 4) ∧
    decodeSlot .v1 0x8700025800004001 = .ok (.cload ⟨false, 0⟩ 1 300 4) ∧
    decodeSlot .v1 0x880018000000400E = .ok (.cstat ⟨false, 0⟩ 3 2 6 4) :=
  ⟨rfl, rfl, rfl, rfl, rfl, rfl, rfl, rfl, rfl⟩

theorem test_decode_matrix :
    decodeSlot .m 0x0105FFDC14889900 = .ok (.mma ⟨false, 0⟩ { acc := 3071, ta := 5, tb := 6, v := 20, ca := .sb5, cb := .sb5, taT := true, tbT := false, al := false, mr := some 9 }) ∧
    decodeSlot .m 0x0200500200346000 = .ok (.mmaz ⟨false, 0⟩ { acc := 160, ta := 0, tb := 1, v := 0, ca := .e4m3, cb := .e5m2, taT := false, tbT := true, al := true, mr := none }) ∧
    decodeSlot .m 0x0300082600550094 = .ok (.mmam ⟨false, 0⟩ { acc := 16, ta := 2, tb := 3, v := 0, ca := .int8, cb := .int8, taT := false, tbT := false, al := false, mr := none } 4 5) ∧
    decodeSlot .m 0x04000000000C8000 = .ok (.mcall ⟨false, 0⟩ 100) ∧
    decodeSlot .m 0x0500000000000000 = .ok (.mret ⟨false, 0⟩) ∧
    decodeSlot .m 0x0600005000000000 = .ok (.mcb ⟨false, 0⟩ 5) ∧
    decodeSlot .m 0x0700006000000000 = .ok (.mzb ⟨false, 0⟩ 6) ∧
    decodeSlot .m 0x080000017F0C0000 = .ok (.mrgat ⟨false, 0⟩ 383 6) ∧
    decodeSlot .m 0x09009600000ACE40 = .ok (.mrule ⟨false, 0⟩ 300 2 true 1 9 200) ∧
    decodeSlot .m 0x0A00003000084000 = .ok (.mrtab ⟨false, 0⟩ 3 33) ∧
    decodeSlot .m 0x0B003200000000FF = .ok (.aclr ⟨false, 0⟩ 100 255) ∧
    decodeSlot .m 0x0C000020000E1878 = .ok (.mpld ⟨false, 0⟩ 2 112 48 15) :=
  ⟨rfl, rfl, rfl, rfl, rfl, rfl, rfl, rfl, rfl, rfl, rfl, rfl⟩

theorem test_decode_loads :
    decodeSlot .l 0x0100244000A083FF = .ok (.lds ⟨false, 0⟩ .s32 9 4 0x3FF 5) ∧
    decodeSlot .l 0x0200284000A20000 = .ok (.ldv ⟨false, 0⟩ .f32 10 4 0 5 0) ∧
    decodeSlot .l 0x0305FC41E7FE4002 = .ok (.ldvs ⟨false, 0⟩ .bf16 383 4 60 2 63 7) ∧
    decodeSlot .l 0x04107840618E0400 = .ok (.ldg ⟨false, 2⟩ .f32 true 30 4 12 0 12 3) ∧
    decodeSlot .l 0x05007840018DC001 = .ok (.ldb ⟨false, 0⟩ .z64 30 4 1 12 3) ∧
    decodeSlot .l 0x06001C4002003C02 = .ok (.ldt ⟨false, 0⟩ 7 15 4 2 16) ∧
    decodeSlot .l 0x0700F06039420090 = .ok (.ldp ⟨false, 0⟩ 1 2 false 60 6 7 10 0) ∧
    decodeSlot .l 0x0800040001080000 = .ok (.ldc ⟨false, 0⟩ 1 8 2) :=
  ⟨rfl, rfl, rfl, rfl, rfl, rfl, rfl, rfl⟩

theorem test_decode_stores :
    decodeSlot .st 0x0100244000010200 = .ok (.sts ⟨false, 0⟩ .z8 9 4 0x200) ∧
    decodeSlot .st 0x0200508000000000 = .ok (.stv ⟨false, 0⟩ .s8 20 8 0 0) ∧
    decodeSlot .st 0x03005080480A8001 = .ok (.stvs ⟨false, 0⟩ .f16 20 8 9 1 2) ∧
    decodeSlot .st 0x04005080F0088401 = .ok (.stsc ⟨false, 0⟩ .s32 true 20 8 30 1 2) ∧
    decodeSlot .st 0x0500188000001403 = .ok (.stt ⟨false, 0⟩ 6 5 8 3) ∧
    decodeSlot .st 0x0600180FF8000000 = .ok (.stq ⟨false, 0⟩ 6 511) ∧
    decodeSlot .st 0x07000080000003FF = .ok (.stz ⟨false, 0⟩ 8 0x3FF) :=
  ⟨rfl, rfl, rfl, rfl, rfl, rfl, rfl⟩

theorem test_decode_cluster_moves :
    decodeSlot .x 0x0100280250FF = .ok (.xsv ⟨false, 0⟩ .z8 255 10 9) ∧
    decodeSlot .x 0x020028026000 = .ok (.xsvb ⟨false, 0⟩ .f32 10 9) ∧
    decodeSlot .x 0x030028024464 = .ok (.xvs ⟨false, 0⟩ .s16 100 9 10) ∧
    decodeSlot .x 0x04002ADF4000 = .ok (.xvt ⟨false, 0⟩ 10 5 true 31 1) ∧
    decodeSlot .x 0x05002ABF0000 = .ok (.xtv ⟨false, 0⟩ 10 5 false 63 0) ∧
    decodeSlot .x 0x0605F0190000 = .ok (.xav ⟨false, 0⟩ 380 100) ∧
    decodeSlot .x 0x070022FFC000 = .ok (.xva ⟨false, 0⟩ 8 3071) :=
  ⟨rfl, rfl, rfl, rfl, rfl, rfl, rfl⟩

theorem test_decode_engine_commands :
    decodeSlot .x 0x101945FFF800 = .ok (.xcopy ⟨false, 3⟩ 4095 10 11) ∧
    decodeSlot .x 0x110145CA0000 = .ok (.xpack ⟨false, 0⟩ 4 .ru true 10 11) ∧
    decodeSlot .x 0x120145A00000 = .ok (.xunpk ⟨false, 0⟩ 2 10 11) ∧
    decodeSlot .x 0x130145800000 = .ok (.xdec ⟨false, 0⟩ 10 11) ∧
    decodeSlot .x 0x140145C00000 = .ok (.xzs ⟨false, 0⟩ true 10 11) ∧
    decodeSlot .x 0x150001804000 = .ok (.xcrc ⟨false, 0⟩ 8 0 3) ∧
    decodeSlot .x 0x180145F00000 = .ok (.xnest ⟨false, 0⟩ 112 10 11) ∧
    decodeSlot .x 0x208980000000 = .ok (.xbcast ⟨true, 1⟩ 12) ∧
    decodeSlot .x 0x218980000000 = .ok (.xgath ⟨true, 1⟩ 12) ∧
    decodeSlot .x 0x228980000000 = .ok (.xsend ⟨true, 1⟩ 12) ∧
    decodeSlot .x 0x238980000000 = .ok (.xrecv ⟨true, 1⟩ 12) ∧
    decodeSlot .x 0x248980000000 = .ok (.xrscat ⟨true, 1⟩ 12) ∧
    decodeSlot .x 0x258980000000 = .ok (.xallred ⟨true, 1⟩ 12) ∧
    decodeSlot .x 0x260186800000 = .ok (.xcancel ⟨false, 0⟩ 12 13) :=
  ⟨rfl, rfl, rfl, rfl, rfl, rfl, rfl, rfl, rfl, rfl, rfl, rfl, rfl, rfl⟩

theorem test_decode_synchronisation :
    decodeSlot .y 0x010186800000 = .ok (.twait ⟨false, 0⟩ 12 13) ∧
    decodeSlot .y 0x020006800000 = .ok (.tsig ⟨false, 0⟩ 13) ∧
    decodeSlot .y 0x03012600A000 = .ok (.tread ⟨false, 0⟩ 9 12 20) ∧
    decodeSlot .y 0x080000400000 = .ok (.fence ⟨false, 0⟩ 4) ∧
    decodeSlot .y 0x280000000000 = .ok (.arrive ⟨false, 0⟩ 0) ∧
    decodeSlot .y 0x2900003C0000 = .ok (.bwait ⟨false, 0⟩ 15) ∧
    decodeSlot .y 0x2A0000400000 = .ok (.drop ⟨false, 0⟩ 16) :=
  ⟨rfl, rfl, rfl, rfl, rfl, rfl, rfl⟩

theorem test_decode_atomics :
    decodeSlot .y 0x100004120000 = .ok (.aadd ⟨false, 0⟩ .s32 false 0 8 9 0) ∧
    decodeSlot .y 0x11014412A500 = .ok (.aand ⟨false, 0⟩ .s64 true 10 8 9 20) ∧
    decodeSlot .y 0x120004120200 = .ok (.aor ⟨false, 0⟩ .z32 false 0 8 9 0) ∧
    decodeSlot .y 0x13014412A700 = .ok (.axor ⟨false, 0⟩ .z64 true 10 8 9 20) ∧
    decodeSlot .y 0x140004120000 = .ok (.amin ⟨false, 0⟩ .s32 false 0 8 9 0) ∧
    decodeSlot .y 0x15014412A500 = .ok (.amax ⟨false, 0⟩ .s64 true 10 8 9 20) ∧
    decodeSlot .y 0x160004120200 = .ok (.aswp ⟨false, 0⟩ .z32 false 0 8 9 0) ∧
    decodeSlot .y 0x17014412A700 = .ok (.acas ⟨false, 0⟩ .z64 true 10 8 9 20) ∧
    decodeSlot .y 0x180004120000 = .ok (.afadd ⟨false, 0⟩ false 0 8 9 0) ∧
    decodeSlot .y 0x200180000000 = .ok (.mred ⟨false, 0⟩ 12) :=
  ⟨rfl, rfl, rfl, rfl, rfl, rfl, rfl, rfl, rfl, rfl⟩

theorem test_decode_queues_and_system :
    decodeSlot .y 0x300186800000 = .ok (.qpush ⟨false, 0⟩ 12 13) ∧
    decodeSlot .y 0x31012601F800 = .ok (.qpop ⟨false, 0⟩ 9 12 63) ∧
    decodeSlot .y 0x380186800000 = .ok (.launch ⟨false, 0⟩ 12 13) ∧
    decodeSlot .y 0x400126002800 = .ok (.cvclaim ⟨false, 0⟩ 9 12 5) ∧
    decodeSlot .y 0x410186800000 = .ok (.cvdone ⟨false, 0⟩ 12 13) ∧
    decodeSlot .y 0x480186800000 = .ok (.pwait ⟨false, 0⟩ 12 13) ∧
    decodeSlot .y 0x5001800000FF = .ok (.trap ⟨false, 0⟩ 12 255) ∧
    decodeSlot .y 0x510000000000 = .ok (.halt ⟨false, 0⟩) ∧
    decodeSlot .y 0x52A800000000 = .ok (.ffence ⟨true, 5⟩) ∧
    decodeSlot .y 0xE00186B00000 = .ok (.tinvPage ⟨false, 0⟩ 12 13 3) ∧
    decodeSlot .y 0xE10006C00000 = .ok (.tinvAsid ⟨false, 0⟩ 13 4) ∧
    decodeSlot .y 0xE20000000000 = .ok (.tinvAll ⟨false, 0⟩ 0) ∧
    decodeSlot .y 0xE404B0C40000 = .ok (.smap ⟨false, 0⟩ 1 300 12) ∧
    decodeSlot .y 0xE507FC080000 = .ok (.sdrain ⟨false, 0⟩ 2 511) ∧
    decodeSlot .y 0xE80000000000 = .ok (.phase ⟨false, 0⟩) :=
  ⟨rfl, rfl, rfl, rfl, rfl, rfl, rfl, rfl, rfl, rfl, rfl, rfl, rfl, rfl, rfl⟩

/-! ### A small laboratory -/

/-- After reset a bundle is placed for context 0, which is in issue in a checkpoint bundle; the first 512 MiB are mapped
to themselves. -/
def lab : State :=
  { State.reset.withFetchWord 512 0 with bundle := { addr := 0x100000, ckpt := true, safe := false, canonical := false } }

/-- The laboratory with its context changed. -/
def labWith (f : Ctx → Ctx) : State := lab.setCtx (f lab.ctx)

/-- The laboratory with scalar and vector registers. -/
def labRegs (ss : AMap Word) (vs : AMap VReg) : State :=
  labWith fun c => { c with arch := { c.arch with s := { vals := ss, pend := [] }, v := { vals := vs, pend := [] } } }

/-- The state at the commit of the bundle. -/
def atCommit (s : State) : State := { s with stage := .commit }

/-- The unconditional guard. -/
def yes : Guard := { neg := false, pred := 0 }

/-- The guard that is never true. -/
def no : Guard := { neg := true, pred := 0 }

/-- What f says of the next state; none at a stop. -/
def after {α : Type} (o : Out) (f : State → α) : Option α :=
  match o with
  | .next t => some (f t)
  | _ => none

/-- The same and the issue goes on: no trap, no wait. -/
def went {α : Type} (o : Out) (f : State → α) : Option α :=
  match o with
  | .next t => if t.issue = .ok then some (f t) else none
  | _ => none

/-! ### The S slot: Tables 9-1 to 9-3 by hand -/

/-- s5 = -7, s6 = 3, s7 = 2^63, s8 = 1.0, s9 = 2.0 as FP32, s0 reads zero. -/
def scalars : State := labRegs [(5, 0xFFFFFFFFFFFFFFF9), (6, 3), (7, 0x8000000000000000), (8, 0x3F800000), (9, 0x40000000)] []

/-- Every line holds of a scalar result at its latency. -/
def makes (i : Instr) (l : Nat) (x : Word) : Bool := went (exec i scalars) (fun t => t.scalarAt 10 (scalars.due l)) == some x

theorem test_scalar_registers :
    makes (.add yes 10 5 6) 1 0xFFFFFFFFFFFFFFFC ∧ makes (.sub yes 10 6 5) 1 10 ∧
    makes (.mul yes 10 5 6) 3 0xFFFFFFFFFFFFFFEB ∧ makes (.mulh yes true 10 5 6) 3 0xFFFFFFFFFFFFFFFF ∧
    makes (.mulh yes false 10 5 6) 3 2 ∧ makes (.div yes true 10 5 6) 20 0xFFFFFFFFFFFFFFFE ∧
    makes (.div yes true 10 7 0) 20 0xFFFFFFFFFFFFFFFF ∧ makes (.rem yes true 10 5 6) 20 0xFFFFFFFFFFFFFFFF ∧
    makes (.rem yes false 10 6 0) 20 3 ∧ makes (.and yes 10 5 6) 1 1 ∧ makes (.or yes 10 5 6) 1 0xFFFFFFFFFFFFFFFB ∧
    makes (.xor yes 10 5 6) 1 0xFFFFFFFFFFFFFFFA ∧ makes (.andn yes 10 6 5) 1 2 ∧
    makes (.shl yes 10 6 5) 1 0x0600000000000000 ∧ makes (.shr yes true 10 7 6) 1 0xF000000000000000 ∧
    makes (.shr yes false 10 7 6) 1 0x1000000000000000 ∧ makes (.min yes true 10 5 6) 1 0xFFFFFFFFFFFFFFF9 ∧
    makes (.min yes false 10 5 6) 1 3 ∧ makes (.max yes true 10 5 6) 1 3 := by decide +kernel

theorem test_scalar_immediates :
    makes (.addi yes 10 6 0xFFFFFFFF) 1 2 ∧ makes (.andi yes 10 5 0x80000000) 1 0xFFFFFFFF80000000 ∧
    makes (.ori yes 10 6 0x7FFFFFFF) 1 0x7FFFFFFF ∧ makes (.xori yes 10 6 1) 1 2 ∧
    makes (.shli yes 10 6 63) 1 0x8000000000000000 ∧ makes (.shri yes true 10 7 63) 1 0xFFFFFFFFFFFFFFFF ∧
    makes (.movi yes 10 0x80000000) 1 0xFFFFFFFF80000000 ∧ makes (.movhi yes 10 6 0x12345678) 1 0x1234567800000003 ∧
    makes (.lea yes 3 10 6 0xFFFFFFFF) 1 0xFFFFFFFFFFFFFFFB := by decide +kernel

theorem test_scalar_fp :
    makes (.fadd yes 10 8 9) 4 0x40400000 ∧ makes (.fsub yes 10 8 9) 4 0xBF800000 ∧ makes (.fmul yes 10 9 9) 4 0x40800000 ∧
    makes (.ffma yes 10 9 9 8) 4 0x40A00000 ∧ makes (.fdiv yes 10 8 9) 14 0x3F000000 ∧
    makes (.fdiv yes 10 8 0) 14 0x7F800000 ∧ makes (.fsqrt yes 10 8) 14 0x3F800000 ∧ makes (.fmin yes 10 8 9) 4 0x3F800000 ∧
    makes (.fmax yes 10 8 9) 4 0x40000000 ∧ makes (.fcvt yes 2 false .rn false 10 9) 4 2 ∧
    makes (.fcvt yes 2 true .rn false 10 6) 4 0x40400000 := by decide +kernel

/-- A result that goes to s0 is discarded (R122). -/
theorem test_s0_discards : went (exec (.add yes 0 5 6) scalars) (fun t => t.scalarAt 0 (scalars.due 1)) = some 0 := by
  decide +kernel

/-! Facts of a conjunction that one evaluation decides, in front of the rest. -/

theorem decided3 {a b c r : Prop} (h : a ∧ b ∧ c) (k : r) : a ∧ b ∧ c ∧ r := and_assoc.mp ⟨⟨h.1, h.2.1⟩, h.2.2, k⟩

theorem decided4 {a b c d r : Prop} (h : a ∧ b ∧ c ∧ d) (k : r) : a ∧ b ∧ c ∧ d ∧ r := ⟨h.1, decided3 h.2 k⟩

theorem decided5 {a b c d e r : Prop} (h : a ∧ b ∧ c ∧ d ∧ e) (k : r) : a ∧ b ∧ c ∧ d ∧ e ∧ r := ⟨h.1, decided4 h.2 k⟩

/-- Without poison every scalar and tile register may be read. -/
theorem clean_S {s : State} (h : s.ctx.arch.poison = []) (rs : List SCode) : s.soundS rs := by
  intro r _; rw [h]; exact List.not_mem_nil

theorem clean_T {s : State} (h : s.ctx.arch.poison = []) (t : TCode) : s.soundT t := by
  unfold State.soundT; rw [h]; exact List.not_mem_nil

/-- Without poison vector fields that are readable may be read. -/
theorem clean_V {s : State} (h : s.ctx.arch.poison = []) {cs : List VCode} (k : ∀ c ∈ cs, s.vecReadable c = true) :
    s.soundV cs := by
  intro c hc; refine ⟨k c hc, fun _ => ?_⟩; rw [h]; exact List.not_mem_nil

/-- An empty journal has room for one register. -/
theorem room_for {s : State} (h : s.ctx.journalV = []) (c : VCode) : s.roomFor c := by
  right; unfold State.roomV; rw [h]; simp [insertAll, insertOnce]

theorem test_wit_ScalarResults :
    (∃ f, scalarInt scalars (.add yes 10 5 6) = some f ∧ scalars.guardOn f.guard = true ∧ scalars.soundS f.srcs) ∧
    (∃ f, scalarFp scalars (.ffma yes 0 9 9 8) = some f ∧ scalars.guardOn f.guard = true ∧ scalars.soundS f.srcs) ∧
    (Ty.ofCode (2 : BitVec 4).toNat = some .s32 ∧ fcvtTypeOk .s32 = true ∧ scalars.guardOn yes = true ∧ scalars.soundS [9]) ∧
    Ty.ofCode (15 : BitVec 4).toNat = none :=
  ⟨⟨_, rfl, rfl, clean_S rfl _⟩, ⟨_, rfl, rfl, clean_S rfl _⟩, ⟨rfl, rfl, rfl, clean_S rfl _⟩, rfl⟩

/-! ### Compares and predicate logic (Tables 9-3 and 9-4) -/

/-- The two predicates that a compare writes. -/
def judges (i : Instr) : Option (Bool × Bool) :=
  went (exec i scalars) fun t => (t.predAt 3 (scalars.due 1), t.predAt 4 (scalars.due 1))

theorem test_compares :
    judges (.cmp yes .ltS 3 4 5 6) = some (true, false) ∧ judges (.cmp yes .ltZ 3 4 5 6) = some (false, true) ∧
    judges (.cmpi yes .geS 3 4 5 0xFFFF9) = some (true, false) ∧ judges (.cmpi yes .geS 3 4 5 0xFFFFA) = some (false, true) ∧
    judges (.fcmp yes .lt 3 4 8 9) = some (true, false) ∧ judges (.fcmp yes .un 3 4 8 9) = some (false, true) ∧
    judges (.plog yes 3 4 0 1 0b0100) = some (true, false) ∧ judges (.plog yes 3 4 1 0 0b0100) = some (false, true) := by
  decide +kernel

theorem test_wit_CompareResults :
    ∃ f, predForm scalars (.cmp yes .ltS 3 4 5 6) = some f ∧ scalars.guardOn f.guard = true ∧ scalars.soundS f.srcs :=
  ⟨_, rfl, rfl, clean_S rfl _⟩

theorem test_wit_PlogTruth : scalars.guardOn yes = true ∧
    decodeSlot .s 0x230180A180900000 = .ok (.plog yes 3 0 5 3 9) ∧ 0x230180A180900000 / 2 ^ 56 % 256 = 0x23 := by
  exact ⟨rfl, rfl, rfl⟩

/-! ### The V slots -/

/-- v1: lane 0 of .s32 is 1,000, lane 1 is −24, lane 2 is 600,000; v2: 7 in every 32-bit lane; v3: 1.0, 2.0, −4.0 in
FP32; v4: 2.0 in every FP32 lane. -/
def vectors : State :=
  labRegs [(9, 1), (11, 0x40)] [(1, BitVec.ofNat 2048 (1000 + 0xFFFFFFE8 * 2 ^ 32 + 600000 * 2 ^ 64)),
    (2, BitVec.ofNat 2048 (packElems 32 (fun _ => 7) 64)),
    (3, BitVec.ofNat 2048 (0x3F800000 + 0x40000000 * 2 ^ 32 + 0xC0800000 * 2 ^ 64)),
    (4, BitVec.ofNat 2048 (packElems 32 (fun _ => 0x40000000) 64))]

/-- Lane l of v10 when the result of an operation is due. -/
def laneOf (i : Instr) (due : Nat) (ty : Ty) (l : Nat) : Option Nat :=
  went (exec i vectors) fun t => Machine.lane (t.vectorAt 10 (vectors.due due)) ty l

theorem test_integer_lanes :
    laneOf (.vadd yes false .s32 false 10 1 2 0) 2 .s32 1 = some 0xFFFFFFEF ∧
    laneOf (.vadd yes true .s8 true 10 1 1 0) 2 .s8 0 = some 0xD0 ∧ laneOf (.vsub yes false .z32 true 10 2 1 0) 2 .z32 0 = some 0 ∧
    laneOf (.vmul yes true .s32 false 10 1 2 0) 2 .s32 0 = some 7000 ∧
    laneOf (.vmulh yes false .s32 10 1 2 0) 2 .s32 1 = some 0xFFFFFFFF ∧ laneOf (.vmin yes true .s32 10 1 2 0) 2 .s32 1 = some 0xFFFFFFE8 ∧
    laneOf (.vmax yes false .z32 10 1 2 0) 2 .z32 1 = some 0xFFFFFFE8 ∧ laneOf (.vabs yes true .s32 false 10 1 0) 2 .s32 1 = some 24 ∧
    laneOf (.vneg yes false .s32 true 10 1 0) 2 .s32 0 = some 0xFFFFFC18 ∧ laneOf (.vand yes true .z32 10 1 2 0) 2 .z32 0 = some 0 ∧
    laneOf (.vor yes false .z32 10 1 2 0) 2 .z32 0 = some 1007 ∧ laneOf (.vxor yes true .z32 10 1 2 0) 2 .z32 0 = some 1007 ∧
    laneOf (.vandn yes false .z32 10 1 2 0) 2 .z32 0 = some 1000 ∧ laneOf (.vshl yes true .z32 10 1 2 0) 2 .z32 0 = some 128000 ∧
    laneOf (.vshr yes false .s32 10 1 2 0) 2 .s32 1 = some 0xFFFFFFFF ∧ laneOf (.vsel yes true .s32 10 1 2 0) 2 .s32 0 = some 1000 ∧
    laneOf (.vsel yes true .s32 10 1 2 1) 2 .s32 0 = some 7 := by decide +kernel

theorem test_vector_immediates :
    laneOf (.vaddi yes false .s32 false 10 1 0 0xFFFF) 2 .s32 0 = some 999 ∧ laneOf (.vandi yes true .z32 10 1 0 0x8008) 2 .z32 1 = some 0xFFFF8008 ∧
    laneOf (.vshli yes false .z32 10 1 0 9 1) 2 .z32 0 = some 4000 ∧ laneOf (.vshri yes true .s32 10 1 0 9 1) 2 .s32 1 = some 0xFFFFFFFA ∧
    laneOf (.vmovi yes false .s64 10 0 0xFFFE) 2 .s64 31 = some 0xFFFFFFFFFFFFFFFE := by decide +kernel

theorem test_fp_lanes :
    laneOf (.vfadd yes false .f32 10 3 4 0) 4 .f32 0 = some 0x40400000 ∧ laneOf (.vfsub yes true .f32 10 3 4 0) 4 .f32 0 = some 0xBF800000 ∧
    laneOf (.vfmul yes false .f32 10 3 4 0) 4 .f32 2 = some 0xC1000000 ∧ laneOf (.vffma yes true .f32 10 3 4 4 0) 4 .f32 1 = some 0x40C00000 ∧
    laneOf (.vfnma yes false .f32 10 3 4 4 0) 4 .f32 1 = some 0xC0000000 ∧ laneOf (.vfdiv yes true .f32 10 3 4 0) 14 .f32 0 = some 0x3F000000 ∧
    laneOf (.vfsqrt yes false .f32 10 3 0) 14 .f32 2 = some 0x7FC00000 ∧ laneOf (.vfmin yes true .f32 10 3 4 0) 4 .f32 2 = some 0xC0800000 ∧
    laneOf (.vfmax yes false .f32 10 3 4 0) 4 .f32 2 = some 0x40000000 ∧ laneOf (.vfabs yes true .f32 10 3 0) 4 .f32 2 = some 0x40800000 ∧
    laneOf (.vfneg yes false .f32 10 3 0) 4 .f32 0 = some 0xBF800000 := by decide +kernel

theorem test_permutes :
    laneOf (.vperm yes false .s32 true 10 1 2 0) 3 .s32 5 = some 0 ∧ laneOf (.vrot yes true .s32 10 1 0 9 0) 3 .s32 1 = some 1000 ∧
    laneOf (.vbcl yes false .s32 10 1 0 9 1) 3 .s32 63 = some 600000 ∧ laneOf (.vzip yes true .s32 false 10 1 2 0) 3 .s32 1 = some 7 ∧
    laneOf (.vuzp yes false .s32 false 10 1 2 0) 3 .s32 1 = some 600000 ∧ laneOf (.vcomp yes true .s32 10 1 0) 3 .s32 2 = some 600000 ∧
    laneOf (.vexpd yes false .s32 10 1 0) 3 .s32 0 = some 1000 ∧ laneOf (.vslide yes true .s32 true 10 1 0 9 0) 3 .s32 1 = some 600000 := by
  decide +kernel

theorem test_reductions :
    laneOf (.vsum yes false .s32 false 10 2 0) 6 .s32 0 = some 448 ∧ laneOf (.vrmax yes true .s32 10 1 0) 6 .s32 0 = some 600000 ∧
    laneOf (.vrmin yes false .s32 10 1 0) 6 .s32 0 = some 0xFFFFFFE8 ∧ laneOf (.vfsum yes true .f32 10 3 0) 6 .f32 0 = some 0xBF800000 ∧
    laneOf (.vfrmax yes false .f32 10 3 1) 6 .f32 0 = some 0xFF800000 ∧ laneOf (.vfrmin yes true .f32 10 3 0) 6 .f32 0 = some 0xC0800000 := by
  decide +kernel

/-- 2.0 is 0x4000 in BF16; −4.0 is the integer −4; 2.0 over the scale 2.0 is 1 (R194, R195). -/
theorem test_conversions :
    laneOf (.vcvt yes false .bf16 .f32 1 false .rn 10 4 0) 4 .bf16 64 = some 0x4000 ∧
    laneOf (.vcvt yes true .s32 .f32 0 false .rz 10 3 0) 4 .s32 2 = some 0xFFFFFFFC ∧
    laneOf (.vcvts yes true .s8 0 false .rn 10 3 4 0) 4 .s8 1 = some 1 := by decide +kernel

theorem test_masks :
    went (exec (.vcmp yes false .ltS .s32 false 5 1 2 0) vectors) (fun t => t.maskAt 5 (vectors.due 2)) = some 0xFFFFFFFFFFFFFFFA ∧
    went (exec (.vfcmp yes true .gt .f32 false 5 3 4 0) vectors) (fun t => t.maskAt 5 (vectors.due 2)) = some 0 ∧
    went (exec (.mlog yes false 5 0 1 0b0100) vectors) (fun t => t.maskAt 5 (vectors.due 2)) = some 0xFFFFFFFFFFFFFFFF ∧
    laneOf (.vcmp yes false .eq .s32 true 10 2 2 0) 2 .s32 9 = some 0xFFFFFFFF ∧
    laneOf (.vtmask yes true .f32 false 0 10 3 2 0) 2 .f32 3 = some 0xFF800000 ∧
    laneOf (.vtmask yes true .f32 true 0 10 3 2 0) 2 .f32 1 = some 0x40000000 := by decide +kernel

/-- R241's example: K = 4, PMIN = 32. -/
theorem test_probability :
    laneOf (.psqz yes false .s32 4 32 10 1 0) 3 .z32 0 = some 63 ∧ laneOf (.psqz yes false .s32 4 32 10 1 0) 3 .z32 1 = some 32 ∧
    laneOf (.psqz yes false .s32 4 32 10 1 0) 3 .z32 2 = some 32736 ∧ laneOf (.plut yes true 10 2 1 0) 3 .z32 0 = some 0 ∧
    laneOf (.pmix yes false 10 1 2 2 0) 3 .z32 0 = some 7 := by decide +kernel

theorem test_wit_LaneResults :
    (∃ f, laneInteger vectors (.vshli yes false .z32 10 1 0 9 1) = some f ∧ (Instr.vshli yes false .z32 10 1 0 9 1).codeOk = true ∧
      vectors.guardOn f.guard = true ∧ vectors.soundV f.srcs ∧ vectors.soundS f.ssrcs ∧ vectors.roomFor f.vd) ∧
    (∃ f, laneFloat vectors (.vffma yes true .f32 10 3 4 4 0) = some f ∧ (Instr.vffma yes true .f32 10 3 4 4 0).codeOk = true ∧
      vectors.guardOn f.guard = true ∧ vectors.soundV f.srcs ∧ vectors.roomFor f.vd) ∧
    (∃ f, lanePermute vectors (.vrot yes true .s32 448 1 0 9 0) = some f ∧ (Instr.vrot yes true .s32 448 1 0 9 0).codeOk = true ∧
      vectors.guardOn f.guard = true ∧ vectors.soundV f.srcs ∧ vectors.soundS f.ssrcs ∧ vectors.roomFor f.vd) :=
  ⟨⟨_, rfl, rfl, rfl, clean_V rfl (by decide +kernel), clean_S rfl _, room_for rfl _⟩,
   ⟨_, rfl, rfl, rfl, clean_V rfl (by decide +kernel), room_for rfl _⟩,
   ⟨_, rfl, rfl, rfl, clean_V rfl (by decide +kernel), clean_S rfl _, room_for rfl _⟩⟩

theorem test_wit_SelectAndReduceResults :
    vectors.guardOn yes = true ∧ vectors.roomFor 10 ∧ vectors.soundV [1, 2] ∧ vectors.soundV [1] ∧
    ∃ f, reduction (.vsum yes false .s32 false 10 2 0) = some f ∧ (Instr.vsum yes false .s32 false 10 2 0).codeOk = true ∧
      vectors.guardOn f.guard = true ∧ vectors.soundV [f.va] ∧ vectors.roomFor f.vd :=
  ⟨rfl, room_for rfl _, clean_V rfl (by decide +kernel), clean_V rfl (by decide +kernel),
   _, rfl, rfl, rfl, clean_V rfl (by decide +kernel), room_for rfl _⟩

theorem test_wit_ConversionResults :
    (∃ f, conversion vectors (.vcvt yes false .bf16 .f32 1 false .rn 10 4 0) = some f ∧
      (Instr.vcvt yes false .bf16 .f32 1 false .rn 10 4 0).WellFormed ∧ vectors.guardOn f.guard = true ∧
      vectors.soundV f.srcs ∧ vectors.roomFor f.vd) ∧
    ((0 : BitVec 3).toNat + 1) * 4 * sbBytes (sbMag 2) ≤ 256 :=
  ⟨⟨_, rfl, by decide, rfl, clean_V rfl (by decide +kernel), room_for rfl _⟩, by decide⟩

theorem test_wit_LaneCompareResults :
    (∃ f, laneCompare vectors (.vcmp yes false .ltS .s32 false 5 1 2 0) = some f ∧ f.vec = false ∧
      (Instr.vcmp yes false .ltS .s32 false 5 1 2 0).codeOk = true ∧ vectors.guardOn f.guard = true ∧ vectors.soundV f.srcs) ∧
    (∃ f, laneCompare vectors (.vfcmp yes true .or .f32 true 383 3 4 0) = some f ∧ f.vec = true ∧ vectors.roomFor f.vd ∧
      (Instr.vfcmp yes true .or .f32 true 383 3 4 0).codeOk = true ∧ vectors.guardOn f.guard = true ∧ vectors.soundV f.srcs) ∧
    Ty.isVecFloat .f32 = true ∧ vectors.soundV [3, 2] ∧ vectors.roomFor 10 :=
  ⟨⟨_, rfl, rfl, rfl, rfl, clean_V rfl (by decide +kernel)⟩,
   ⟨_, rfl, rfl, room_for rfl _, rfl, rfl, clean_V rfl (by decide +kernel)⟩, rfl, clean_V rfl (by decide +kernel), room_for rfl _⟩

theorem test_wit_Probability :
    (Instr.psqz yes false .s32 15 16384 10 1 0).WellFormed ∧ (Instr.psqz yes false .z32 0 1 10 1 0).WellFormed ∧
    vectors.guardOn yes = true ∧ vectors.soundV [1, 2] ∧ vectors.soundV [1, 2, 3] ∧ vectors.roomFor 10 ∧
    (∃ sl w, encode (.plut yes false 10 1 2 0) = some (sl, w)) ∧ ∃ sl w, encode (.pmix yes true 10 1 2 3 0) = some (sl, w) :=
  ⟨by decide, by decide, rfl, clean_V rfl (by decide +kernel), clean_V rfl (by decide +kernel), room_for rfl _,
   ⟨_, _, rfl⟩, ⟨_, _, rfl⟩⟩

/-! ### The manual's worked examples -/

/-- Chapter 2's block: sixteen values to SB5 with round to nearest even, twelve bytes from 80 F6 4C 22 on. -/
theorem test_worked_block :
    sbEncode 4 .rn false ([0x40400000, 0xBF000000, 0x3F800000, 0x3E99999A, 0x3FF33333, 0, 0x3FFEB852, 0, 0, 0, 0, 0, 0, 0, 0,
      0xBD800000].map Fmt.fp32.value) % 2 ^ 96 = 0x80000000000200F1224CF680 := by decide +kernel

/-- Chapter 2's decoded elements: 0.25 from 0.3, 2.0 from 1.99, −0 from −0.0625. -/
theorem test_worked_block_decoded :
    [3, 6, 15].map (fun j => Fmt.fp32.rne (sbDecode 4 0x80000000000200F1224CF680 j)) = [0x3E800000, 0x40000000, 0x80000000] := by
  decide +kernel

/-- A lane as cinit leaves it: CUR 0, LIM and BUDGET as given (R236). -/
def freshLane (enc : Bool) (lim budget : Nat) : Lane :=
  { low := 0, range := 0xFFFFFFFF, code := 0, cur := 0, lim := lim, budget := budget, pend := 0, fl := false, prime := !enc,
    enc := enc, first := enc, carry := false, cache := 0,
    q := { win := [], rest := 0, ended := false, overrun := false, error := false } }

/-- F[0] to F[16] of a binary model. -/
def binaryModel (p : Nat) : List Nat := 0 :: p :: List.replicate 15 32768

/-- Table 12-3: symbol 1 and then symbol 0 with p0 = 24,576, and the flush that writes BF FF A0 00. -/
theorem test_worked_encoder :
    ∃ a b c, encodeLane 4096 1 (some (binaryModel 24576)) (freshLane true 16 2) = some a ∧
      encodeLane 4096 0 (some (binaryModel 24576)) a.lane = some b ∧ flushLane 4096 b.lane = some c ∧
      (a.lane.low, a.lane.range, a.lane.budget, a.out) = (0xBFFFA000, 0x40005FFF, 1, []) ∧
      (b.lane.low, b.lane.range, b.lane.budget, b.out) = (0xBFFFA000, 0x30000000, 0, []) ∧
      c.out = [(0, 0xBF), (1, 0xFF), (2, 0xA0), (3, 0x00)] ∧ c.lane.cur = 4 ∧ c.lane.fl = true :=
  ⟨_, _, _, rfl, rfl, rfl, by decide +kernel⟩

/-- The eight bytes that the example's ldc appends. -/
def fetched : List (Byte × Bool) :=
  [(0xBF, false), (0xFF, false), (0xA0, false), (0, false), (0, true), (0, true), (0, true), (0, true)]

/-- The decoder's half of the example: 1 with four bytes consumed, then 0, no tagged byte used. -/
theorem test_worked_decoder :
    let x : Lane := { freshLane false 4 2 with q := { win := fetched, rest := 0, ended := false, overrun := false, error := false } }
    ((decodeLane (some (binaryModel 24576)) x).bind fun a => (decodeLane (some (binaryModel 24576)) a.2.1).map fun b =>
      ((a.1, a.2.1.code, a.2.1.range, a.2.2), (b.1, b.2.1.budget, b.2.2))) =
      some ((1, 0, 0x40005FFF, 4, false), (0, 0, 0, false)) := by decide +kernel

/-- Table 1-9: the memory of the example walk. -/
def walkMemory (l2 l3 : Nat) : Memory :=
  memWrite (memWrite (memWrite (memWrite [] 0x40000010 (leBytes 8 0x50000001)) 0x50004688 (leBytes 8 0x60000001))
    0x600059E0 (leBytes 8 l2)) 0x70004D58 (leBytes 8 l3)

theorem test_worked_walk :
    (walk (walkMemory 0x70000001 0x1234560503) [] 0x40000000 0x0123456789ABCDEF).toOption =
      some { entry := 0x1234560503, level := 3, addr := 0x70004D58 } ∧
    (walk (walkMemory 0x4000000103 0) [] 0x40000000 0x0123456789ABCDEF).toOption =
      some { entry := 0x4000000103, level := 2, addr := 0x600059E0 } ∧
    (match walk (walkMemory 0x4000010103 0) [] 0x40000000 0x0123456789ABCDEF with
      | .error e => e = (6, 2)
      | .ok _ => False) := by
  refine ⟨by decide +kernel, by decide +kernel, ?_⟩
  rfl

/-- Table 14-8's map: 4 x 4 cells, eight entries, its bitmap in 16 bits. -/
def worked (bitmap : Nat) : CvMap :=
  { va := 0, pages := [(0, { pa := 0, kind := .coherent })],
    mem := memWrite (memWrite [] 0 (leBytes 8 (4 * 2 ^ 48 + 4 * 2 ^ 32 + 2 * 2 ^ 28 + 7))) (0x40 + 16 * 8) (leBytes 2 bitmap) }

/-- Table 14-8, the claims in module order. -/
theorem test_worked_claims :
    ((worked 0).choose 0x0202).map shapeBits = some 0x020200000000 ∧
    ((worked 0x0033).choose 0x0104).map shapeBits = some 0x010200000002 ∧
    ((worked 0x003F).choose 0x0104).map shapeBits = some 0x010200010002 ∧
    ((worked 0x00FF).choose 0x0104).map shapeBits = some 0x010400020000 ∧
    ((worked 0x0FFF).choose 0x0104).map shapeBits = some 0x010400030000 ∧ (worked 0xFFFF).choose 0x0104 = none := by
  decide +kernel

/-- R260's example: the CRC of the nine bytes 123456789. -/
theorem test_worked_crc :
    crcBytes 0xFFFFFFFF [0x31, 0x32, 0x33, 0x34, 0x35, 0x36, 0x37, 0x38, 0x39] ^^^ 0xFFFFFFFF = 0xE3069283 := by decide +kernel

/-- Table 11-3's first element: sixteen products of 1.0 with 1.0 and 2.0 in turn are 24.0. -/
theorem test_worked_product :
    groupAdd 0 ((List.range 16).map fun k => (Fmt.fp32.value 0x3F800000).mul (Fmt.fp32.value (if k % 2 = 0 then 0x3F800000
      else 0x40000000))) = 0x41C00000 := by decide +kernel

/-! ### Special registers and control -/

/-- The laboratory in a handler. -/
def handling : State := labWith fun c => { c with handler := true, arch := { c.arch with s := { vals := [(9, 0x12345)], pend := [] } } }

theorem test_special_registers :
    went (exec (.rdsp yes 10 (.sys .feature)) lab) (fun t => t.scalarAt 10 (lab.due 1)) = some 0x0104 ∧
    went (exec (.rdsp yes 10 (.sys .ttb)) lab) (fun t => t.scalarAt 10 (lab.due 1)) = some 0x10000 ∧
    went (exec (.rdsp yes 10 (.mask 0)) lab) (fun t => t.scalarAt 10 (lab.due 1)) = some 0xFFFFFFFFFFFFFFFF ∧
    went (exec (.wrsp yes 9 (.mask 3)) handling) (fun t => t.maskAt 3 (handling.due 1)) = some 0x12345 := by decide +kernel

theorem test_wit_Special :
    lab.guardOn yes = true ∧ lab.ctx.handler = false ∧ (10 : SCode) ≠ 0 ∧ handling.ctx.handler = true ∧ handling.guardOn yes = true ∧
    handling.soundS [9] ∧ (atCommit handling).stage = .commit ∧ (handling.readS 9).toNat < 2 ^ 27 ∧
    2 ^ 27 ≤ ((labRegs [(9, 0x8000000)] []).readS 9).toNat :=
  ⟨rfl, rfl, by decide, rfl, rfl, clean_S rfl _, rfl, by decide +kernel, by decide +kernel⟩

/-- s8 is a bundle's address, s9 is none; s5 counts 1, s6 counts 2. -/
def branches : State := labRegs [(5, 1), (6, 2), (8, 0x2000), (9, 0x2001)] []

theorem test_control :
    went (exec (.br yes 0x1FFFFFF) branches) (fun t => t.ctx.xferNow) = some { delay := 3, target := some 0xFFFC0 } ∧
    went (exec (.call yes 10 2) branches) (fun t => (t.ctx.xferNow.target, t.scalarAt 10 (branches.due 1))) =
      some (some 0x100080, 0x1000C0) ∧
    went (exec (.jmp yes 8) branches) (fun t => t.ctx.xferNow.target) = some (some 0x2000) ∧
    went (exec (.calli yes 10 8) branches) (fun t => t.scalarAt 10 (branches.due 1)) = some 0x1000C0 ∧
    went (exec (.ret yes 8) branches) (fun t => t.ctx.xferNow.target) = some (some 0x2000) ∧
    went (exec (.loop yes 6 0x1FFFFFE) branches) (fun t => (t.ctx.xferNow.target, t.scalarAt 6 (branches.due 1))) =
      some (some 0xFFF80, 1) ∧
    went (exec (.loop yes 5 0x1FFFFFE) branches) (fun t => (t.ctx.xferNow.target, t.scalarAt 5 (branches.due 1))) = some (none, 0) ∧
    went (exec (.br no 5) branches) (fun t => t.ctx.xferNow) = some { delay := 3, target := none } := by decide +kernel

theorem test_wit_ControlTransfers :
    (∃ f, controlForm branches (.calli yes 10 8) = some f ∧ branches.guardOn f.guard = true ∧ branches.soundS f.srcs ∧ f.aligned = true) ∧
    (∃ f, controlForm branches (.jmp yes 9) = some f ∧ branches.guardOn f.guard = true ∧ branches.soundS f.srcs ∧ f.aligned = false) ∧
    (∃ f, controlForm branches (.br no 5) = some f ∧ branches.guardOn f.guard = false) ∧
    ∃ a : Arch, a.xfer = { delay := 3, target := none } :=
  ⟨⟨_, rfl, rfl, clean_S rfl _, by decide +kernel⟩, ⟨_, rfl, rfl, clean_S rfl _, by decide +kernel⟩, ⟨_, rfl, rfl⟩,
   { Arch.zero with xfer := { delay := 3, target := none } }, rfl⟩

theorem test_wit_TrapReturn :
    lab.ctx.handler = false ∧ handling.ctx.handler = true ∧ handling.stage = .issue ∧ handling.guardOn yes = true ∧
    handling.guardOn no = false ∧
    (∃ s : State, s.ctx.handler = true ∧ s.ctx.tretting = true ∧ s.ctx.ctl = 0 ∧ s.ctx.gang = false ∧ s.ctx.hxfer.delay = 1) ∧
    ∃ s : State, s.ctx.handler = true ∧ s.ctx.tretting = true ∧ s.ctx.ctl = 0 ∧ s.ctx.gang = false ∧ s.ctx.hxfer.delay ≠ 1 :=
  ⟨rfl, rfl, rfl, rfl, rfl,
   ⟨labWith fun c => { c with handler := true, tretting := true, hxfer := { delay := 1, target := none } }, rfl, rfl, rfl, rfl, rfl⟩,
   ⟨labWith fun c => { c with handler := true, tretting := true, hxfer := { delay := 2, target := none } }, rfl, rfl, rfl, rfl,
    by decide +kernel⟩⟩

/-- A task in a bundle that is no checkpoint. -/
def plain : State := { lab with bundle := { addr := 0x100000, ckpt := false, safe := false, canonical := false } }

theorem test_wit_NopAndEmptyBundle :
    plain.bundle.ckpt = false ∧ plain.ctx.handler = false ∧ plain.ctx.softTrap = none ∧ plain.issue = .ok := ⟨rfl, rfl, rfl, rfl⟩

theorem test_empty_bundle :
    after (exec .emptyBundle plain) (fun t => (t.now, t.ctx.arch.pc)) = some (plain.now + 1, 0x100040) := by decide +kernel

/-! ### The coder -/

/-- Lane 0 of stream 1 ready to decode, and lane 0 of stream 0 to encode: the lanes of the worked example; v3 holds p0,
v4 the symbol 1, v5 to v7 CUR, LIM and BUDGET; the stash window has one tile. -/
def coding : State :=
  let q : LaneQueue := { win := fetched, rest := 0, ended := false, overrun := false, error := false }
  let str : StreamFile :=
    { words := { vals := [(0, (freshLane true 16 2).words), (64, (freshLane false 4 2).words)], pend := [] },
      queues := [(0, { q with win := [] }), (64, q)], ops := [] }
  labWith fun c => { c with swinCount := 1, arch := { c.arch with
    str := str, v := { vals := [(3, 24576), (4, 1), (6, 16), (7, 2)], pend := [] },
    m := { vals := [(1, 1)], pend := [] } } }

theorem test_coder :
    went (exec (.cdec yes 1 10 3 1) coding) (fun t => (Machine.lane (t.vectorAt 10 (coding.due 6)) .z32 0,
      elem (t.wordsAt 64 (coding.due 6)).toNat 32 1)) = some (1, 0x40005FFF) ∧
    went (exec (.cenc yes 0 4 3 1) coding) (fun t => elem (t.wordsAt 0 (coding.due 6)).toNat 32 0) = some 0xBFFFA000 ∧
    went (exec (.cstat yes 4 1 5 1) coding) (fun t => t.maskAt 5 (coding.due 6)) = some 1 ∧
    went (exec (.cinit yes true 2 5 6 7 1) coding) (fun t => elem (t.wordsAt 128 (coding.due 6)).toNat 32 4) = some 16 ∧
    went (exec (.csave yes 1 20 1) coding) (fun t => Machine.lane (t.vectorAt 26 (coding.due 6)) .z32 0 / 65536) = some 8 ∧
    went (exec (.cflush yes 1 1) coding) (fun t => t.ctx.arch.str.ops.map fun o => (o.key, o.ended)) = some [(64, true)] := by
  decide +kernel

theorem test_wit_CoderSymbols :
    decoder (.cdec yes 1 10 3 1) = some (yes, 1, 10, false, 3, 1) ∧ (Instr.cdec yes 1 10 3 1).codeOk = true ∧
    (Instr.cdec yes 1 10 3 1).rangeOk = true ∧ coding.guardOn yes = true ∧ coding.soundV (modelFields false 3) ∧ coding.roomFor 10 ∧
    decoder (.cdecm yes 1 10 16 1) = some (yes, 1, 10, true, 16, 1) ∧ coding.soundV (modelFields true 16) ∧
    encoder (.cenc yes 0 4 3 1) = some (yes, 0, 4, false, 3, 1) ∧ (Instr.cenc yes 0 4 3 1).codeOk = true ∧
    (Instr.cenc yes 0 4 3 1).rangeOk = true ∧ coding.soundV (4 :: modelFields false 3) :=
  ⟨rfl, rfl, rfl, rfl, clean_V rfl (by decide +kernel), room_for rfl _, rfl, clean_V rfl (by decide +kernel), rfl, rfl, rfl,
   clean_V rfl (by decide +kernel)⟩

/-- The table of p0 = 24,576, and the worked symbols of Table 12-3: the cut point, no renormalisation, and the four bytes of the
flush; a run of two pending bytes, and a full one. -/
theorem test_wit_CoderArithmetic :
    (let f := 0 :: 24576 :: List.replicate 15 32768
     ModelTable f ∧ cutPoint 0xFFFFFFFF f 1 = 0xBFFFA000 ∧ cutPoint 0xFFFFFFFF f 2 = 0xFFFFFFFF ∧
     cutPoint 0x40005FFF f 1 = 0x30000000 ∧ f[1]? ≠ f[2]? ∧ f[5]? = f[6]?) ∧
    RenormBy 0x40005FFF 0 ∧ RenormBy 0xFFFF 2 ∧ ((freshLane true 16 2).enc, (freshLane false 4 2).enc) = (true, false) ∧
    (shiftLow 5 ⟨0xBFFFA000, false, 0, 0, true⟩).map Prod.snd = some [0xBF, 0xFF, 0xA0, 0] ∧
    (shiftLow 1 ⟨0x01020304, true, 0x12, 2, false⟩).map Prod.snd = some [0x13, 0, 0] ∧
    (shiftLow 1 ⟨0xFF000000, false, 0x12, 0xFFFF, false⟩).isNone = true := by
  unfold ModelTable RenormBy
  decide +kernel

theorem test_wit_CoderImages :
    coding.guardOn yes = true ∧ coding.soundV [5, 6, 7] ∧ (372 : VCode).toNat + 12 ≤ 384 ∧
    coding.roomV ((List.range 12).map ((372 : VCode).toNat + ·)) ∧
    coding.soundV ((List.range 12).map fun i => (372 : VCode) + BitVec.ofNat 9 i) ∧ (4 : BitVec 3).toNat ≤ 4 :=
  ⟨rfl, clean_V rfl (by decide +kernel), by decide, by unfold State.roomV; decide +kernel, clean_V rfl (by decide +kernel), by decide⟩

/-! ### Loads and stores -/

/-- s4 is the address 0x200000, where memory holds 0x11223344 … 0x88 and −1.0; s5 a stride; s7 a page that is not mapped. -/
def memory : State :=
  let s := labRegs [(4, 0x200000), (5, 8), (6, 0x200040), (7, 0x100000000), (9, 0x55), (12, 2)]
    [(1, BitVec.ofNat 2048 (packElems 32 (fun l => l) 64)), (2, BitVec.ofNat 2048 (packElems 32 (fun l => l + 0x100) 64))]
  let t := s.modArch fun a => { a with m := { vals := [(1, 1)], pend := [] } }
  { t with mem := memWrite t.mem 0x200000 (leBytes 16 0x8877665544332211AABBCCDD80FF01FE) }

/-- Translation of the elements of an access of the laboratory. -/
def xlated (s : State) (cls : Access) (wr merge : Bool) (es : List Elem) : State × List (Nat × Phys) × List PageFault :=
  translatePages s (ctxXlat s s.cur) cls wr merge (pagesOf es) [] []

/-- An access that is aligned, translates, meets no poison and waits for no tile meets every hypothesis of the statements
about memory. -/
theorem access_wit (s : State) (cls : Access) (wr merge : Bool) (u : Nat) (es : List Elem) (read : Bool)
    (h1 : es.all (fun e => e.va % u == 0) = true) (h2 : (xlated s cls wr merge es).2.2.isEmpty = true)
    (h3 : es.all (fun e => !(physOf (xlated s cls wr merge es).2.1 e.va).isDevice) = true)
    (h4 : (xlated s cls wr merge es).1.poison = []) (h5 : (xlated s cls wr merge es).1.stash.isEmpty = true) :
    Translates s cls wr merge u es (xlated s cls wr merge es).1 (xlated s cls wr merge es).2.1 ∧
      (∀ e ∈ es, (physOf (xlated s cls wr merge es).2.1 e.va).isDevice = false) ∧
      ∀ whole, Served (xlated s cls wr merge es).1 read (elemLines (xlated s cls wr merge es).2.1 es) whole
        (xlated s cls wr merge es).1 := by
  refine ⟨⟨?_, ?_⟩, ?_, fun whole => ⟨?_, ?_⟩⟩
  · intro e he; simpa using List.all_eq_true.mp h1 e he
  · exact Prod.ext rfl (Prod.ext rfl (List.isEmpty_iff.mp h2))
  · intro e he; simpa using List.all_eq_true.mp h3 e he
  · intro _ l _; rw [h4]; exact List.not_mem_nil
  · unfold stashTouch; rw [if_pos h5]

/-- The memory with s4 on a page of module 0 of the fabric window. -/
def remote : State :=
  let s := memory.modArch fun a => { a with s := { vals := [(4, 0x20000000), (9, 0x55)], pend := [] } }
  { s with mem := memWrite s.mem 0x30008 (leBytes 8 (0xC000000000000 + memNat s.mem 0x30000 8 % 65536)) }

/-- The elements that an ldp of K planes accesses in the laboratory. -/
def planeElems (m : MCode) : List Elem :=
  let on := fun (b : Nat) => (List.range 16).any fun i => activeIn (memory.readM m) (16 * b + i) .f32
  let first := fun (b : Nat) => 16 * b + ((List.range 16).find? fun i => activeIn (memory.readM m) (16 * b + i) .f32).getD 0
  (((List.range 4).filter on).map fun b => ⟨((memory.readS 4).toNat + sbBytes (sbMag 0) * b) % 2 ^ 64, sbBytes (sbMag 0), first b⟩)
    ++ [⟨(memory.readS 6).toNat, 8, 256⟩]

theorem test_loads :
    went (exec (.lds yes .s16 10 4 0 5) memory) (fun t => t.scalarAt 10 (memory.due 5)) = some 0x1FE ∧
    went (exec (.lds yes .s8 10 4 1 5) memory) (fun t => t.scalarAt 10 (memory.due 5)) = some 1 ∧
    went (exec (.lds yes .z8 10 4 2 5) memory) (fun t => t.scalarAt 10 (memory.due 5)) = some 0xFF ∧
    went (exec (.lds yes .s8 10 4 2 5) memory) (fun t => t.scalarAt 10 (memory.due 5)) = some 0xFFFFFFFFFFFFFFFF ∧
    went (exec (.ldv yes .z32 10 4 0 63 1) memory) (fun t => Machine.lane (t.vectorAt 10 (memory.due 63)) .z32 0) = some 0x80FF01FE ∧
    went (exec (.ldvs yes .z32 10 4 5 0 5 0) memory) (fun t => Machine.lane (t.vectorAt 10 (memory.due 5)) .z32 1) = some 0x44332211 ∧
    went (exec (.ldg yes .z32 true 10 4 1 0 5 0) memory) (fun t => Machine.lane (t.vectorAt 10 (memory.due 5)) .z32 3) = some 0x88776655 ∧
    went (exec (.ldb yes .z32 10 4 1 5 0) memory) (fun t => Machine.lane (t.vectorAt 10 (memory.due 5)) .z32 63) = some 0xAABBCCDD ∧
    went (exec (.ldt yes 3 1 4 0 5) memory) (fun t => bitsOf (t.tileAt 3 (memory.due 5)).toNat 2048 32) = some 0x80FF01FE := by
  decide +kernel

theorem test_wit_LoadResults :
    (∃ f v w pages, loadForm memory (.lds yes .s32 10 4 0 5) = some f ∧ memory.stage = .issue ∧ memory.guardOn f.guard = true ∧
      memory.soundS f.ssrcs ∧ memory.soundV f.vsrcs ∧ f.room ∧ f.elems ≠ [] ∧
      Translates memory f.cls false false f.unit f.elems v pages ∧ (∀ e ∈ f.elems, (physOf pages e.va).isDevice = false) ∧
      Served v true (elemLines pages f.elems) [] w ∧ f.elems.flatMap (farBytes w pages) = []) ∧
    (∃ f v w pages, loadForm memory (.ldg yes .z32 true 383 4 1 0x200 63 1) = some f ∧ memory.guardOn f.guard = true ∧
      memory.soundS f.ssrcs ∧ memory.soundV f.vsrcs ∧ f.room ∧ f.elems ≠ [] ∧
      Translates memory f.cls false false f.unit f.elems v pages ∧
      Served v true (elemLines pages f.elems) [] w ∧ f.elems.flatMap (farBytes w pages) = []) ∧
    (∃ f v w pages, loadForm remote (.lds yes .s32 10 4 0 5) = some f ∧ remote.issue = .ok ∧
      Translates remote f.cls false false f.unit f.elems v pages ∧ (∀ e ∈ f.elems, (physOf pages e.va).isDevice = false) ∧
      Served v true (elemLines pages f.elems) [] w ∧ (f.elems.flatMap (farBytes w pages)).length = 4) ∧
    ∃ f, loadForm memory (.ldv yes .z32 10 4 0 5 2) = some f ∧ f.elems = [] := by
  refine ⟨?_, ?_, ?_, ⟨_, rfl, by decide +kernel⟩⟩
  · obtain ⟨a, b, c⟩ := access_wit memory .scalarLoad false false 4 [⟨eaOf memory 4 0 4, 4, 0⟩] true
      (by decide +kernel) (by decide +kernel) (by decide +kernel) (by decide +kernel) (by decide +kernel)
    exact ⟨_, _, _, _, rfl, rfl, rfl, clean_S rfl _, clean_V rfl (fun _ h => absurd h List.not_mem_nil), trivial,
      List.cons_ne_nil _ _, a, b, c [], by decide +kernel⟩
  · obtain ⟨a, _, c⟩ := access_wit memory .vectorLoad false false 4
      (laneElems .z32 (memory.readM 1) (min 64 Ty.z32.lanes) fun l =>
        (((eaOf memory 4 0x200 Ty.z32.unit : Int) + memory.laneInt 1 .s32 l * ((if true = true then Ty.z32.unit else 1 : Nat) : Int))
          % 2 ^ 64).toNat) true
      (by decide +kernel) (by decide +kernel) (by decide +kernel) (by decide +kernel) (by decide +kernel)
    exact ⟨_, _, _, _, rfl, rfl, clean_S rfl _, clean_V rfl (by decide +kernel), room_for rfl _, by decide +kernel, a, c [],
      by decide +kernel⟩
  · obtain ⟨a, b, c⟩ := access_wit remote .scalarLoad false false 4 [⟨eaOf remote 4 0 4, 4, 0⟩] true
      (by decide +kernel) (by decide +kernel) (by decide +kernel) (by decide +kernel) (by decide +kernel)
    exact ⟨_, _, _, _, rfl, rfl, a, b, c [], by decide +kernel⟩

theorem test_wit_PlaneLoadResults :
    memory.stage = .issue ∧ memory.soundS [4, 6] ∧ memory.roomFor 10 ∧
    ((List.range 4).all fun b => !((List.range 16).any fun i => activeIn (memory.readM 2) (16 * b + i) .f32)) = true ∧
    ((List.range 4).any fun b => (List.range 16).any fun i => activeIn (memory.readM 0) (16 * b + i) .f32) = true ∧
    ∃ v w pages, Translates memory .vectorLoad false false 1 (planeElems 0) v pages ∧
      Served v true (elemLines pages (planeElems 0)) [] w ∧
      w.loadedLane pages (planeElems 0) 256 % 256 < (1 : BitVec 4).toNat := by
  obtain ⟨a, _, c⟩ := access_wit memory .vectorLoad false false 1 (planeElems 0) true (by decide +kernel) (by decide +kernel)
    (by decide +kernel) (by decide +kernel) (by decide +kernel)
  exact ⟨rfl, clean_S rfl _, room_for rfl _, by decide +kernel, by decide +kernel, _, _, _, a, c [], by decide +kernel⟩

/-- A prefix of no plane is the canonical NaN; K planes that have not landed are the Plane Not Ready trap (R265). -/
theorem test_ldp :
    went (exec (.ldp yes 0 0 false 10 4 6 5 0) memory) (fun t => Machine.lane (t.vectorAt 10 (memory.due 5)) .f32 7) = some 0x7FC00000 ∧
    after (exec (.ldp yes 0 1 false 10 4 6 5 0) memory) (fun t => decide (t.issue = .ok)) = some false := by decide +kernel

/-- The bytes that a store withholds. -/
def held (i : Instr) : Option (List WithheldOp) := went (exec i memory) fun t => t.ctx.withheld

theorem test_stores :
    held (.sts yes .s16 9 4 1) = some [.store [(0x200002, 0x55), (0x200003, 0)]] ∧
    held (.stv yes .z32 2 4 0 1) = some [.store [(0x200000, 0), (0x200001, 1), (0x200002, 0), (0x200003, 0)]] ∧
    held (.stvs yes .z8 2 4 5 0 1) = some [.store [(0x200000, 0), (0x200008, 1), (0x200010, 0), (0x200018, 0)]] ∧
    held (.stsc yes .z32 true 2 4 1 1 1) = some [.store [(0x200004, 0), (0x200005, 1), (0x200006, 0), (0x200007, 0)]] ∧
    held (.stz yes 4 0x3FF) = some [.zeroLine 0x1FFFC0 true] ∧
    (held (.stt yes 3 1 4 0)).map (fun x => x.map fun o => match o with | .store c => c.length | _ => 0) = some [256] ∧
    held (.stv yes .z32 2 4 0 2) = some [] := by decide +kernel

theorem test_wit_StoreResults :
    (∃ f v w pages, storeForm memory (.sts yes .s32 9 4 0) = some f ∧ memory.stage = .issue ∧ memory.guardOn f.guard = true ∧
      memory.soundS f.ssrcs ∧ memory.soundV f.vsrcs ∧ (∀ n ∈ f.tsrcs, memory.soundT n) ∧ f.elems ≠ [] ∧
      Translates memory f.cls true false f.unit (f.elems.map Prod.fst) v pages ∧
      (∀ e ∈ f.elems, (physOf pages e.1.va).isDevice = false) ∧
      Served v false (elemLines pages (f.elems.map Prod.fst)) (wholeOf (cellsOf pages f.elems)) w ∧
      w.roomW (.store (cellsOf pages f.elems))) ∧
    (∃ f, storeForm memory (.stv yes .z32 2 4 0 2) = some f ∧ f.elems = []) ∧
    (∃ v w pages, Translates memory .vectorStore true false 64 [⟨eaOf memory 4 0 64, 64, 0⟩] v pages ∧
      Served v false (elemLines pages [⟨eaOf memory 4 0 64, 64, 0⟩]) (elemLines pages [⟨eaOf memory 4 0 64, 64, 0⟩]) w ∧
      w.roomW (.zeroLine (physOf pages (eaOf memory 4 0 64)).pa ((physOf pages (eaOf memory 4 0 64)).kind ≠ .memorySide))) ∧ memory.ctx.swinCount ≤ (0 : QCode).toNat := by
  refine ⟨?_, ⟨_, rfl, by decide +kernel⟩, ?_, by decide +kernel⟩
  · obtain ⟨a, b, c⟩ := access_wit memory .scalarStore true false 4 [⟨eaOf memory 4 0 4, 4, 0⟩] false
      (by decide +kernel) (by decide +kernel) (by decide +kernel) (by decide +kernel) (by decide +kernel)
    exact ⟨_, _, _, _, rfl, rfl, rfl, clean_S rfl _, clean_V rfl (by decide), fun _ _ => clean_T rfl _, List.cons_ne_nil _ _, a,
      fun e he => by rw [List.mem_singleton.mp he]; exact b _ (List.mem_singleton.mpr rfl), c _,
      by unfold State.roomW; decide +kernel⟩
  · obtain ⟨a, _, c⟩ := access_wit memory .vectorStore true false 64 [⟨eaOf memory 4 0 64, 64, 0⟩] false
      (by decide +kernel) (by decide +kernel) (by decide +kernel) (by decide +kernel) (by decide +kernel)
    exact ⟨_, _, _, a, c _, by unfold State.roomW; decide +kernel⟩

/-- Misaligned and unmapped accesses trap: the cause is Alignment Fault or Translation Fault (R19, R204). -/
theorem test_access_traps :
    after (exec (.lds yes .s32 10 4 0 5) (memory.modArch fun a => { a with s := { vals := [(4, 0x200001)], pend := [] } }))
      (fun t => match t.issue with | .trapped x _ => x | _ => 0) = some 0x11 ∧
    after (exec (.lds yes .s32 10 7 0 5) memory) (fun t => match t.issue with | .trapped x _ => x | _ => 0) = some 0x10 := by
  decide +kernel

/-- The cluster moves (Table 13-1). -/
theorem test_moves :
    went (exec (.xsv yes .z8 255 10 9) memory) (fun t => Machine.lane (t.vectorAt 10 (memory.due 3)) .z8 255) = some 0x55 ∧
    went (exec (.xsvb yes .z16 10 9) memory) (fun t => Machine.lane (t.vectorAt 10 (memory.due 3)) .z16 127) = some 0x55 ∧
    went (exec (.xvs yes .z32 63 10 2) memory) (fun t => t.scalarAt 10 (memory.due 3)) = some 0x13F ∧
    went (exec (.xvt yes 2 3 false 63 0) memory) (fun t => bitsOf (t.tileAt 3 (memory.due 3)).toNat 32256 32) = some 0x100 ∧
    went (exec (.xvt yes 2 3 true 1 2) memory) (fun t => bitsOf (t.tileAt 3 (memory.due 3)).toNat 544 32) = some 0x101 := by
  decide +kernel

/-- The laboratory with sixty-four accumulator tiles. -/
def matrix : State := memory.setCtx { memory.ctx with awinCount := 64, swinCount := 2 }

theorem test_wit_MoveResults :
    matrix.guardOn yes = true ∧ matrix.soundS [9] ∧ matrix.roomFor 10 ∧ matrix.soundV [2] ∧ matrix.soundT 3 ∧
    matrix.roomV [rowEntry 7 15] ∧ ((31 : BitVec 6).toNat + 1) * 2 ^ (1 : BitVec 2).toNat ≤ 64 ∧ (1 : BitVec 2).toNat ≤ 2 ∧
    matrix.roomV ((List.range 16).map (rowEntry 7)) ∧ (380 : VCode).toNat + 4 ≤ 384 ∧ inAwin matrix 63 1 = true ∧
    matrix.accFree 63 ∧ 456 + 63 ∉ matrix.ctx.arch.poison ∧ matrix.roomV ((List.range 4).map (380 + ·)) ∧ matrix.roomA [63] := by
  refine ⟨rfl, clean_S rfl _, room_for rfl _, clean_V rfl (by decide +kernel), clean_T rfl _, ?_, by decide, by decide, ?_, by decide,
    by decide +kernel, ⟨by decide +kernel, by decide +kernel⟩, by decide +kernel, ?_, ?_⟩
  · unfold State.roomV; decide +kernel
  · unfold State.roomV; decide +kernel
  · unfold State.roomV; decide +kernel
  · unfold State.roomA; decide +kernel

/-! ### The matrix slot -/

/-- The multiply-accumulate of Table 11-3. -/
def workedOp : MmaOp :=
  { acc := 32, ta := 2, tb := 5, v := 0, ca := .e4m3, cb := .cb4, taT := false, tbT := false, al := false, mr := none }

theorem test_wit_MatrixProducts :
    ∃ f, (Instr.mmaz yes workedOp).WellFormed ∧
      macForm (.mmaz yes workedOp) = some f ∧ MacReady matrix f := by
  refine ⟨_, by decide, rfl, ⟨rfl, rfl, by decide +kernel, by decide, ?_, ?_, fun _ => clean_T rfl _, fun _ => clean_T rfl _,
    (fun _ h => nomatch h), by decide, by decide +kernel, by decide, by decide, ?_⟩⟩
  · unfold State.accJoins; decide +kernel
  · unfold State.soundM; decide +kernel
  · unfold State.roomA; decide +kernel

theorem test_matrix_side :
    went (exec (.aclr yes 0 63) matrix) (fun t => t.ctx.journalA.length) = none ∧
    went (exec (.aclr yes 0 15) matrix) (fun t => t.ctx.journalA.length) = some 16 ∧
    after (exec (.mret yes) matrix) (fun t => match t.issue with | .trapped x f => (x, f.toNat) | _ => (0, 0)) =
      some (1, 0x0E03) ∧
    went (exec (.mpld yes 2 0 0 0) (matrix.modArch fun a => { a with t := { vals := [(2, 0x0600005000000000)], pend := [] } }))
      (fun t => amGet 0 t.ctx.arch.uprog 0) = some 0x0600005000000000 := by decide +kernel

/-- The microprogram mcb t5, mret at entry 0. -/
def programmed : State := matrix.modArch fun a => { a with uprog := [(0, 0x0600005000000000), (1, 0x0500000000000000)] }

/-- Register r holds poison. -/
def poisoned (r : Nat) (s : State) : State := s.modArch fun a => { a with poison := [r] }

theorem test_wit_MatrixSideResults :
    matrix.guardOn yes = true ∧ matrix.stage = .issue ∧ matrix.roomA [] ∧ matrix.soundT 2 ∧
    inAwin matrix 0 ((31 : BitVec 12).toNat + 1) = true ∧ matrix.roomA ((List.range 32).map (0 + ·)) ∧
    (Instr.mpld yes 2 112 62 1).WellFormed ∧
    (∃ s ops n, callBody s 0 = some (ops, n) ∧ (∀ o ∈ ops, o.inRange s = true) ∧ s.stage = .issue ∧
      s.sound (callMarks s.ctx.arch 0)) ∧ matrix.soundM [1] ∧
    ∃ r ∈ callMarks (poisoned 5071 programmed).ctx.arch 0, r ∈ (poisoned 5071 programmed).ctx.arch.poison := by
  refine ⟨rfl, rfl, ?_, clean_T rfl _, by decide +kernel, ?_, by decide, ?_, ?_, ?_⟩
  · unfold State.roomA; decide +kernel
  · unfold State.roomA; decide +kernel
  · have h : ((callBody programmed 0).map fun x => x.1.all fun o => o.inRange programmed) = some true := by decide +kernel
    revert h
    cases hc : callBody programmed 0 with
    | none => intro h; cases h
    | some x =>
      intro h
      exact ⟨_, x.1, x.2, hc, by simpa using h, rfl, by unfold State.sound; decide +kernel⟩
  · unfold State.soundM; decide +kernel
  · decide +kernel

/-! ### Engine commands -/

/-- The next state, or the given one at a stop. -/
def nextOr (d : State) (o : Out) : State :=
  match o with
  | .next t => t
  | _ => d

/-- The state without cached translations: whether one is still used is free (R16). -/
def uncached (s : State) : State := { s with tlb := [] }

/-- A copy of 64 bytes from s4 to s6, given to its engine and accepted. -/
def copying : State := uncached <| nextOr memory (exec (.engineCommandAccept 0 0 1) (nextOr memory (exec (.xcopy yes 63 4 6) (atCommit memory))))

/-- Its one point read and its result staged. -/
def staged : State := uncached <| nextOr memory (exec (.copyPoint 0 1) copying)

/-- Context 0 with its commands changed. -/
def withCmd (s : State) (f : Cmd → Cmd) : State := s.setCtxOf 0 { s.ctxOf 0 with cmds := (s.ctxOf 0).cmds.map f }

/-- The point of the copy stages its bytes, and the next step of the engine writes them (R254, R256). -/
theorem test_xcopy :
    (copying.ctxOf 0).cmds.map (fun k => (k.num, k.accepted)) = [(1, true)] ∧ (copying.timeline 0 0).issued = 1 ∧
    memNat (nextOr memory (exec (.copyPoint 0 1) staged)).mem 0x200040 4 = 0x80FF01FE := by decide +kernel

/-- Sixteen commands that no engine has accepted. -/
def full : State :=
  memory.setCtx { memory.ctx with cmds := (List.replicate 16 ((copying.ctxOf 0).cmds.map fun k => { k with accepted := false })).flatten }

/-- The copy with its last write made, and its status to be written. -/
def ended : State := withCmd copying fun k => { k with ending := 2 }

/-- The laboratory with a shape that has a reserved bit set. -/
def reservedShape (w : Nat) (s : State) : State := s.modArch fun a => { a with shadow := [(w, 0x1000000000000000)] }

theorem test_wit_CopyCommands :
    copyForm (.xcopy yes 63 4 6) = some (yes, .copy 64, 4, 6) ∧ memory.guardOn yes = true ∧ memory.soundS [4, 6] ∧
    memory.stage = .issue ∧ engineFull memory.ctx 0 = false ∧ nextNumber memory 0 < 2 ^ 64 ∧ engineFull full.ctx 0 = true ∧
    bitsOf (amGet 0 memory.ctx.arch.shadow 97).toNat 60 4 = 0 ∧
    bitsOf (amGet 0 (reservedShape 97 memory).ctx.arch.shadow 97).toNat 60 4 ≠ 0 ∧
    (atCommit memory).stage = .commit ∧
    ((cmdOf copying 0 0 1).map fun k => k.eng == 0 && k.num == 1 && k.accepted && !k.paused && k.staged.isEmpty && k.ending == 0 &&
      decide (k.point < pointCount k.words) &&
      match copySource (.copy 64) 0 k (addressAt k.words 0 k.sa k.point) (k.words.getD 16 0).toNat copying with
      | .ok _ bs => (copyResult (.copy 64) bs).toOption.isSome
      | _ => false) = some true ∧
    ((cmdOf staged 0 0 1).map fun k => k.staged.map fun w => match engWrite staged 0 k w with
      | .ok _ => (w.2.length, behindSpill (staged.ctxOf 0) w)
      | _ => (0, true)) = some [(64, false)] ∧
    (match copyResult .decode [] with | .error e => e | .ok _ => 0) = 3 ∧
    ((cmdOf ended 0 0 1).map fun k => (k.staged.length, k.ending, spilled ended 0 k, cmdQuiet ended 0 k)) =
      some (0, 2, false, true) := by
  refine ⟨rfl, rfl, clean_S rfl _, rfl, ?_⟩
  decide +kernel

/-- A microprogram of mcb t1 and mret, and shapes that are all zero; s6 is another address of the page at 0. -/
def nesting : State :=
  let s := programmed.modArch fun a =>
    { a with uprog := [(0, 0x0600001000000000), (1, 0x0500000000000000)], s := { vals := [(6, 0x80000000000000)], pend := [] } }
  { s with mem := memWrite s.mem 0x10008 (leBytes 8 0x20001) }

/-- The active words of an engine slot's shapes. -/
def nestShapes (s : State) : List Word := (List.range 32).map fun w => amGet 0 s.ctx.arch.shadow w

theorem test_wit_NestCommands :
    nesting.guardOn yes = true ∧ nesting.soundS [4, 6] ∧ nesting.stage = .issue ∧ engineFull nesting.ctx 1 = false ∧
    nextNumber nesting 1 < 2 ^ 64 ∧ nestBody memory 0 = none ∧
    ((nestBody nesting 0).map fun b => (nestLegal nesting (nestShapes nesting) b (nesting.readS 4) (nesting.readS 6),
      nestLegal nesting (nestShapes (reservedShape 16 nesting)) b (nesting.readS 4) (nesting.readS 6))) = some (true, false) ∧
    (let s := nextOr memory (exec (.engineCommandAccept 0 1 1) (nextOr memory (exec (.xnest yes 0 4 6) (atCommit nesting))))
     ((cmdOf s 0 1 1).map fun k => (k.eng, k.num, k.accepted, k.paused, decide (k.point < pointCount k.words) && !nestBehind s 0 k,
       match k.work with
       | .nest b => (match nestFetch s 0 k b with
         | .ok s1 _ => (s1.ctxOf 0).arch.poison.isEmpty
         | _ => false)
       | _ => false)) = some (1, 1, true, false, true, true)) ∧ nesting.sound (nestMarks nesting 0) := by
  refine ⟨rfl, clean_S rfl _, rfl, decided5 (by decide +kernel) ?_⟩
  unfold State.sound; decide +kernel

/-- A descriptor: first word, source, destination, one tile, counters (Table 13-5). -/
def descriptor (w0 ctr : Nat) : List Byte := [w0, 0x201000, 0x202000, 1, ctr, 0, 0, 0].flatMap (leBytes 8)

/-- The descriptor of a broadcast in a group of one at s4: one tile of FP32, or of SB3 with its counter at 0x200100. -/
def sending (plane : Bool) : State :=
  let s := memory.setCtx { memory.ctx with levels := [(1, 0)] }
  let d := if plane then descriptor (2 ^ 32 + 2 ^ 28 + 7 * 2 ^ 24) 0x200100 else descriptor (2 ^ 32) 0
  { s with mem := memWrite s.mem 0x200000 d }

/-- The descriptor at s4, as a state shows it. -/
def shown (s : State) : List Byte :=
  descSeen (xlated s .engine false false [⟨(s.readS 4).toNat, 64, 0⟩]).1
    (xlated s .engine false false [⟨(s.readS 4).toNat, 64, 0⟩]).2.1 (s.readS 4).toNat

/-- The state of the issue when the descriptor has been read. -/
def described (s : State) : State :=
  noteBytes (noteRead (xlated s .engine false false [⟨(s.readS 4).toNat, 64, 0⟩]).1
    [(homePa (physOf (xlated s .engine false false [⟨(s.readS 4).toNat, 64, 0⟩]).2.1 (s.readS 4).toNat).pa, 64)]) 6 (shown s)

theorem test_wit_CollectiveCommands :
    (Instr.xbcast yes 4 |> collForm) = some (yes, 0, 4) ∧ memory.guardOn yes = true ∧ memory.soundS [4] ∧
    (memory.readS 4).toNat % 64 = 0 ∧ memory.stage = .issue ∧ engineFull memory.ctx 2 = false ∧ nextNumber memory 2 < 2 ^ 64 ∧
    (∃ v pages, Translates (sending true) .engine false false 64 [⟨((sending true).readS 4).toNat, 64, 0⟩] v pages ∧
      v.poison = []) ∧
    descLegal memory.ctx 0 (shown memory) = false ∧
    (shown (sending false) = descriptor (2 ^ 32) 0 ∧ descLegal (sending false).ctx 0 (shown (sending false)) = true ∧
      descPlane (shown (sending false)) = false) ∧
    (descLegal (sending true).ctx 0 (shown (sending true)) = true ∧ descPlane (shown (sending true)) = true ∧
      destCount 0 (rankIn (sending true).ctx 0) (descSize (sending true).ctx (shown (sending true))) (shown (sending true)) = 1 ∧
      (let x := translatePages (described (sending true)) (ctxXlat (described (sending true)) (described (sending true)).cur) .engine
          true false (rangePages (descWord (shown (sending true)) 0x20) 8) [] []
       x.2.2 = [])) := by
  refine ⟨rfl, rfl, clean_S rfl _, by decide +kernel, rfl, by decide +kernel, by decide +kernel, ?_, by decide +kernel,
    by decide +kernel, by decide +kernel⟩
  obtain ⟨a, _, _⟩ := access_wit (sending true) .engine false false 64 [⟨((sending true).readS 4).toNat, 64, 0⟩] true
    (by decide +kernel) (by decide +kernel) (by decide +kernel) (by decide +kernel) (by decide +kernel)
  exact ⟨_, _, a, by decide +kernel⟩

/-- The broadcast commits: its counter is zeroed, and its collective, of one member, is complete in members (R262). -/
theorem test_collective :
    went (exec (.xbcast yes 4) (atCommit (described (sending false)))) (fun t =>
      (t.colls.map fun k => (k.2.members.length, k.2.size), t.ctx.cmds.length)) = some ([(1, 1)], 1) := by decide +kernel

/-! ### Timelines, atomics, barriers, token queues -/

/-- s4: a handle of the task's own engine context 4; s5: one with a reserved bit; s6: one of a dead generation; s8: engine
context 0. -/
def waiting : State :=
  labRegs [(4, 0x40000000000), (5, 0x100000000000), (6, 0x100000000), (8, 0), (9, 3)] []

theorem test_timelines :
    after (exec (.twait yes 5 9) waiting) (fun t => match t.issue with | .trapped x _ => x | _ => 0) = some 1 ∧
    after (exec (.twait yes 8 9) waiting) (fun t => match t.issue with | .trapped x _ => x | _ => 0) = some 0x1E ∧
    after (exec (.twait yes 4 9) waiting) (fun t => decide (t.issue = .blocked)) = some true ∧
    went (exec (.twait yes 6 9) waiting) (fun t => t.wall) = some 0 ∧
    went (exec (.tsig yes 9) (atCommit waiting)) (fun t => (t.timeline 0 4).count) = some 3 ∧
    went (exec (.tread yes 10 6 5) waiting) (fun t => t.scalarAt 10 (waiting.due 5)) = some 0xFFFFFFFFFFFFFFFF ∧
    went (exec (.tread yes 10 4 5) waiting) (fun t => t.scalarAt 10 (waiting.due 5)) = some 0 ∧
    went (exec (.fence yes 4) (atCommit waiting)) (fun t => t.ctx.wait) = some (.fence false 0x100000) ∧
    went (exec (.fence yes 1) (atCommit waiting)) (fun t => t.ctx.wait) = some .none := by decide +kernel

theorem test_wit_TimelineResults :
    waiting.guardOn yes = true ∧ waiting.stage = .issue ∧ waiting.soundS [4, 9] ∧ badHandle (waiting.readS 5) ∧
    ¬badHandle (waiting.readS 4) ∧ deadHandle waiting (waiting.readS 6) ∧ ¬badHandle (waiting.readS 6) ∧
    ¬deadHandle waiting (waiting.readS 4) ∧ bitsOf (waiting.readS 4).toNat 40 4 = 4 ∧
    ¬badHandle (waiting.readS 8) ∧ ¬deadHandle waiting (waiting.readS 8) ∧ bitsOf (waiting.readS 8).toNat 0 13 = waiting.ctx.slot ∧
    bitsOf (waiting.readS 8).toNat 40 4 ≠ 4 ∧ (namedTimeline waiting (waiting.readS 8)).issued < (waiting.readS 9).toNat ∧
    (namedTimeline waiting (waiting.readS 4)).count < (waiting.readS 9).toNat ∧ waiting.fabric.unreachable = [] := by
  refine ⟨rfl, rfl, clean_S rfl _, ?_⟩
  unfold badHandle deadHandle
  decide +kernel

/-- The broadcast in plane mode is at work, its tile open. -/
def opened : State :=
  uncached <| nextOr memory (exec (.xbcast yes 4) (atCommit (described (sending true))))

/-- The next bundle of its task. -/
def cancelling : State := { opened with stage := .issue }

theorem test_wit_pwait_xcancel :
    memory.soundS [4, 9] ∧ (memory.readS 4).toNat % 64 = 0 ∧ (∃ v pages,
      Translates memory .scalarLoad false false 1 [⟨(memory.readS 4).toNat, 8, 0⟩] v pages ∧
      (∀ l ∈ elemLines pages [⟨(memory.readS 4).toNat, 8, 0⟩], l ∉ v.poison)) ∧
    (∃ v pages, Translates memory .engine false false 64 [⟨(memory.readS 4).toNat, 64, 0⟩] v pages) ∧
    cancelTarget (described memory) (shown memory) (memory.readS 9).toNat = none ∧
    ((cancelTarget (described cancelling) (shown cancelling) 0).map fun x =>
      let y := translatePages (described cancelling) (ctxXlat (described cancelling) (described cancelling).cur) .engine true false
        (rangePages (counterAddr x.2 0) 8) [] []
      y.2.2.isEmpty) = some true ∧ (cancelling.readS 0).toNat = 0 ∧ engineFull cancelling.ctx 2 = false ∧
    cancelTarget (atCommit memory) (bytesAt (atCommit memory) 6) (memory.readS 9).toNat = none ∧
    ((cancelTarget opened (bytesAt opened 6) 0).map fun x =>
      (amFind opened.colls x.1).map fun k => decide (x.2 ∈ k.members)) = some (some true) := by
  obtain ⟨a, _, c⟩ := access_wit memory .scalarLoad false false 1 [⟨(memory.readS 4).toNat, 8, 0⟩] true (by decide +kernel)
    (by decide +kernel) (by decide +kernel) (by decide +kernel) (by decide +kernel)
  obtain ⟨d, _, _⟩ := access_wit memory .engine false false 64 [⟨(memory.readS 4).toNat, 64, 0⟩] true (by decide +kernel)
    (by decide +kernel) (by decide +kernel) (by decide +kernel) (by decide +kernel)
  exact ⟨clean_S rfl _, by decide +kernel, ⟨_, _, a, (c []).clean rfl⟩, ⟨_, _, d⟩, by decide +kernel⟩

/-- The low counter word is 0xFE, and 0x55 asks for five planes: the wait is over; with 15 of 0 it is not (R267). -/
theorem test_pwait :
    went (exec (.pwait yes 4 9) memory) (fun t => t.stage) = some .issue ∧
    after (exec (.pwait yes 6 9) memory) (fun t => decide (t.issue = .blocked)) = some true := by decide +kernel

/-- Each atomic on the four bytes 80 FF 01 FE at 0x200000 with 0x55, as its effect leaves them. -/
def atomicallyAt (op : Nat) (ty : ATy) (x : Word) : Nat := memNat (performOp memory (.atomic op ty 0x200000 x)).mem 0x200000 8

theorem test_atomics :
    [0, 1, 2, 3, 6].map (fun op => atomicallyAt op .z32 0x55 % 2 ^ 32) = [0x80FF0253, 0x54, 0x80FF01FF, 0x80FF01AB, 0x55] ∧
    atomicallyAt 4 .s32 0x55 % 2 ^ 32 = 0x80FF01FE ∧ atomicallyAt 4 .z32 0x55 % 2 ^ 32 = 0x55 ∧
    atomicallyAt 5 .s32 0x55 % 2 ^ 32 = 0x55 ∧ atomicallyAt 0 .z64 1 = 0xAABBCCDD80FF01FF := by decide +kernel

/-- Lines without poison and without stash tiles serve at once. -/
theorem served_clean {v : State} (h1 : v.poison = []) (h2 : v.stash.isEmpty = true) (read : Bool) (lines whole : List Nat) :
    Served v read lines whole v :=
  ⟨fun _ l _ => by rw [h1]; exact List.not_mem_nil, by unfold stashTouch; rw [if_pos h2]⟩

/-- The element that s4 names, and the pages of its atomic. -/
def atomPages (s : State) (merge : Bool) : State × List (Nat × Phys) × List PageFault :=
  xlated s .atomic true merge [⟨(s.readS 4).toNat, 4, 0⟩]

/-- The task is phased, and its pages are memory-side with PH set. -/
def phasing : State :=
  { memory.setCtx { memory.ctx with phased := true } with mem := memWrite memory.mem 0x30000 (leBytes 8 0x3D83) }

theorem test_wit_AtomicResults :
    (∃ f v w pages, atomicForm (.aadd yes .s32 false 0 4 9 0) = some f ∧ memory.stage = .issue ∧ memory.guardOn f.guard = true ∧
      memory.soundS f.srcs ∧ memory.ctx.phased = false ∧ f.ret = false ∧
      Translates memory .atomic true false 4 [⟨(memory.readS 4).toNat, 4, 0⟩] v pages ∧
      Served v true (elemLines pages [⟨(memory.readS 4).toNat, 4, 0⟩]) [] w ∧
      w.roomW (.atomic f.op f.ty (physOf pages 0x200000).pa (memory.readS f.sb)) ∧
      Served (notePages v 7 pages) true (elemLines pages [⟨(memory.readS 4).toNat, 4, 0⟩]) [] (notePages v 7 pages)) ∧
    (∃ f v pages, atomicForm (.afadd yes false 0 4 9 0) = some f ∧ f.merges = true ∧ phasing.ctx.phased = true ∧
      Translates phasing .atomic true true 4 [⟨(phasing.readS 4).toNat, 4, 0⟩] v pages ∧
      v.roomW (.mergeAdd (f.op == 8) (physOf pages 0x200000).pa 0)) ∧
    (∃ f, atomicForm (.acas yes .z64 true 10 4 9 5) = some f ∧ f.ret = true ∧ (atCommit memory).stage = .commit ∧
      (atCommit memory).soundS f.srcs ∧ f.merges = false ∧ rangeOf (physOf (pagesAt (atCommit memory) 7) 0x200000).pa ≠ .fabric) ∧
    rangeOf (physOf (pagesAt (atCommit (notePages (atomPages remote false).1 7 (atomPages remote false).2.1)) 7)
      (remote.readS 4).toNat).pa = .fabric ∧ ringsEmpty memory ∧ rangeOf 0x200000 ≠ .fabric := by
  refine ⟨?_, ?_, ⟨_, rfl, rfl, rfl, clean_S rfl _, rfl, by decide +kernel⟩, by decide +kernel, ?_, by decide +kernel⟩
  · obtain ⟨a, _, c⟩ := access_wit memory .atomic true false 4 [⟨(memory.readS 4).toNat, 4, 0⟩] true
      (by decide +kernel) (by decide +kernel) (by decide +kernel) (by decide +kernel) (by decide +kernel)
    exact ⟨_, _, _, _, rfl, rfl, rfl, clean_S rfl _, rfl, rfl, a, c [], by unfold State.roomW; decide +kernel,
      served_clean (by decide +kernel) (by decide +kernel) _ _ _⟩
  · obtain ⟨a, _, _⟩ := access_wit phasing .atomic true true 4 [⟨(phasing.readS 4).toNat, 4, 0⟩] true
      (by decide +kernel) (by decide +kernel) (by decide +kernel) (by decide +kernel) (by decide +kernel)
    exact ⟨_, _, _, rfl, rfl, rfl, a, by unfold State.roomW; decide +kernel⟩
  · intro p hp; exact absurd hp List.not_mem_nil

/-- Barrier 3 of ridge 0 belongs to launch 0, two arrivals a phase; queue 7 serves partition 0, one token in. -/
def meeting : State :=
  let s := labRegs [(4, 7), (9, 0x99), (11, 8)] []
  { s with
    barriers := [(3, { Barrier.unowned with owner := some 0, expect := 2 })]
    tokens := [(7, { TokenQueue.reset with en := true, parts := 1, depth := 16, entries := [5] })] }

theorem test_barriers_and_queues :
    went (exec (.arrive yes 3) meeting) (fun t => t.ctx.withheld) = some [.arrive 3] ∧
    after (exec (.drop yes 4) meeting) (fun t => match t.issue with | .trapped x _ => x | _ => 0) = some 0x1C ∧
    (amGet Barrier.unowned (arriveNow meeting 0 3 false).barriers 3).count = 1 ∧
    (let b := amGet Barrier.unowned (arriveNow (arriveNow meeting 0 3 true) 4 3 false).barriers 3
     (b.count, b.phase, b.expect) = (0, 1, 1)) ∧
    after (exec (.bwait yes 3) meeting) (fun t => decide (t.issue = .blocked)) = some true ∧
    after (exec (.qpush yes 11 9) meeting) (fun t => match t.issue with | .trapped x _ => x | _ => 0) = some 0x1D ∧
    went (exec (.qpush yes 4 9) (atCommit meeting)) (fun t => (amGet TokenQueue.reset t.tokens 7).entries) = some [5, 0x99] ∧
    went (exec (.qpop yes 10 4 5) (atCommit meeting)) (fun t => (t.scalarAt 10 (meeting.due 5), (amGet TokenQueue.reset t.tokens 7).entries)) =
      some (5, []) := by decide +kernel

/-- The queue with these tokens. -/
def crowded (ts : List Word) : State :=
  { meeting with tokens := [(7, { TokenQueue.reset with en := true, parts := 1, depth := 16, entries := ts })] }

theorem test_wit_BarriersAndQueues :
    meeting.guardOn yes = true ∧ meeting.stage = .issue ∧
    (let b := amGet Barrier.unowned meeting.barriers (17 * (meeting.cur / 64) + (3 : BitVec 5).toNat)
     b.owner = some meeting.ctx.launch ∧ b.expect ≠ 0 ∧ b.count + 1 ≠ b.expect) ∧
    (amGet Barrier.unowned meeting.barriers 4).owner ≠ some meeting.ctx.launch ∧ meeting.roomW (.arrive 3) ∧ meeting.roomW (.drop 3) ∧
    amFind meeting.ctx.barPhase 3 = none ∧ meeting.ctx.waitPhase = none ∧
    (let c := (arriveNow meeting 0 3 false).ctxOf 0
     amFind c.barPhase 3 = some 0 ∧ (0 : Nat) ≤ (amGet Barrier.unowned (arriveNow meeting 0 3 false).barriers 3).phase ∧
       0 < (amGet Barrier.unowned (arriveNow (arriveNow meeting 0 3 false) 4 3 false).barriers 3).phase) ∧
    meeting.soundS [4, 9] ∧
    (let k := amGet TokenQueue.reset meeting.tokens ((meeting.readS 4).toNat % 256)
     k.en = true ∧ k.parts.getLsbD meeting.ctx.part = true ∧ meeting.ctx.tokenWait = none ∧
       waitersAhead meeting k.pushers meeting.cur + reservedIn meeting 7 true + k.entries.length < k.depth.toNat ∧
       waitersAhead meeting k.poppers meeting.cur + reservedIn meeting 7 false < k.entries.length ∧ k.entries = [5]) ∧
    (let k := amGet TokenQueue.reset (crowded []).tokens 7
     k.entries.length ≤ waitersAhead (crowded []) k.poppers 0 + reservedIn (crowded []) 7 false) ∧
    (let k := amGet TokenQueue.reset (crowded (List.replicate 16 0)).tokens 7
     k.depth.toNat ≤ waitersAhead (crowded []) k.pushers 0 + reservedIn (crowded []) 7 true + k.entries.length) ∧
    (amGet TokenQueue.reset meeting.tokens ((meeting.readS 11).toNat % 256)).en = false := by
  refine ⟨rfl, rfl, by decide +kernel, by decide +kernel, ?_, ?_, decided3 (by decide +kernel) ⟨clean_S rfl _, by decide +kernel⟩⟩
  · unfold State.roomW; decide +kernel
  · unfold State.roomW; decide +kernel

/-! ### Commands, launches, claims, the system -/

/-- The block of an mred at s4 as its issue reads it, and the state then. -/
def blockRead (s : State) : State × List Byte :=
  let x := translatePages s (ctxXlat s s.cur) .vectorLoad false false (touched (s.readS 4).toNat 192 0) [] []
  (noteRead x.1 ((List.range 3).map fun i => (homePa (physOf x.2.1 ((s.readS 4).toNat + 64 * i)).pa, 64)),
   bytesSeen x.1 x.2.1 (s.readS 4).toNat 192)

/-- The laboratory with a page of memory-side data. -/
def sided : State := { memory with mem := memWrite memory.mem 0x30000 (leBytes 8 0x3D83) }

/-- The block of the laboratory with a FLAG that is not aligned. -/
def oddFlag : State := { memory with mem := memWrite memory.mem 0x200018 [1] }

theorem test_wit_ReductionAndLaunch :
    memory.guardOn yes = true ∧ memory.ctx.phased = false ∧ memory.stage = .issue ∧ nextNumber memory 3 < 2 ^ 64 ∧
    nextNumber memory 5 < 2 ^ 64 ∧ memory.soundS [4, 9] ∧ engineFull memory.ctx 3 = false ∧ engineFull memory.ctx 5 = false ∧
    (memory.readS 9).toNat % 64 ≠ 0 ∧ (memory.readS 4).toNat % 64 = 0 ∧ (atCommit memory).stage = .commit ∧
    (translatePages memory (ctxXlat memory memory.cur) .vectorLoad false false (touched (memory.readS 4).toNat 256 0) [] []).2.2 = [] ∧
    (translatePages memory (ctxXlat memory memory.cur) .vectorLoad false false (touched (memory.readS 4).toNat 256 0) [] []).1.poison = [] ∧
    blockFlag (blockRead oddFlag).2 % 8 ≠ 0 ∧ blockFlag (blockRead sided).2 % 8 = 0 ∧
    (translatePages (blockRead sided).1 (ctxXlat (blockRead sided).1 (blockRead sided).1.cur) .reduction true false
      [(blockFlag (blockRead sided).2 / 65536, 0)] [] []).2.2 = [] ∧
    (memory.setCtx { memory.ctx with phased := true }).ctx.phased = true := by
  refine ⟨rfl, rfl, rfl, by decide +kernel, by decide +kernel, clean_S rfl _, ?_⟩
  decide +kernel

/-- A coverage map at 0x200000, its claim table free, at a claim's issue. -/
def claiming : State :=
  let s := labRegs [(4, 0x200000), (9, 0)] []
  { s with mem := (memWrite s.mem 0x200000 (leBytes 8 (4 * 2 ^ 48 + 4 * 2 ^ 32 + 2 * 2 ^ 28 + 7))) }

/-- The map of the laboratory with these cells claimed. -/
def claimed (cells : Nat) : State := { claiming with mem := memWrite claiming.mem 0x2000C0 (leBytes 2 cells) }

/-- The same with no entry of the claim table free: every STATE is 01. -/
def crowdedMap : State :=
  { claiming with mem := (List.range 8).foldl (fun m i => memWrite m (0x200047 + 16 * i) [0x40]) claiming.mem }

/-- The context holds the claim of entry 0 of the map. -/
def holding (dropped : Bool) (s : State) : State :=
  s.setCtx { s.ctx with claims := [{ mapPa := 0x200000, tag := 0, dropped := dropped, va := 0x200000, pages := [] }] }

/-- A claim's issue reads the map's page, and then the pages of the whole map. -/
def mapHead (s : State) (va : Nat) : State × List (Nat × Phys) × List PageFault :=
  translatePages s (mapXlat s) .atomic true false (rangePages va 64) [] []

def mapWhole (s : State) (va : Nat) : State × List (Nat × Phys) × List PageFault :=
  let s1 := notePages (mapHead s va).1 7 (mapHead s va).2.1
  translatePages s1 (mapXlat s1) .atomic true false
    (rangePages va ({ va := va, pages := (mapHead s va).2.1, mem := mapMem s1 } : CvMap).len) [] []

/-- The addresses of the map's bytes, and the state in which the requests for them have been sent. -/
def mapPlaces (s : State) (va : Nat) : List Nat :=
  (List.range ({ va := va, pages := (mapWhole s va).2.1, mem := mapMem (notePages (mapHead s va).1 7 (mapHead s va).2.1) } : CvMap).len).map
    fun i => (va + i) % 2 ^ 64

def mapAsked (s : State) (va : Nat) : State :=
  engAsk (notePages (mapWhole s va).1 7 (mapWhole s va).2.1) (mapWhole s va).1.cur ((mapPlaces s va).map (physOf (mapWhole s va).2.1))

/-- The map that a claim's issue finds, and the state then, as MapFound describes them. -/
def mapThere (s : State) (va : Nat) : CvMap := { va := va, pages := (mapWhole s va).2.1, mem := mapMem (mapAsked s va) }

def foundAt (s : State) (va : Nat) : State × CvMap :=
  (noteBytes (noteRead (mapAsked s va) ((linesOf (mapWhole s va).2.1 (mapPlaces s va)).map fun l => (64 * l, 64))) 7
    (mapThere s va).bytes, mapThere s va)

def found (s : State) : State × CvMap := foundAt s (s.readS 4).toNat

theorem no_faults {α β γ : Type} {x : α × β × List γ} (h : x.2.2.isEmpty = true) : x = (x.1, x.2.1, []) :=
  Prod.ext rfl (Prod.ext rfl (List.isEmpty_iff.mp h))

/-- Where both reads of the map translate, no line is poisoned and no tile is filling, the map is found. -/
theorem mapFound_clean {s : State} {va : Nat} (ha : va % 64 = 0) (h1 : (mapHead s va).2.2.isEmpty = true)
    (h2 : (mapWhole s va).2.2.isEmpty = true) (hp : (mapAsked s va).poison = []) (hs : (mapAsked s va).stash.isEmpty = true) :
    MapFound s va (foundAt s va).1 (foundAt s va).2 := by
  refine ⟨ha, (mapHead s va).1, (mapHead s va).2.1, (mapWhole s va).1, (mapWhole s va).2.1, mapAsked s va, ?_⟩
  refine ⟨no_faults h1, no_faults h2, rfl, ?_, rfl⟩
  exact served_clean hp hs true (linesOf (mapWhole s va).2.1 (mapPlaces s va)) []

/-- The claim's commit, which acts on the map that its issue has read. -/
def claimNow (s : State) : State := atCommit (foundAt s 0x200000).1

/-- The map that a commit acts on. -/
def readMap (s : State) : CvMap := Machine.mapAt (claimNow s) 0x200000

theorem test_wit_CoverageClaims :
    ((readMap claiming).choose 0).isSome = true ∧ (readMap claiming).rows = 4 ∧
    (readMap claiming).clear 3 3 = true ∧ (worked 0xFFFF).choose 0 = none ∧ (3 : Nat) < (worked 0xFFFF).rows ∧
    (claimNow claiming).guardOn yes = true ∧ (claimNow claiming).stage = .commit ∧ ((claimNow claiming).readS 4).toNat = 0x200000 ∧
    (claimNow claiming).soundS [4, 9] ∧ (readMap claiming).lost (claimNow claiming) = none ∧ (readMap claiming).free = some 0 ∧
    (readMap (claimed 0xFFFF)).choose 0 = none ∧
    ((readMap crowdedMap).free = none ∧ ((readMap crowdedMap).choose 0).isSome = true) ∧
    scheduleOf (claimNow claiming) (readMap claiming) = 0 := by
  have sound : (claimNow claiming).soundS [4, 9] := clean_S (by decide +kernel) _
  refine ⟨?_, ?_, ?_, ?_, ?_, ?_, ?_, ?_, sound, ?_⟩
  all_goals decide +kernel

/-- The map is found at the issue, with clear cells and a free entry; full, with none; and with no free entry. -/
theorem test_wit_MapFound :
    MapFound claiming 0x200000 (foundAt claiming 0x200000).1 (foundAt claiming 0x200000).2 ∧
    ((found claiming).2.choose 0).isSome = true ∧ (found claiming).2.free = some 0 ∧ isTuner (found claiming).1 = false ∧
    (found (claimed 0xFFFF)).2.choose 0 = none ∧ (found crowdedMap).2.free = none ∧
    (found claiming).1.ctx.claims = [] ∧ (found claiming).2.state 0 ≠ 1 ∧ (found claiming).2.pa 0 = 0x200000 ∧
    ((found (holding true claiming)).1.ctx.claims.map fun k => k.dropped) = [true] ∧
    ((0 : Nat) < (found crowdedMap).2.tags ∧ (found crowdedMap).2.state 0 = 1 ∧
      (found crowdedMap).2.word 0x40 4 = (found crowdedMap).1.ctx.task ∧ (found crowdedMap).2.word 0x48 8 = 0 ∧
      ((found (holding false crowdedMap)).1.ctx.claims.map fun k => (k.mapPa, k.tag)) = [((found crowdedMap).2.pa 0, 0)]) := by
  refine ⟨mapFound_clean (by decide) (by decide +kernel) (by decide +kernel) (by decide +kernel) (by decide +kernel), ?_⟩
  decide +kernel

/-- The first claim takes one cell of an unscheduled map, entry 0, and sets its bit; the same commit with no free entry is a
Coverage Fault; cvdone of a claim that the context holds leaves the entry done, and at the issue of one that it does not hold it
is a Coverage Fault (R274, R292). -/
theorem test_claims :
    went (exec (.cvclaim yes 10 4 5) (claimNow claiming)) (fun t => (t.scalarAt 10 (claiming.due 5), memNat t.mem 0x2000C0 1,
      t.ctx.claims.length)) = some (0x010100000000, 1, 1) ∧
    after (exec (.cvclaim yes 10 4 5) (claimNow crowdedMap)) (fun t => match t.issue with | .trapped x _ => x | _ => 0) = some 0x12 ∧
    went (exec (.cvdone yes 4 9) (claimNow (holding false crowdedMap))) (fun t => (memNat t.mem 0x200040 8 / 2 ^ 62, t.ctx.claims.length)) =
      some (2, 0) ∧
    after (exec (.cvdone yes 4 9) crowdedMap) (fun t => match t.issue with | .trapped x _ => x | _ => 0) = some 0x12 := by
  decide +kernel

/-- s12 is an address whose low 56 bits a trap reports. -/
theorem test_system :
    went (exec (.trap yes 9 0xAB) (atCommit memory)) (fun t => t.ctx.softTrap) = some (some 0xAB00000000000055) ∧
    went (exec (.halt yes) (atCommit memory)) (fun t => (t.ctx.life, t.work)) = some (.halting, [.hbmZeroComplete, .taskHaltComplete 0]) ∧
    after (exec (.phase yes) memory) (fun t => match t.issue with | .trapped x f => (x, f.toNat) | _ => (0, 0)) = some (1, 0x1107) ∧
    after (exec (.tinvAll yes 4) memory) (fun t => match t.issue with | .trapped x _ => x | _ => 0) = some 2 ∧
    went (exec (.tinvAll yes 4) (atCommit handling)) (fun t => match t.ctx.wait with | .tinv sc _ => some sc | _ => none) = some (some 4) := by decide +kernel

theorem test_wit_SystemOperations :
    memory.guardOn yes = true ∧ memory.soundS [9] ∧ memory.stage = .issue ∧ memory.ctx.handler = false ∧ handling.ctx.handler = true ∧
    (atCommit memory).stage = .commit ∧ memory.ctx.phased = false ∧ (memory.setCtx { memory.ctx with phased := true }).ctx.phased = true ∧
    handling.soundS [4, 9] ∧
    (let leaf : TlbEntry := ⟨0, 0, 7, true, 3, 0x20, 0x1D83, 0x30000⟩
     inScope 0 4 leaf = true ∧ inScope 0 4 { leaf with level := 2 } = true ∧ inScope 64 1 leaf = false) := by
  refine ⟨rfl, clean_S rfl _, rfl, rfl, rfl, rfl, rfl, rfl, clean_S rfl _, by decide +kernel⟩

/-- Tile 1 of the window is ready at 0x201000; tile 0 is empty; s4 = 0x200000. -/
def stashing : State :=
  { matrix with stash := [(1, { StashTile.empty with state := .ready, pa := 0x201, va := 0x201, present := BitVec.allOnes 64 })] }

/-- The same with the pages of the Y slot's issue. -/
def mapped : State :=
  atCommit (stashing.setCtx { stashing.ctx with resolved := [{ slot := 7, page := 0x20, pa := 0x200000, kind := .coherent }] })

theorem test_stash :
    went (exec (.smap yes 0 0 4) mapped) (fun t => ((t.tile 0).state, (t.tile 0).pa)) = some (.filling, 0x200) ∧
    after (exec (.smap yes 0 1 4) stashing) (fun t => match t.issue with | .trapped x _ => x | _ => 0) = some 0x18 ∧
    went (exec (.sdrain yes 0 1) mapped) (fun t => (t.tile 1).state) = some .draining ∧
    after (exec (.sdrain yes 0 2) stashing) (fun t => match t.issue with | .trapped x f => (x, f.toNat) | _ => (0, 0)) =
      some (1, 0x0E07) := by decide +kernel

theorem test_wit_StashMaps :
    stashing.guardOn yes = true ∧ stashing.soundS [4] ∧ stashing.stage = .issue ∧ stashing.ctx.swinCount = 2 ∧
    (amGet StashTile.empty stashing.stash (512 * (stashing.cur / 4) + stashing.ctx.swinBase + 0)).state = .empty ∧
    (amGet StashTile.empty stashing.stash (512 * (stashing.cur / 4) + stashing.ctx.swinBase + 1)).state = .ready ∧
    (stashing.readS 4).toNat % 4096 = 0 ∧ mapped.stage = .commit ∧
    (let r := translatePages stashing (ctxXlat stashing stashing.cur) .stashFill false false [((stashing.readS 4).toNat / 65536, 0)] [] []
     r.2.2 = [] ∧ servingMaps (notePages r.1 7 r.2.1) stashing.cur ((physOf r.2.1 (stashing.readS 4).toNat).pa / 4096)
       ((physOf r.2.1 (stashing.readS 4).toNat).kind == .zero) = false) ∧
    (let r := translatePages stashing (ctxXlat stashing stashing.cur) .stashFill true false [((stashing.readS 4).toNat / 65536, 0)] [] []
     let u := notePages r.1 7 r.2.1
     let cells := cellsAt (physOf r.2.1 (stashing.readS 4).toNat).pa (List.replicate 4096 0)
     r.2.2 = [] ∧ servingMaps u stashing.cur ((physOf r.2.1 (stashing.readS 4).toNat).pa / 4096)
       ((physOf r.2.1 (stashing.readS 4).toNat).kind == .zero) = false ∧
     wsOverflows u u.cur (u.ctx.withheld ++ [.store cells]) = false) := by
  refine ⟨rfl, clean_S rfl _, rfl, rfl, ?_⟩
  decide +kernel

theorem test_wit_StoreResults_stq :
    stashing.guardOn yes = true ∧ stashing.soundT 6 ∧ (1 : QCode).toNat < stashing.ctx.swinCount ∧ stashing.stage = .issue ∧
    (stashing.tile (tileIx stashing stashing.cur 1)).state = .ready ∧
    (let x := xlated stashing .vectorStore true false [⟨(stashing.tile (tileIx stashing stashing.cur 1)).va * 4096, 4096, 0⟩]
     let cells := cellsAt ((stashing.tile (tileIx stashing stashing.cur 1)).pa * 4096) (bytesOf (stashing.readT 6) 4096)
     x.2.2 = [] ∧ wsOverflows x.1 x.1.cur (x.1.ctx.withheld ++ [.store cells]) = false) := by
  refine ⟨rfl, clean_T rfl _, ?_⟩
  decide +kernel

/-- A stq of an empty tile is a Stash Map Fault (R60). -/
theorem test_stq : after (exec (.stq yes 6 0) stashing) (fun t => match t.issue with | .trapped x _ => x | _ => 0) = some 0x18 := by
  decide +kernel

/-- Lane 0 of group 1 is a decoder over a stash window whose tile 0 is mapped. -/
def fetching : State :=
  { stashing with ctxs := (coding.setCtx { coding.ctx with swinCount := 2, arch := { coding.ctx.arch with
                    ttb := 0x10000, str := { coding.ctx.arch.str with
                      queues := [(64, { win := [], rest := 0, ended := false, overrun := false, error := false })] } } }).ctxs
                  stash := [(0, { StashTile.empty with state := .ready, pa := 0x200, va := 0x200, present := BitVec.allOnes 64 })] }

theorem test_wit_CoderStatusAndFetch :
    coding.guardOn yes = true ∧ fetching.guardOn yes = true ∧ ((fetching.readM 1).getLsbD 0 && !(fetching.lane 1 0).enc &&
      !((fetching.lane 1 0).q.ended || (fetching.lane 1 0).q.error)) = true ∧
    (∀ o, o < 8 → serves fetching o ∧ offsetPa fetching o / 64 ∉ fetching.poison) := by
  unfold serves
  refine ⟨rfl, rfl, by decide +kernel, by decide +kernel⟩

/-- ldc on the decoder's lane: CUR grows by eight, and the bytes from LIM on carry their tag (R240). -/
theorem test_ldc :
    went (exec (.ldc yes 1 5 1) fetching) (fun t => (elem (t.wordsAt 64 (fetching.now + 1)).toNat 32 3,
       t.ctx.arch.str.ops.map fun o => o.append)) =
      some (8, [[(0xFE, false), (0x01, false), (0xFF, false), (0x80, false), (0, true), (0, true), (0, true), (0, true)]]) := by
  decide +kernel

theorem test_wit_RuleMode :
    stashing.guardOn yes = true ∧ stashing.soundT 6 ∧ (48 : BitVec 6).toNat ≤ 48 ∧ stashing.ctx.gang = false ∧
    (1 : QCode).toNat < stashing.ctx.swinCount ∧ (stashing.tile 0).state = .empty ∧ (stashing.tile 1).state = .ready ∧
    (stashing.tile 1).zeroPage = false ∧ stashing.poison = [] ∧ stashing.ctx.phased = false ∧ (atCommit stashing).stage = .commit ∧
    ∃ st : RuleStep, st.chk = false ∧ st.mode.toNat < 3 ∧ st.bnd.toNat < 2 := by
  refine ⟨rfl, clean_T rfl _, by decide, rfl, decided4 (by decide +kernel) ⟨rfl, rfl, rfl,
    { order := 0, mode := 2, chk := false, bnd := 1, fix := 0, table := 0 }, rfl, by decide, by decide⟩⟩

/-- A rule step begins at the commit, and its tile fills (R247). -/
theorem test_rule :
    went (exec (.mrule yes 1 1 false 1 0 3) (atCommit stashing)) (fun t => ((t.tile 1).state, (t.tile 1).gen, t.work.length)) =
      some (.filling, 3, 2) ∧
    went (exec (.mrtab yes 6 0) (stashing.modArch fun a => { a with t := { vals := [(6, 0xA5)], pend := [] } }))
      (fun t => t.ctx.arch.ruleTab) = some 0xA5 := by decide +kernel

/-! ### Guards, traps, the machine -/

theorem test_wit_FalseGuards :
    guardOf (.lds no .s32 10 4 0 5) = some no ∧ (Instr.lds no .s32 10 4 0 5).WellFormed ∧ memory.guardOn no = false ∧
    checksPass memory (.lds no .s32 10 4 0 5) = true ∧ memory.stage = .issue ∧ actsAtCommit (.halt no) = true ∧
    checksPass (atCommit memory) (.halt no) = true ∧ guardOf (.halt no) = some no := by
  refine ⟨rfl, by decide, rfl, by decide +kernel, rfl, by decide +kernel, by decide +kernel, rfl⟩

theorem test_false_guards :
    went (exec (.lds no .s32 10 4 0 5) memory) (fun t => t.ctx.landings.length) = some 1 ∧
    went (exec (.sts no .s32 9 4 0) memory) (fun t => t.ctx.withheld) = some [] := by decide +kernel

/-- A trap of a task: a translation fault of the L slot. -/
def fault : Trap := { cause := 0x10, slot := 4, fault := 7, bva := 0x100000, pages := none, extra := [] }

/-- The handler's entry and record (R297 to R301). -/
theorem test_trap_entry :
    (let u := takeTrapOf { memory with cores := [(0, { Core.reset with trapent := 0x4000, recbase := 0x300000 })] } 0 fault
     let d := u.ctxOf 0
     (d.handler, d.hpc, d.cause, d.fault, d.arch.epc) = (true, 0x4000, 0x10, 7, 0x80000000100000) ∧
       memNat u.mem 0x300000 8 = 0x100400000000 ∧ memNat u.mem 0x300018 8 = 0x80000000100000) := by decide +kernel

/-- A fault in a handler is a double fault: the context parks (R304). -/
theorem test_double_fault :
    (let d := (takeTrapOf handling 0 fault).ctxOf 0
     (d.parked, d.handler, d.cause) = (true, false, 0x21)) := by decide +kernel

theorem test_wit_TakingTraps :
    (memory.ctxOf 0).handler = false ∧ fault.cause ∉ [0x13, 0x1A, 0x1F] ∧ ringsEmpty memory ∧ (memory.ctxOf 0).gang = false ∧
    fault.extra.length ≤ 12 ∧ MemInv memory ∧ fault.pages = none ∧ fault.slot < 16 ∧ (handling.ctxOf 0).handler = true ∧
    (∀ i, i < 128 → rangeOf ((amGet Core.reset memory.cores 0).recbase.toNat + i) ≠ .reserved) ∧ fault.cause < 256 ∧
    ({ fault with cause := 0x1A } : Trap).cause ∈ [0x13, 0x1A, 0x1F] ∧
    ∃ s : State, (s.ctxOf 0).gang = true ∧ (s.ctxOf 0).handler = false ∧ (s.ctxOf 60).gang = true ∧ (s.ctxOf 60).handler = false := by
  refine ⟨rfl, by decide, ?_, rfl, by decide, ?_, rfl, by decide, rfl, by decide +kernel, by decide, by decide,
    { State.reset with ctxs := [(0, { Ctx.idle with gang := true }), (60, { Ctx.idle with gang := true })] }, rfl, rfl, rfl, rfl⟩
  · intro p hp; exact absurd hp List.not_mem_nil
  · unfold MemInv; decide +kernel

theorem test_reset : MemInv State.reset ∧ BootInv State.reset := ⟨rfl, fun _ => Or.inr ⟨0, rfl, rfl⟩⟩

/-- Before HBM is zeroed the one step of the module is the units' report (R70). -/
theorem test_boot : exec .hbmZeroComplete State.reset = .next { State.reset with hbmReady := true } := rfl

/-- Words of the header's and slots' checks (Table 8-16): unassigned opcodes, bits that must be zero, reserved codes. -/
theorem test_reserved :
    decodeSlot .s 0xFF00000000000000 = .error .unassigned ∧ decodeSlot .s 0x0F00000000000000 = .error .unassigned ∧
    decodeSlot .v0 0x8000501000002001 = .error .unassigned ∧ decodeSlot .s 0x0080000000000000 = .error .reservedBits ∧
    decodeSlot .s 0x0190A30E00000001 = .error .reservedBits ∧ decodeSlot .y 0x510000000001 = .error .reservedBits ∧
    decodeSlot .v0 0x230028160C068F00 = .error .reservedCode ∧ decodeSlot .v0 0x0100000400000200 = .ok (.vadd yes false .s32 false 0 2 0 0) ∧
    decodeSlot .v0 0x0106000400000200 = .error .reservedCode := by
  refine ⟨rfl, rfl, rfl, rfl, rfl, rfl, rfl, rfl, rfl⟩

/-- Table 8-17's header; a class of 10, a bit above 19 and SAFE without CKPT are illegal headers (R153). -/
theorem test_header :
    (let h := headerOf 0x000DC431
     h.ckpt = true ∧ h.safe = false ∧ h.cls = 0 ∧ h.pv0 = 3 ∧ h.pst = 1 ∧ h.empty = 0xDC ∧ h.rsv = 0) ∧
    decodeBundleWord 0x000FF009 = none ∧ decodeBundleWord 0x001FF001 = none ∧ decodeBundleWord 0x000FF002 = none ∧
    decodeBundleWord 0x000FF001 = some .emptyBundle ∧ decodeTableWord 512 0x000FF001 = some .emptyBundle := by decide +kernel

/-- An ill-formed term for each check of WellFormed, which the check refuses: a bypass code where a field is unused, a
reserved vector code, an accumulator code past 3,071, .i4 in lanes, a shift count of 64, a psqz without PMIN, RET = 0
with a destination, a scope that the fence does not have. -/
theorem test_ill_formed :
    ¬(Instr.aadd yes .s32 false 5 8 9 0).WellFormed ∧ (Instr.aadd yes .s32 false 5 8 9 0).fieldsOk = false ∧
    ¬(Instr.vadd yes false .s32 false 384 1 2 0).WellFormed ∧ (Instr.vadd yes false .s32 false 384 1 2 0).codeOk = false ∧
    ¬(Instr.xav yes 8 3072).WellFormed ∧ (Instr.xav yes 8 3072).codeOk = false ∧
    ¬(Instr.vadd yes false .i4 false 10 1 2 0).WellFormed ∧ ¬(Instr.shli yes 10 5 64).WellFormed ∧
    (Instr.shli yes 10 5 64).rangeOk = false ∧ ¬(Instr.psqz yes false .s32 4 0 10 1 0).WellFormed ∧
    ¬(Instr.fence yes 6).WellFormed ∧ (Instr.shli yes 10 5 63).WellFormed ∧ (Instr.fence yes 5).WellFormed := by decide +kernel

/-- Each row's word as the host numbers its bits: the bundle of Table 8-17 decodes to its first operation, and the bundle
of one halt to halt. -/
theorem test_table_words :
    (encodeBundle (.halt yes)).bind (decodeTableWord 512) = some (.halt yes) ∧
    (encodeBundle (.mcall yes 5)).bind (decodeTableWord 512) = some (.mcall yes 5) := by decide +kernel

/-- The bundle of one add, as encodeBundle writes it. -/
def addBundle : Nat := (encodeBundle (.add yes 10 5 6)).getD 0

/-- That bundle placed where the next step fetches. -/
def placed : State := State.reset.withFetchWord 512 addBundle

/-- The next step runs it, and commits. -/
theorem test_step_add :
    ((match step placed with | .next s => some ((s.ctxOf 0).arch.pc, (s.ctxOf 0).arch.epc) | _ => none) ==
      some (BitVec.ofNat 64 (fetchVa + 64), 0)) = true := by decide +kernel

/-- A placed bundle is what the turn of core 0 fetches, decodes and may issue. -/
theorem test_wit_StepRunsDecoded :
    placed.turn = .core 0 ∧ coreWaits placed 0 = false ∧ ridgeBrake placed 0 = 0 ∧ (rotation placed 0).head? = some 0 ∧
    groupOf placed 0 = some [0] ∧ (placed.ctxOf 0).blocked = false ∧ failedFor placed false 0 = none ∧
    landingLate (placed.ctxOf 0) = false ∧
    (match fetchBundle (freeLandings { placed with cur := 0, issue := .ok, stage := .issue } 0) 0 (nextPc (placed.ctxOf 0)) with
      | .ok s1 x => x == addBundle && (verdictOf { s1 with bundle := headerInfo x (nextPc (placed.ctxOf 0)), cur := 0 } x == .go)
      | _ => false) = true ∧
    usedSlots addBundle = [.s] ∧ (headerInfo addBundle (nextPc (placed.ctxOf 0))).canonical = false ∧
    (headerInfo addBundle (nextPc (placed.ctxOf 0))).ckpt = true ∧
    (decodeSlot .s (slotWord addBundle .s)).toOption = some (.add yes 10 5 6) := by decide +kernel

/-- The same with a plain bundle, which is no checkpoint; and the registers that an operation would consume, poisoned. -/
theorem test_wit_StepRunsDecoded_others :
    (headerInfo (addBundle ^^^ 1) 0).ckpt = false ∧ (verdictOf { State.reset with bundle := headerInfo (addBundle ^^^ 1) 0 } (addBundle ^^^ 1)) = .go ∧
    (let s := memory.setCtx { memory.ctx with arch := { memory.ctx.arch with poison := [memory.ctx.markP 1, 5040] } }
     s.stage = .issue ∧ anyGuard (.add ⟨false, 1⟩ 10 5 6) = some ⟨false, 1⟩ ∧ s.ctx.markP 1 ∈ s.ctx.arch.poison ∧
     anyGuard (.ldc yes 0 5 1) = some yes ∧ s.guardOn yes = true ∧ (5040 : Nat) ∈ sideReads s (.ldc yes 0 5 1) ∧
     (5040 : Nat) ∈ s.ctx.arch.poison) ∧
    (encode (.add ⟨false, 1⟩ 10 5 6)).isSome = true ∧ (encode (.ldc yes 0 5 1)).isSome = true := by decide +kernel

/-- What an operation makes of a poisoned guard: the Machine Check, but its own Illegal Operation where its window does not hold
the tile, whatever the guard (R164, R165). -/
theorem test_poisoned_guard :
    (let s := poisoned (matrix.ctx.markP 1) matrix
     after (execOp (.add ⟨false, 1⟩ 10 5 6) s) (fun t => match t.issue with | .trapped x _ => x | _ => 0) = some 0x20 ∧
     after (execOp (.stq ⟨false, 1⟩ 6 2) s) (fun t => match t.issue with | .trapped x f => (x, f.toNat) | _ => (0, 0)) =
       some (1, 0x0E05)) := by decide +kernel

theorem test_wit_RoundTrips :
    encode (.add ⟨true, 2⟩ 5 6 7) = some (.s, 0x0190A30E00000000) ∧ (Instr.add ⟨true, 2⟩ 5 6 7).WellFormed ∧
    encode (.halt yes) = some (.y, 0x510000000000) ∧ (Instr.halt yes).WellFormed := ⟨rfl, by decide, rfl, by decide⟩

/-! ### Events -/

/-- A write of four bytes, the first of lane 0, from this module to module 9. -/
def request : FabOut :=
  { ctx := 0, eng := 6, num := 0, access := 0, req := { src := Config.moduleNumber.toNat, dest := 9, lane := 0, seq := 1, act := .write 0x40 [1, 2, 3, 4] } }

/-- That request is under way, and context 0 waits so. -/
def unperformed (w : Wait) : State :=
  { memory.setCtx { memory.ctx with wait := w } with fabric := { Fabric.reset with out := [request] } }

/-- A copy that no engine has accepted. -/
def offered : State := nextOr memory (exec (.xcopy yes 63 4 6) (atCommit memory))

/-- A store of context 0 to a device page of another module, not yet acknowledged. -/
def deviceStoring : State := { memory with devOut := [⟨0, 0x100000000000, 8, 5⟩] }

/-- Each thing that an invalidation waits for, in the ranges it dropped and outside them; and what a fence waits for. -/
theorem test_wit_ContextEvents :
    (memory.ctxOf 0).life = .running ∧
    stillToPerform deviceStoring 0 0 [(0x100000000000, 65536)] = true ∧ stillToPerform deviceStoring 0 0 [(0x200000, 65536)] = false ∧
    (∀ d ∈ deviceStoring.devOut, ctxInScope 0 0 d.ctx = true ∧ inRanges [(0x100000000000, 65536)] d.pa d.n = true ∧ d.ctx = 0) ∧
    (∀ o ∈ (unperformed .none).fabric.out, ctxInScope 0 0 o.ctx = true ∧ reachable (unperformed .none) o.req.dest = true ∧
      ∃ y ∈ fabSpans o.req, inRanges [(0xC000000000000 + o.req.dest * 2 ^ 40, 65536)] y.1 y.2 = true) ∧
    (let s := memory.setCtx { memory.ctx with withheld := [.store [(0x200000, 1)]] }
     (∀ p ∈ s.ctxs, p.2.withheld.flatMap WithheldOp.lines = [0x8000] ∧ p.1 < 2 ^ 20 ∧ ctxInScope 16 4 p.1 = true ∧
       stuckBehind s (16 / 4) (p.1 / 4) = false) ∧ inRanges [(0x200000, 65536)] (64 * 0x8000) 64 = true) ∧
    ((memory.setCtx { memory.ctx with wait := .fence true 64 }).ctxOf 0).wait = .fence true 64 ∧ memory.fabric.out = [] ∧
    ((unperformed (.fence true 64)).fabric.out.filter fun o => o.ctx == 0 && (o.eng == 7 || (true && o.eng == 6))) = [request] ∧
    (let s := unperformed (.fence true 64)
     reachable { s with fabric := { s.fabric with unreachable := [9] } } request.req.dest = false) ∧
    ((cmdOf offered 0 0 1).map fun k => k.accepted) = some false := by
  refine decided4 (by decide +kernel) <| decided4 (by decide +kernel) ⟨rfl, by decide +kernel, by decide +kernel⟩

/-- The last bytes of a tile arrive: it is ready; a drain of a clean tile ends with the tile empty (R53, R54). -/
theorem test_tiles :
    (let s := stashing.setTile 0 { StashTile.empty with state := .filling, present := BitVec.allOnes 64 ^^^ 1 }
     after (exec (.stashLineFill 0 0 0) s) (fun t => (t.tile 0).state) = some .ready ∧
     after (exec (.stashLineFill 0 0 1) s) (fun t => (t.tile 0).state) = some .filling ∧
     after (exec (.stashDrainComplete 0 1) (stashing.setTile 1 { stashing.tile 1 with state := .draining })) (fun t => (t.tile 1).state) =
       some .empty) := by decide +kernel

/-- A rule step of one generation on tile 1 whose lines have come. -/
def ruling : State :=
  stashing.setTile 1 { stashing.tile 1 with
    gen := 1, state := .filling, rule := some { order := 0, mode := 2, chk := false, bnd := 1, fix := 0, table := 0 } }

/-- A walk of address 0 through the tables placed with A and D clear. -/
def walkOf (write : Bool) : WalkReq := { asid := 0, ttb := 0x10000, va := 0, write := write }

/-- The leaf with A and D clear. -/
def untouched : State := { memory with mem := memWrite memory.mem 0x30000 (leBytes 8 0x1C03) }

theorem test_walks :
    after (exec (.tableWalk (walkOf false)) untouched) (fun t => memNat t.mem 0x30000 8) = some 0x1D03 ∧
    after (exec (.tableWalk (walkOf true)) untouched) (fun t => memNat t.mem 0x30000 8) = some 0x1D83 ∧
    after (exec (.tableWalk { walkOf true with va := 0x40000000 }) untouched) (fun t => memNat t.mem 0x30000 8) = some 0x1C03 := by
  decide +kernel

/-- Accumulator tile 5 of core 0 lies in the window of context 0 alone. -/
def windowed : State := labWith fun c => { c with awinBase := 4, awinCount := 4 }

theorem test_wit_UnitsOfACore :
    (stashing.tile 1).state ≠ .empty ∧ (stashing.tile 0).state = .empty ∧
    (let s := stashing.setTile 1 { stashing.tile 1 with state := .draining }
     (s.tile 1).state = .draining ∧ (s.tile 1).rule = none ∧ ∀ l, l < 64 → fillPending s 1 l = false) ∧
    ((ruling.tile 1).rule.map fun st => st.bnd.toNat) = some 1 ∧ (ruling.tile 1).state ≠ .empty ∧
    (∀ p ∈ ruling.stash, p.1 / 512 = 1 / 512 → p.1 ≠ 1 → ∀ r, p.2.rule = some r → 0 ≤ r.order) ∧
    ruling.storeHeld (some 0) (cellsAt 0x201000 (List.replicate 4096 0)) = false ∧ ruling.poison = [] ∧
    ((walk untouched.mem untouched.poison 0x10000 0).toOption.map fun l =>
      leafFault { asid := 0, ttb := 0x10000, handler := true, phased := false, ctx := none } .scalarStore true false l 0) = some none ∧
    ((walk memory.mem memory.poison 0x10000 0x40000000).toOption = none) ∧
    poisonedReg (.vector 0 383) = some (0, 383) ∧ poisonedReg (.tile 0 7) = some (0, 391) ∧
    poisonedReg (.scalar 0 63) = some (0, 455) ∧ poisonedReg (.scalar 0 79) = some (0, 4159) ∧ poisonedReg (.scalar 0 0) = none ∧
    (∀ i, i < 4 → (i = 0 ↔ let x := windowed.ctxOf (4 * 0 + i)
      x.life ≠ .idle ∧ x.awinBase ≤ 5 ∧ 5 < x.awinBase + x.awinCount)) := by
  refine decided5 (by decide +kernel) ⟨?_, by decide +kernel⟩
  intro p _ _ _ r _; exact Nat.zero_le _

/-- Context 4, rank 1 of a gang that is parked whole. -/
def parkedGang : State :=
  { State.reset with ctxs := (upto 16).map fun k => (4 * k, { Ctx.idle with gang := true, parked := true }) }

theorem test_wit_ControlRegisterSteps :
    (memory.ctxOf 0).parked = false ∧ (memory.ctxOf 0).handler = false ∧ (handling.ctxOf 0).handler = true ∧
    (handling.ctxOf 0).gang = false ∧
    (let s := memory.setCtx { memory.ctx with parked := true }
     (s.ctxOf 0).parked = true ∧ (s.ctxOf 0).gang = false) ∧
    ((parkedGang.ctxOf 4).parked = true ∧ (parkedGang.ctxOf 4).gang = true ∧ 4 % 64 ≠ 0) ∧
    ((parkedGang.ctxOf 0).parked = true ∧ (parkedGang.ctxOf 0).gang = true ∧ (60 : Nat) ∈ gangOf 0 ∧
      ∀ k ∈ gangOf 0, (parkedGang.ctxOf k).unmapped = []) ∧
    (let s := parkedGang.setCtxOf 4 { parkedGang.ctxOf 4 with parked := false, handler := true }
     (s.ctxOf 4).handler = true ∧ (s.ctxOf 4).gang = true) ∧
    (forwardEntry handling (handling.ctxOf 0).arch.asid.toNat (handledEntry handling 0)).2 = true ∧
    (forwardEntry { handling with rings := [(0, { Ring.reset with cfg := 0x8000000000400004 })] } (handling.ctxOf 0).arch.asid.toNat
      (handledEntry handling 0)).2 = false ∧
    (let s := { memory.setCtx { memory.ctx with preempt := some 0 } with parts := [(0, { Partition.reset with cfg := 5 })], wall := 6 }
     (s.ctxOf 0).life = .running ∧ (s.ctxOf 0).preempt = some 0 ∧ (s.ctxOf 0).atSafe = false ∧
     bitsOf (amGet Partition.reset s.parts (s.ctxOf 0).part).cfg.toNat 0 32 = 5 ∧ (5 : Nat) < s.wall - 0) := by
  decide +kernel

/-- The handler's own PARK parks the task; ERESUME lets a paused copy go on; SAVE asks once (R290, R303). -/
theorem test_control_registers :
    after (exec (.park 0) handling) (fun t => ((t.ctxOf 0).parked, (t.ctxOf 0).handler)) = some (true, false) ∧
    after (exec (.save 0) { memory with wall := 9 }) (fun t => (t.ctxOf 0).preempt) = some (some 9) ∧
    after (exec (.eresume 0) (withCmd copying fun k => { k with paused := true })) (fun t => t.work.getLast?) = some (some (.copyPoint 0 1)) ∧
    after (exec (.resume 0) (memory.setCtx { memory.ctx with parked := true, arch := { memory.ctx.arch with epc := 0x47 } }))
      (fun t => ((t.ctxOf 0).parked, (t.ctxOf 0).arch.pc)) = some (false, 0x40) := by decide +kernel


/-! ### Tasks, launches, images -/

/-- The record of one task at address 0x100000, GBLK absent; word 8 given. -/
def oneTask (w8 : Nat) : List Byte :=
  leBytes 8 0x100000 ++ leBytes 8 w8 ++ List.replicate 48 0 ++ leBytes 8 (1 + 2 ^ 36) ++ List.replicate 184 0

/-- The launch of that record in queue 5. -/
def oneLaunch (w8 : Nat) : Launch :=
  { newLaunch State.reset 5 0x8000 (oneTask w8) (.front 0 6000 1) 0 7 0x10000 with started := true }

/-- The launch waits in its queue and nothing runs. -/
def dispatchable : State :=
  { State.reset with hbmReady := true, queues := [(5, { LaunchQueue.reset with cfg := 1, items := [.launch 3] })],
                     launches := [(3, oneLaunch 0)], nextLaunch := 4 }

/-- The record is accepted in partition 0 (R124, R278), and the task starts on context 0 (R286, R288). -/
theorem test_dispatch :
    recordOk dispatchable 0 (oneTask 0) = true ∧
    after (exec (.partitionSelection 0) dispatchable) (fun t => let c := t.ctxOf 0
      ((t.launchOf 3).tasks.map (·.state), c.arch.pc, c.arch.asid, c.life, (t.lq 5).items.length)) =
      some ([TaskState.placed 0], 0x100000, 7, .running, 0) := by decide +kernel

theorem test_wit_Dispatching :
    State.reset.hbmReady = false ∧ dispatchable.hbmReady = true ∧ readyQueues dispatchable 0 = [5] ∧ readyQueues dispatchable 1 = [] ∧
    (dispatchable.lq 5).items = .launch 3 :: [] ∧ nextInstance (dispatchable.launchOf 3) = [⟨0, [0], 0, 0, .unplaced⟩] ∧
    (spotsFor dispatchable [] 0 3).map (fun ps => ps.map fun p => (p.ctx, p.awin, p.swin)) = some [(0, 0, 0)] ∧
    freeSlot dispatchable = some 0 ∧ slotsFor dispatchable 3 = true ∧ staleObject dispatchable (dispatchable.launchOf 3) = false ∧
    (dispatchable.launchOf 3).started = true ∧
    (let s := dispatchable.modLaunch 3 fun l => { l with started := false }
     (s.launchOf 3).started = false ∧ neverFits s 0 3 = false ∧ staleObject s (s.launchOf 3) = false ∧
     (match snapshotRead s (s.launchOf 3) with
     | .ok _ bs ds => (bs.length, ds.length)
     | _ => (0, 0)) = (128, 64)) := by decide +kernel

/-- Context 0 is halting and holds task 0 of launch 3, in slot 0. -/
def halting : State :=
  let s := { dispatchable with launches := [(3, { oneLaunch 0 with tasks := [⟨0, [0], 0, 0, .placed 0⟩] })],
                               slots := [(0, { TSlot.free with held := true, gen := 255 })] }
  s.setCtxOf 0 { Ctx.idle with life := .halting, launch := 3, swinCount := 1 }

/-- The last task halts: the context is idle, GEN moves on, the launch completes (R86, R276). -/
theorem test_halt :
    after (exec (.taskHaltComplete 0) halting) (fun t => ((t.ctxOf 0).life, (amGet TSlot.free t.slots 0).gen,
      (t.launchOf 3).complete, (t.timeline 6000 5).count)) = some (.idle, 0, true, 1) := by decide +kernel

/-- A phased launch whose two tasks, on contexts 0 and 4, have ended their part in phase 0. -/
def merging : State :=
  let line := fun (n : Nat) (m : BitVec 64) (x : BitVec 512) =>
    { Ctx.idle with life := .running, phased := true, phaseDone := true, launch := 3, task := n,
                    writeSet := [{ line := 0x8000, mask := m, data := x, kind := .plain, tag := none }] }
  { dispatchable with
    launches := [(3, { oneLaunch 0x800000000000 with tasks := [⟨0, [0], 0, 0, .placed 0⟩, ⟨1, [1], 0, 1, .placed 4⟩] })]
    ctxs := [(0, line 0 1 0x11), (4, line 1 4 0x220000)] }

/-- The sets of two tasks merge into one line, and the next phase begins on it (R114, R117). -/
theorem test_merge :
    after (exec (.phaseMerge 3) merging) (fun t => (memNat t.mem 0x200000 4, (t.launchOf 3).phase, (t.ctxOf 4).phase,
      (t.ctxOf 0).phaseDone)) = some (0x220011, 1, 1, false) := by decide +kernel

theorem test_wit_TaskEnds :
    (memory.ctxOf 0).life ≠ .halting ∧ (halting.ctxOf 0).life = .halting ∧ (halting.ctxOf 0).cmds = [] ∧ windowTiles halting 0 = [] ∧
    (halting.ctxOf 0).phased = false ∧
    windowTiles (halting.setTile 0 { StashTile.empty with state := .ready }) 0 = [0] ∧
    ((halting.setCtxOf 0 { halting.ctxOf 0 with cmds := (copying.ctxOf 0).cmds }).ctxOf 0).cmds.map (fun k => decide (k.eng < 4)) = [true] ∧
    (let s := halting.setCtxOf 0 { halting.ctxOf 0 with phased := true }
     (s.ctxOf 0).phased = true ∧ (s.ctxOf 0).phase = (s.launchOf (s.ctxOf 0).launch).phase) ∧
    (∀ p ∈ halting.ctxs, p.2.life ≠ .ending) ∧
    mergeReady merging 3 = true ∧ mergeReady dispatchable 3 = false ∧ noHolds merging ∧ ringsEmpty merging ∧ MemInv merging ∧
    ((launchCtxs merging 3).map Prod.fst).Nodup ∧
    (let sets := (launchCtxs merging 3).map fun p => (p.1, p.2, (merging.ctxOf p.1).writeSet)
     (mergeSets sets [] []).2 = [] ∧ sets.length = 2 ∧ ∀ p ∈ sets, ∀ w ∈ p.2.2, w.kind = .plain) := by
  unfold noHolds ringsEmpty MemInv
  decide +kernel

/-- Context 0, asked to save, stands after a safe bundle in launch 3. -/
def saving : State :=
  let s := { dispatchable with launches := [(3, { oneLaunch 0 with tasks := [⟨0, [0], 0, 0, .placed 0⟩] })],
                               queues := [(5, { LaunchQueue.reset with cfg := 1 })] }
  s.setCtxOf 0 { Ctx.idle with
    life := .running, launch := 3, preempt := some 0, atSafe := true, swinCount := 2
    arch := { Arch.zero with pc := 0x100040, s := { vals := [(9, 0x99)], pend := [] } } }

/-- Its image. -/
def savedImage : State := nextOr saving (exec (.contextSave 0) saving)

theorem test_save_and_restore :
    ((savedImage.ctxOf 0).life, (savedImage.lq 5).items, (savedImage.launchOf 3).tasks.map (·.state)) =
      (Life.idle, [QItem.image 0], [TaskState.saved 0]) ∧
    after (exec (.contextRestore 0 (some 8)) savedImage) (fun t => let c := t.ctxOf 8
      (c.arch.pc, c.arch.s.vals, c.life, (t.lq 5).items.length, (t.launchOf 3).tasks.map (·.state))) =
      some (0x100040, [(9, 0x99)], .running, 0, [TaskState.placed 8]) := by decide +kernel

theorem test_wit_SaveAndRestore :
    (saving.ctxOf 0).gang = false ∧ (saving.ctxOf 0).atSavePoint = true ∧ saveQuiet saving 0 = true ∧ (saving.ctxOf 0).phased = false ∧
    (memory.ctxOf 0).atSavePoint = false ∧
    (amFind savedImage.images 0).map (fun i => (i.feature, i.arith, i.latency, i.tiles.map (·.state))) =
      some (4, 1, 1, [.empty, .empty]) ∧
    (savedImage.ctxOf 8).life = .idle ∧
    (let y := savedImage.ctxOf (2 ^ 20 + 0)
     (fitTask { awin := y.awinCount, swin := y.swinCount, wstiles := y.wstiles, gang := y.gang } (takenOn savedImage [] (8 / 4))).isSome = true) ∧
    (let y := savedImage.ctxOf (2 ^ 20 + 0)
     recNbar (savedImage.launchOf y.launch).record = 0 ∧ y.cmds = [] ∧ launchesOpen savedImage y.slot = false ∧
     ((savedImage.launchOf y.launch).tasks.filter fun v => v.id = y.task).map (·.state) = [.saved 0]) ∧
    (amFind savedImage.images 0).map (fun i => (i.foreign.isNone, i.ridge)) = some (true, 0) ∧
    ∃ img : Image, 4 < img.feature ∨ img.arith ≠ 1 ∨ img.latency ≠ 1 := by
  refine ⟨rfl, by decide +kernel, by decide +kernel, rfl, by decide +kernel, ?_, by decide +kernel, by decide +kernel,
    by decide +kernel, by decide +kernel,
    { tiles := [], ridge := 0, feature := 5, arith := 1, latency := 1, atCkpt := false, parked := false, foreign := none }, .inl (by decide)⟩
  decide +kernel


/-! ### Collectives, units, fabric -/

/-- No store waits when no context has rolled back three times. -/
theorem not_held (s : State) (b : Option Nat) (h : s.ctxs.all (fun p => decide (p.2.rollbacks < 3)) = true) (cells : List (Nat × Byte)) :
    s.storeHeld b cells = false := by
  refine Bool.eq_false_iff.mpr fun he => ?_
  obtain ⟨p, hp, hq⟩ := List.any_eq_true.mp he
  have h3 := of_decide_eq_true (List.all_eq_true.mp h p hp)
  simp only [holdsLine, Bool.and_eq_true, decide_eq_true_eq] at hq
  omega

/-- The state and pages of a translation, when every page translates. -/
theorem all_pages (s : State) (x : Xlat) (ps : List (Nat × Nat)) (h : (translatePages s x .engine true false ps [] []).2.2 = []) :
    translatePages s x .engine true false ps [] [] = ((translatePages s x .engine true false ps [] []).1,
      (translatePages s x .engine true false ps [] []).2.1, []) := Prod.ext rfl (Prod.ext rfl h)

/-- A descriptor of one tile from 0x202000 to 0x204000, of FP32 or of SB3 blocks by plane with a counter at 0x206000. -/
def message (plane : Bool) : List Byte :=
  leBytes 8 (2 ^ 32 + if plane then 2 ^ 28 + 7 * 2 ^ 24 else 0) ++ leBytes 8 0x202000 ++ leBytes 8 0x204000 ++ leBytes 8 1 ++
    leBytes 8 (if plane then 0x206000 else 0) ++ List.replicate 24 0

/-- The member, collective and command of that broadcast of one member. -/
def oneMember (plane : Bool) : CollMember := ⟨0, 0, 1, 0, message plane, 1, [], [], [], [], [], false⟩
def oneCollective (plane : Bool) : Collective :=
  { launch := 0, tag := 1, kind := 0, level := 0, coords := [0], size := 1, pair := (0, 0), members := [oneMember plane],
    away := 0, differs := false }
def oneCmd : Cmd := newCmd memory 2 1 (.collective 0)

/-- The member has issued. -/
def broadcasting (plane : Bool) : State :=
  { memory.setCtx { memory.ctx with cmds := [oneCmd] } with colls := [(0, oneCollective plane)], tlb := [] }

/-- The command's commit makes that collective, and the event of its tile. -/
theorem test_broadcast :
    (let s := memory.setCtx { memory.ctx with levels := [(1, 0)], resolved := [⟨6, 0x20, 0x200000, .coherent⟩] }
     went (exec (.xbcast yes 4) (atCommit (noteBytes s 6 (message false)))) (fun t =>
       (t.colls, t.work.getLast?))) = some ([(0, oneCollective false)], some (.collectiveDelivery 0 0 0)) := by decide +kernel

theorem wit_tile_open (plane : Bool) :
    TileOpen (broadcasting plane) 0 0 0 (oneCollective plane) (oneMember plane) oneCmd := by
  cases plane <;> constructor <;> decide +kernel

theorem wit_engine_writes (s : State) (m : CollMember) (c : Cmd) (rs : List (Nat × Nat))
    (h : (translatePages s (cmdXlat s m.ctx c) .engine true false (distinctPages (rs.flatMap fun r => rangePages r.1 r.2) []) [] []).2.2 = [])
    (hn : (rs.all fun r => (physCells (translatePages s (cmdXlat s m.ctx c) .engine true false
      (distinctPages (rs.flatMap fun r => rangePages r.1 r.2) []) [] []).2.1 r.1 (List.replicate r.2 0)).all
        fun x => decide (rangeOf x.1 ≠ .fabric)) = true) :
    ∃ u pages, EngineWrites s m c rs u pages :=
  ⟨_, _, all_pages _ _ _ h, fun r h1 x h2 => of_decide_eq_true (List.all_eq_true.mp (List.all_eq_true.mp hn r h1) x h2)⟩

/-- The same collective of members that do not agree. -/
theorem wit_tile_differs (plane : Bool) :
    ({ oneCollective plane with differs := true } : Collective).alike = false ∧
    TileOpen { broadcasting plane with colls := [(0, { oneCollective plane with differs := true })] } 0 0 0
      { oneCollective plane with differs := true } (oneMember plane) oneCmd := by
  refine ⟨by cases plane <;> decide +kernel, ?_⟩
  cases plane <;> constructor <;> decide +kernel

/-- One plane of the tile has landed. -/
def landed : State := modMember (broadcasting true) 0 0 0 fun x => { x with prec := [(0, 1)], data := [(0, [])] }

theorem test_wit_CollectiveEvents :
    (∃ v ts, collRead (broadcasting true) ((oneCollective true).sources (oneMember true) 0) = .ok v ts) ∧
    descPlane (oneMember false).desc = false ∧ descPlane (oneMember true).desc = true ∧ 0 < descMag (oneMember true).desc ∧
    amGet 0 (oneMember true).prec 0 = 0 ∧ amFind (oneMember true).data 0 = none ∧
    (∃ u pages, EngineWrites (broadcasting true) (oneMember true) oneCmd
      [(destAddr (oneMember true) 0, dstBytes (oneMember true).desc), (counterAddr (oneMember true) 0, 8)] u pages) ∧
    descPlane (message false) = false ∧ descFmt (message false) < 2 ∧
    ((amFind landed.colls 0).bind fun k => (k.members.find? fun m => m.rank == 0 && m.kind ≠ 2).map fun m =>
      (k.full && k.alike, m.done, amFind m.data 0, amGet 0 m.prec 0)) = some (true, [], some [], 1) := by
  refine ⟨?_, decided5 (by decide +kernel) ⟨?_, by decide +kernel⟩⟩
  · have h : (match collRead (broadcasting true) ((oneCollective true).sources (oneMember true) 0) with
      | .ok _ _ => true | _ => false) = true := by decide +kernel
    split at h
    · next v ts he => exact ⟨v, ts, he⟩
    · exact absurd h (by decide)
  · exact wit_engine_writes _ _ _ _ (by decide +kernel) (by decide +kernel)


/-- Reduction 1 of slot 0 over two buffers of 20 integers, at its unit when arrived. -/
def reducing (arrived : Bool) (status line : Nat) : State :=
  let block := leBytes 8 0x11 ++ leBytes 8 20 ++ leBytes 8 0x210000 ++ leBytes 8 0x220000 ++ leBytes 8 0x200000 ++ leBytes 8 0x200100 ++
    List.replicate 144 0
  let ops : List (List Nat) := if arrived then [[0x200000], [0x200000]] else []
  let res : List Nat := if arrived then [0x210000] else []
  let r : Reduction := ⟨0, 1, block, 8, ops, res, 0x220000, line, status, arrived⟩
  let s := memory.setCtx { memory.ctx with cmds := [newCmd memory 3 1 (.reduce block)] }
  { s with reductions := [r], tlb := [] }

/-- The first line sums the operands' elements; the second line ends at COUNT; then the flag takes STATUS (R93, R94). -/
theorem test_reduction :
    blockFormat (((reducing true 1 0).reductions.getD 0 ⟨0, 0, [], 0, [], [], 0, 0, 0, false⟩).block) = true ∧
    memNat (nextOr memory (exec (.msuReductionLine 8) (reducing true 1 0))).mem 0x210000 4 = 0x80FF01FE ∧
    memNat (nextOr memory (exec (.msuReductionLine 8) (reducing true 1 2))).mem 0x220000 8 = 1 ∧
    after (exec (.mredArrival 8192) (reducing false 0 0)) (fun t => t.reductions.map (·.status)) = some [4] := by decide +kernel

theorem test_wit_UnitEvents :
    ((reducing false 0 0).reductions.find? fun q => q.slot + 8192 * q.num == 8192 && !q.arrived).isSome = true ∧
    slotCtx (reducing false 0 0) 0 = some 0 ∧ (cmdOf (reducing false 0 0) 0 3 1).isSome = true ∧
    noHolds (reducing true 1 0) ∧ ringsEmpty (reducing true 1 0) ∧ MemInv (reducing true 1 0) ∧
    ((reducing true 1 0).reductions.map fun r => (r.status, decide (r.line < blockLines r.block), reducePoison (reducing true 1 0) r r.line)) =
      [(1, true, none)] ∧
    ((reducing true 1 2).reductions.map fun r => (decide (blockLines r.block ≤ r.line), slotCtx (reducing true 1 2) r.slot)) =
      [(true, some 0)] ∧ ((reducing true 1 2).ctxOf 0).slot = 0 ∧ stackOf 0x200000 = 8 ∧
    (let s := copying.setCtxOf 0 { copying.ctxOf 0 with spill := [(1, 0x200040, [1, 2])] }
     ((cmdOf s 0 0 1).map fun k => ((s.ctxOf 0).spill.length, (translatePages s (cmdXlat s 0 k) .engine true false (rangePages 0x200040 2) [] []).2.2,
       (translatePages s (cmdXlat s 0 k) .engine true false (rangePages 0x200040 2) [] []).1.ctxs.all fun p => decide (p.2.rollbacks < 3))) =
       some (1, [], true)) := by
  unfold noHolds ringsEmpty MemInv
  decide +kernel

/-- A write of module 9 to this module, the next of its lane. -/
def arriving : FabReq := { src := Config.moduleNumber.toNat + 1, dest := Config.moduleNumber.toNat, lane := 0, seq := 1, act := .write 0x40 [1, 2, 3, 4] }

/-- The request is an access of its own. -/
theorem alone : togetherWith (unperformed .none) request.req = [request.req] := by
  have h : (unperformed .none).fabric.out = [request] := rfl
  simp [togetherWith, h]

/-- Two lines of one access on one lane: R84's lanes of 0x40 and 0x40000 are 1 both. They take their place together. -/
def sameLane : State :=
  { memory with fabric := { Fabric.reset with out := (upto 2).map fun k =>
      { ctx := 0, eng := 6, num := 0, access := 0,
        req := { src := 5, dest := 9, lane := 1, seq := k + 1, act := .writes [(if k = 0 then 0x40 else 0x40000, 7)] } } } }

theorem test_same_lane :
    fabLane 0xC090000000040 = fabLane 0xC090000040000 ∧
    (sameLane.fabric.out.map fun o => (performOwn sameLane o.req).fabric.performedAt) = [[(16 * 9 + 1, 2)], [(16 * 9 + 1, 2)]] := by
  decide +kernel

theorem test_wit_FabricEvents :
    request ∈ (unperformed .none).fabric.out ∧ reachable (unperformed .none) request.req.dest = true ∧ togetherWith (unperformed .none) request.req = [request.req] ∧
    request.req.seq = amGet 0 (unperformed .none).fabric.performedAt (16 * request.req.dest + request.req.lane) + 1 ∧
    request.req ∈ togetherWith (unperformed .none) request.req ∧
    ((togetherWith (unperformed .none) request.req).Pairwise fun p q => 16 * p.dest + p.lane = 16 * q.dest + q.lane → p.seq < q.seq) ∧
    (∀ o ∈ memory.fabric.out, o.req ≠ arriving) ∧ arriving.dest = Config.moduleNumber.toNat ∧ arriving.src ≠ Config.moduleNumber.toNat ∧
    arriving.seq = amGet 0 memory.fabric.seen (16 * arriving.src + arriving.lane) + 1 ∧ arriving.act = .write 0x40 [1, 2, 3, 4] ∧
    (5 : Nat) ∉ memory.fabric.failedLinks ∧
    ((unperformed .none).fabric.out.find? fun p => p.req.dest == request.req.dest && p.req.lane == request.req.lane).map FabOut.req =
      some request.req ∧
    (let s := (unperformed .none).setCtxOf 0 { memory.ctxOf 0 with
       landings := [{ id := 0, due := 9, arrived := false, asks := [⟨0, 0, 0, 4, 0xC090000000040, 9, 0, 1⟩], known := [], form := .scalar 64 false, atomic := false }] }
     let t : State := { s with fabric := { s.fabric with performedAt := [(16 * 9, 1)], results := [(Config.moduleNumber.toNat, 16 * 9, 1, some 7)] } }
     (1 : Nat) ≤ amGet 0 t.fabric.performedAt (16 * 9 + 0) ∧ reachable t 9 = true ∧
     (t.fabric.out.filter fun o => decide (o.req.dest = 9 ∧ o.req.lane = 0 ∧ o.req.seq = 1)) = [request] ∧
     (t.ctxOf 0).landings.map (fun l => (l.asks, l.bad)) = [([⟨0, 0, 0, 4, 0xC090000000040, 9, 0, 1⟩], none)] ∧
     t.fabric.results = [(Config.moduleNumber.toNat, 16 * 9, 1, some 7)]) := by
  refine ⟨List.mem_cons_self, rfl, alone, by decide, alone ▸ List.mem_cons_self, alone ▸ List.pairwise_singleton _ _, ?_, rfl, Nat.succ_ne_self _, rfl, rfl, List.not_mem_nil, rfl,
    by decide, rfl, rfl, by decide, rfl⟩
  intro o ho; exact absurd ho List.not_mem_nil

/-- Ring 2 with this register, one record held, and this stage. -/
def ringing (cfg : Word) (stage : Nat) : State :=
  { memory with rings := [(2, { Ring.reset with cfg := cfg, held := [⟨List.replicate 256 1, none⟩], stage := stage })] }

/-- A span of context 0 that has rolled back three times and has read the line at 0x200000. -/
def heldSpan : State := memory.setCtx { memory.ctx with rollbacks := 3, spanReads := [(0x200000, 4, true)] }

/-- A host's store to a held line, and one beside it; a unit's atomic on a clean line and on a poisoned one. -/
theorem test_wit_outside :
    holderOf heldSpan (nextOr memory (exec (.hostMemoryWrite 0x200000 [1]) heldSpan)) [] = some 0 ∧
    holderOf heldSpan (nextOr memory (exec (.hostMemoryWrite 0x200040 [1]) heldSpan)) [] = none ∧
    actPoison id memory (.atomic 0 .z64 0x200000 1 0) = none ∧
    actPoison id { memory with poison := [0x8000] } (.atomic 0 .z64 0x200000 1 0) = some 0x8000 ∧
    actPoison id { memory with poison := [0x8000] } (.read 0x200010 4) = some 0x8000 ∧
    memNat (nextOr memory (exec (.msuAccess { stack := 8, act := .atomic 0 .z64 0x200000 1 0 }) { memory with poison := [0x8000] })).mem
      0x200000 8 = memNat memory.mem 0x200000 8 := by decide +kernel

theorem test_wit_HostEvents :
    noHolds memory ∧ heldSpan.storeHeld none (cellsAt 0x200020 [1]) = true ∧ heldSpan.storeHeld none (cellsAt 0x200040 [1]) = false ∧
    (deviceWord memory 0x1000A1000280).isSome = true ∧ deviceWord memory (0x1000F0000000 / 8 * 8) = none ∧
    (let s := ringing 0x8000000000400004 0
     (amGet Ring.reset s.rings 2).held = [⟨List.replicate 256 1, none⟩] ∧ 0x400000 + 256 * (1 + 16) ≤ 2 ^ 40 ∧
     (amGet Ring.reset s.rings 2).cfg.getLsbD 63 = true ∧ (amGet Ring.reset s.rings 2).tail - memNat s.mem 0x400008 8 < 16) ∧
    (let s := ringing 0x400004 0
     (amGet Ring.reset s.rings 2).cfg.getLsbD 63 = false) ∧
    (let s := ringing 0x800C090000400004 1
     bitsOf (amGet Ring.reset s.rings 2).cfg.toNat 12 40 * 4096 = 0xC090000400000 ∧ (amGet Ring.reset s.rings 2).stage = 1 ∧
     reachable s (bitsOf 0xC090000400000 40 10) = true ∧ ringPending s (amGet Ring.reset s.rings 2) = false) ∧
    ((memory.setCtx { memory.ctx with tokenWait := some (7, false) }).ctxOf 0).tokenWait = some (7, false) ∧
    (amGet TokenQueue.reset memory.tokens 0).en = false ∧ (amGet TokenQueue.reset meeting.tokens 7).en = true ∧
    (amGet TokenQueue.reset meeting.tokens 7).entries.length ≤ (amGet TokenQueue.reset meeting.tokens 7).depth.toNat := by
  unfold noHolds
  decide +kernel

/-- AGE stored whole; a narrow store of it keeps the other bytes (R79); a held record is written once the ring is enabled
(R306); a token queue whose depth is too small stays disabled (R101). -/
theorem test_registers :
    after (exec (.registerWrite 0x1000A1000280 8 5) memory) (·.age) = some 5 ∧
    after (exec (.registerWrite 0x1000A1000281 1 0xFF) memory) (·.age) = some 0x10FF00 ∧
    after (exec (.ringEnable 2) (ringing 0x400004 0)) (fun t => let u := ringStep t 2
      (memNat u.mem 0x400000 8, memNat u.mem 0x400100 1)) = some (1, 1) ∧
    after (exec (.tokenQueueEnable 3 15 1) memory) (fun t => (amGet TokenQueue.reset t.tokens 3).en) = some false ∧
    after (exec (.tokenQueueEnable 3 16 1) memory) (fun t => (amGet TokenQueue.reset t.tokens 3).en) = some true ∧
    after (exec (.registerWrite 0x1000F0000000 8 5) memory) (fun t => decide (t = memory)) = some true := by decide +kernel

/-! ### Trust, the front end -/

/-- An object of one text section, the page at 2^55, whose header is empty but for a body of these bytes. -/
def anObject (body : List Byte) : BmoObject :=
  { bytes := leBytes 24 (body.length * 2 ^ 160) ++ List.replicate 232 0 ++ body, relocs := [], kernels := [], points := [],
    sections := [{ kind := .text, off := 0, len := body.length, base := 2 ^ 55, frames := [] }], asid := 0, ttb := 0x10000, native := none }

/-- An object of a body of one byte is loaded under number 0. -/
def withObject : State :=
  { memory with trust := { Trust.reset with objects := [(0, { obj := anObject [1], svn := 0, resident := [], native := false })] } }

/-- The digest of "abc" (FIPS 180-4), its bytes in order. -/
theorem test_sha256 : sha256 [0x61, 0x62, 0x63] = 0xad1500f261ff10b49c7a1796a36103b02322ae5dde404141eacf018fbf1678ba := by decide +kernel

/-- An object whose header passes: one chunk, whose leaf is ROOT. -/
def rooted : BmoObject :=
  let root := 0xa970603f8c1dbe310097673c75ceed11f24186e85231560aa852c9f55ecff11
  let head := [0x1424F4D42, 0x100, 2 ^ 32, 0].flatMap (leBytes 8)
  { anObject [1] with bytes := head ++ leBytes 32 root ++ List.replicate 192 0 ++ [1] }

theorem three_and_rest {a b c : Bool} {l : List Bool} (h1 : a = true) (h2 : b = true) (h3 : c = true) (h : l.all id = true) :
    (a :: b :: c :: l).all id = true := by
  subst h1 h2 h3; exact h

/-- Every check but that of its signer's signature passes. -/
theorem test_wit_loadChecks : signatureOk rooted.bytes = true →
    (loadChecks memory rooted).all id = true ∧ placementOk memory rooted = true ∧ rooted.native = none := by
  have h : headerOk rooted.bytes = true ∧ rootOk rooted.bytes = true ∧
      ((loadChecks memory rooted).drop 3).all id = true ∧ placementOk memory rooted = true := by decide +kernel
  intro hs
  obtain ⟨h1, h2, h3, h4⟩ := h
  exact ⟨three_and_rest h1 hs h2 h3, h4, rfl⟩

theorem test_wit_TrustEvents :
    (∃ t, exec .coldReset memory = .next t) ∧ lifeIndex .provisioned = lifeIndex memory.trust.lc + 1 ∧
    lifeIndex .deployed ≠ lifeIndex memory.trust.lc + 1 ∧ memory.trust.fusectr < 1#8 ∧
    headerOk [] = false ∧ (∃ bs, headerOk bs = true) ∧ placementOk memory (anObject [1]) = true ∧ placementOk withObject (anObject [1]) = false ∧
    (loadChecks memory (anObject [1])).findIdx? (· == false) = some 0 ∧ (anObject [1]).relocs.all (relocOk memory (anObject [1])) = true ∧
    (amFind withObject.trust.objects 0).map (fun o => (nchunk o.obj.bytes, (chunkOf o.obj.bytes 0).take 2,
      (textSection o.obj 0).map Prod.snd)) = some (1, [1, 0], some 0) ∧
    ((textSection (anObject [1]) 0).map fun p =>
      (chunkFree withObject 0 p.1 0 0x300000, sharedFrame withObject (anObject [1]) p.1 p.2 0)) = some (true, none) ∧
    (∃ p ∈ withObject.trust.objects, p.2.svn < 1 ∧ p.2.resident = [] ∧ p.2.native = false) ∧
    ((endTasks memory).ctxs.any fun p => p.2.cmds.any (cmdRuns (endTasks memory) p.1)) = false ∧
    ((endTasks copying).ctxs.any fun p => p.2.cmds.any (cmdRuns (endTasks copying) p.1)) = true ∧
    (∃ s : State, s.trust.lc = .deployed ∧ s.trust.deviceKey = some 3) := by
  refine ⟨⟨_, rfl⟩, rfl, by decide, by decide, by decide +kernel, ⟨leBytes 256 0x1424F4D42, by decide +kernel⟩,
    decided3 (by decide +kernel) <| decided3 (by decide +kernel) ⟨⟨_, List.mem_singleton.mpr rfl, by decide, rfl, rfl⟩,
      by decide +kernel, by decide +kernel,
      { memory with trust := { Trust.reset with lc := .deployed, deviceKey := some 3 } }, rfl, rfl⟩⟩

/-- FUSECTR only rises; a life-cycle step skips no state; the zeroed module is not ready (R70, R334, R337). -/
theorem test_trust :
    after (exec (.fusectrAdvance 3) memory) (·.trust.fusectr) = some 3 ∧
    after (exec (.fusectrAdvance 0) memory) (·.trust.fusectr) = some 0 ∧
    after (exec (.lifecycleTransition .deployed) memory) (·.trust.lc) = some .manufacturing ∧
    after (exec (.lifecycleTransition .provisioned) memory) (fun t => (t.trust.lc, t.hbmReady, memNat t.mem 0x200000 8)) =
      some (.provisioned, false, 0) ∧
    after (exec (.objectLoad { anObject [] with bytes := [] }) memory) (·.trust.loadCode) = some 1 := by decide +kernel

/-- Command queue 0, enabled over 1,024 dwords at 0x208000, with the given dwords at its head and its lock taken. -/
def queueing (locked : Bool) (words : List Nat) : State :=
  let l : CqLevel := { base := 0x208000, len := 1024, pos := 0, window := [] }
  { memory with
    mem := memWrite memory.mem 0x208000 (words.flatMap (leBytes 4))
    cqs := [(0, { CmdQueue.reset with base := 0x208000, size := 1024, tail := BitVec.ofNat 32 words.length, ttb := 0x10000, slot := 77,
                                      en := true, levels := [l], locked := if locked then some 2 else none })]
    front := { FrontEnd.reset with events := if locked then [] else [.doorbell 0] }
    tlb := [] }

/-- The head of the queue: its level. -/
def headLevel : CqLevel := { base := 0x208000, len := 1024, pos := 0, window := [] }

/-- The dispatch of the doorbell turns the NOP packet at the head into the queue's next step; the packet passes, and the
lock is given back (R345, R346). -/
theorem test_front_end :
    after (exec (.controlEventDispatch 2) (queueing false [0])) (fun t => (t.work.getLast?, (t.cq 0).locked)) =
      some (some (.nopPacket 0 { opc := 0, arg := 0, payload := [] }), some 2) ∧
    after (exec (.nopPacket 0 { opc := 0, arg := 0, payload := [] }) (queueing true [0])) (fun t => ((t.cq 0).head, (t.cq 0).locked)) =
      some (1, none) ∧
    after (exec (.nopPacket 0 { opc := 0, arg := 1, payload := [] }) (queueing true [0])) (fun t => (t.cq 0).err) = some 2 ∧
    after (exec (.tsigPacket 0 { opc := 0x0A, arg := 0, payload := [5, 0] }) (queueing true [0, 0, 0])) (fun t => (t.timeline 77 4).count) =
      some 5 ∧
    after (exec (.writePacket 0 { opc := 6, arg := 0, payload := [0x200000, 0, 0x99] }) (queueing true [0, 0, 0, 0]))
      (fun t => memNat t.mem 0x200000 4) = some 0x99 ∧
    after (exec (.ibretPacket 0 { opc := 3, arg := 0, payload := [] }) (queueing true [0])) (fun t => (t.cq 0).err) = some 4 ∧
    after (exec (.wakearmPacket 0 { opc := 0x0C, arg := 0, payload := [2] }) (queueing true [0, 0]))
      (fun t => (amGet WakeFilter.reset t.front.filters 1).armed) = some true := by decide +kernel

theorem test_wit_FrontEndSteps :
    (queueing true [0]).front.events = [] ∧ FeEvent.doorbell 0 ∈ (queueing false [0]).front.events ∧
    (let s := (queueing true [0]).modCq 0 fun c => { c with en := false }
     (s.cq 0).en = false ∧ (s.cq 0).size.toNat = 2 ^ (10 + 0) ∧ (s.cq 0).base.toNat % 4096 = 0 ∧ freeSlot s = some 0) ∧
    ((queueing true [0]).cq 1).en = false ∧ ((queueing true [0]).cq 1).size.toNat = 0 ∧
    ((queueing true [0]).modCq 0 fun c => { c with err := 2 }).cq 0 ≠ (queueing true [0]).cq 0 ∧
    coreTakes (queueing true [0]) 2 = false ∧ coreTakes (queueing false [0]) 2 = true ∧ nextEvent (queueing false [0]) = some (.doorbell 0) ∧
    (let s := queueing false [0]
     (s.cq 0).levels = [headLevel] ∧ headLevel.pos + 1 + hdrNdw 0 ≤ (s.cq 0).tail.toNat ∧
     (let f := ({ s.front with events := s.front.events.erase (.doorbell 0), gated := s.front.gated.filter (· ≠ 2),
                               lastEvent := amSet s.front.lastEvent 2 s.wall } : FrontEnd).settle
      let v := fetchAhead (({ s with front := f } : State).modCq 0 fun c => { c with locked := some 2, waiting := none }) 0
      (v.cq 0).levels.map (fun l => (l.pos, amFind l.window l.pos)) = [(0, some 0)])) ∧
    (let s := { memory with front := { FrontEnd.reset with gate := 4 }, wall := 2 }
     gateDue s 3 = true ∧ gateDue { s with wall := 1 } 3 = false) ∧
    nextEvent { memory with front := { FrontEnd.reset with events := [.wake], gated := upto 12, frames := [[1]] } } = some .wake ∧
    coreTakes { memory with front := { FrontEnd.reset with events := [.wake], gated := upto 12, frames := [[1]] } } 11 = true ∧
    FrontEnd.allGated { FrontEnd.reset with gated := upto 12 } = true ∧ FrontEnd.allGated FrontEnd.reset = false ∧
    ({ WakeFilter.reset with armed := true } : WakeFilter).matches (List.replicate 8 0) = true ∧
    ({ WakeFilter.reset with armed := true } : WakeFilter).matches (List.replicate 7 0) = false := by decide +kernel

/-- The lines that a queue reads at these addresses. -/
def cqLines (ps : List Phys) : List Nat := insertAll ((ps.filter fun p => p.kind ≠ .zero).map fun p => p.pa / 64) []

/-- A queue's access to lines of this module without poison delivers their bytes. -/
theorem cq_near (s : State) (c : CmdQueue) (ps : List Phys) (hb : (cqLines ps).any (cqBadLine s) = false)
    (hf : (cqLines ps).filter (fun l => rangeOf (64 * l) = .fabric) = []) :
    cqBytes s c ps = (s, some (ps.map fun p => if p.kind = .zero then 0 else memGet s.mem (homePa p.pa))) := by
  unfold cqLines at hb hf
  simp only [cqBytes, hb, hf, List.isEmpty_nil, if_true, Bool.false_eq_true, if_false]

/-- A PRED faults where its page does not translate. -/
theorem pred_faults (s : State) (c : CmdQueue) (va : Nat)
    (h : (translatePages s (cqXlat c) .scalarLoad false false (rangePages va 4) [] []).2.2.isEmpty = false) :
    ∀ k, predWord s c va k = k (translatePages s (cqXlat c) .scalarLoad false false (rangePages va 4) [] []).1 none := by
  intro k
  unfold predWord
  generalize translatePages s (cqXlat c) .scalarLoad false false (rangePages va 4) [] [] = r at h
  obtain ⟨a, b, f⟩ := r
  cases f with
  | nil => cases h
  | cons x xs => rfl

/-- A PRED's word of ordinary memory, when its page translates. -/
theorem pred_reads (s : State) (c : CmdQueue) (va w : Nat)
    (h : (translatePages s (cqXlat c) .scalarLoad false false (rangePages va 4) [] []).2.2 = [])
    (hd : rangeOf (physOf (translatePages s (cqXlat c) .scalarLoad false false (rangePages va 4) [] []).2.1 va).pa ≠ .device)
    (hb : (cqLines ((addrsFrom va 4).map (physOf (translatePages s (cqXlat c) .scalarLoad false false (rangePages va 4) [] []).2.1))).any
      (cqBadLine (translatePages s (cqXlat c) .scalarLoad false false (rangePages va 4) [] []).1) = false)
    (hf : (cqLines ((addrsFrom va 4).map (physOf (translatePages s (cqXlat c) .scalarLoad false false (rangePages va 4) [] []).2.1))).filter
      (fun l => rangeOf (64 * l) = .fabric) = [])
    (hw : leNat (((addrsFrom va 4).map (physOf (translatePages s (cqXlat c) .scalarLoad false false (rangePages va 4) [] []).2.1)).map
      fun p => if p.kind = .zero then 0 else
        memGet (translatePages s (cqXlat c) .scalarLoad false false (rangePages va 4) [] []).1.mem (homePa p.pa)) = w) :
    ∀ k, predWord s c va k = k (translatePages s (cqXlat c) .scalarLoad false false (rangePages va 4) [] []).1 (some w) := by
  intro k
  unfold predWord
  generalize translatePages s (cqXlat c) .scalarLoad false false (rangePages va 4) [] [] = r at h hd hb hf hw
  obtain ⟨a, b, f⟩ := r
  subst h hw
  simp only at hd hb hf
  simp [hd, cq_near a c _ hb hf]

theorem test_wit_PacketResults :
    Runs (queueing true [0]) 0 headLevel [] ∧ packetOk (.nopPacket 0 ⟨0, 1, []⟩) = false ∧ packetOk (.nopPacket 0 ⟨0, 0, []⟩) = true ∧
    packetOk (.launchPacket 0 ⟨1, 0, [0x200000, 0, 63]⟩) = true ∧ packetOk (.launchPacket 0 ⟨1, 0, [0x200000, 0, 64]⟩) = false ∧
    (let s := { queueing true [0] with mem := memWrite memory.mem 0x200000 (oneTask 0), queues := [(5, { LaunchQueue.reset with cfg := 1 })] }
     (translatePages s (cqXlat (s.cq 0)) .vectorLoad false false (touched 0x200000 256 0) [] []).2.2 = [] ∧
     recordOk s (s.lq 5).part (oneTask 0) = true ∧ (s.lq 5).enabled = true ∧ (s.lq 6).enabled = false ∧
     (let ps := (addrsFrom 0x200000 256).map
        (physOf (translatePages s (cqXlat (s.cq 0)) .vectorLoad false false (touched 0x200000 256 0) [] []).2.1)
      (cqBytes s (s.cq 0) ps).2 = some (oneTask 0) ∧ (cqBytes { s with poison := [0x8003] } (s.cq 0) ps).2 = none ∧
        (∀ x ∈ ps, x.kind ≠ .zero ∧ rangeOf x.pa = .hbm) ∧ ∃ x ∈ ps, homePa (x.pa / 64 * 64) / 64 ∈ [0x8003])) ∧
    packetOk (.writePacket 0 ⟨6, 0, [0x200000, 0, 1]⟩) = true ∧
    (translatePages (queueing true [0]) (cqXlat ((queueing true [0]).cq 0)) .scalarStore true false (rangePages 0x200000 4) [] []).2.2 = [] ∧
    (let s := { queueing true [0] with mem := memWrite (queueing true [0]).mem 0x30000 (leBytes 8 0x100000001D83) }
     let one := translatePages s (cqXlat (s.cq 0)) .scalarStore true false (rangePages 0x200000 4) [] []
     let two := translatePages s (cqXlat (s.cq 0)) .vectorStore true false (rangePages 0x200000 8) [] []
     one.2.2 = [] ∧ two.2.2 = [] ∧ one.2.1.map (fun y => rangeOf y.2.pa) = [.device] ∧ two.2.1.map (fun y => rangeOf y.2.pa) = [.device]) ∧
    (let s := { queueing true [0] with mem := memWrite (queueing true [0]).mem 0x30000 (leBytes 8 0) }
     (translatePages s (cqXlat (s.cq 0)) .scalarStore true false (rangePages 0x200000 4) [] []).2.2 ≠ []) ∧
    ((translatePages (queueing true [0]) (cqXlat ((queueing true [0]).cq 0)) .scalarStore true false (rangePages 0x200000 4) [] []).2.1.map
      fun y => rangeOf y.2.pa) = [.hbm] ∧
    packetOk (.twaitPacket 0 ⟨9, 0, [0, 0, 1, 0]⟩) = true ∧ waitMet (queueing true [0]) 0 1 = false ∧ waitMet (queueing true [0]) 0 0 = true ∧
    packetOk (.tsigPacket 0 ⟨10, 0, [1, 0]⟩) = true ∧ packetOk (.ffencePacket 0 ⟨11, 0, []⟩) = true ∧
    packetOk (.wakearmPacket 0 ⟨12, 0, [0xFFFF]⟩) = true ∧ packetOk (.wakearmPacket 0 ⟨12, 0, [0x10000]⟩) = false ∧
    packetOk (.ibcallPacket 0 ⟨2, 0, [0x200000, 0, 0x1000000]⟩) = true ∧
    Runs ((queueing true [0]).modCq 0 fun c => { c with levels := List.replicate 5 headLevel }) 0 headLevel (List.replicate 4 headLevel) ∧
    packetOk (.ibretPacket 0 ⟨3, 0, []⟩) = true ∧ packetOk (.predPacket 0 ⟨4, 1, [0x200000, 0, 0xFF, 0xFE, 3]⟩) = true ∧
    (∀ k, predWord (queueing true [0]) ((queueing true [0]).cq 0) 0x200000 k =
      k (translatePages (queueing true [0]) (cqXlat ((queueing true [0]).cq 0)) .scalarLoad false false (rangePages 0x200000 4) [] []).1
        (some 0x80FF01FE)) ∧
    (∀ k, predWord (queueing true [0]) ((queueing true [0]).cq 0) 0x100000000 k =
      k (translatePages (queueing true [0]) (cqXlat ((queueing true [0]).cq 0)) .scalarLoad false false (rangePages 0x100000000 4) [] []).1
        none) ∧
    packetOk (.loopPacket 0 ⟨5, 1, [3]⟩) = true ∧ ((queueing true [0]).cq 0).loop = none ∧
    (match readBody (queueing true [0, 0, 0]) ((queueing true [0, 0, 0]).cq 0) headLevel 2 1 with
     | (.ok _ _, xs) => xs == [(2, 0)]
     | _ => false) = true := by
  refine ⟨⟨rfl, rfl, rfl⟩, rfl, rfl, decided5 (by decide +kernel) <| decided3 (by decide +kernel) <| decided3 (by decide +kernel)
    ⟨rfl, rfl, decided3 (by decide +kernel) ⟨⟨by decide +kernel, by decide +kernel, by decide +kernel⟩, rfl, by decide +kernel,
    pred_reads _ _ _ _ (by decide +kernel) (by decide +kernel) (by decide +kernel) (by decide +kernel) (by decide +kernel),
    pred_faults _ _ _ (by decide +kernel), by decide +kernel⟩⟩⟩

/-! ### Device accesses, whole steps -/

/-- The page at 2^55 + 2^42 of the laboratory is core 0's block of device registers, for firmware and tasks. -/
def devices : State :=
  let s := labRegs [(4, 0x80040000000000), (9, 0x1FF)] []
  { s with
    mem := memWrite (memWrite (memWrite s.mem 0x20008 (leBytes 8 0x40001)) 0x40000 (leBytes 8 0x50001)) 0x50000
      (leBytes 8 (0x100000000000 + 0x4583))
    cores := [(0, { Core.reset with trapent := 0x4000 })] }

/-- At the commit, the page of the slot's issue. -/
def devicesAt (sl : Nat) : State :=
  atCommit (devices.setCtx { devices.ctx with resolved := [⟨sl, 0x8004000000, 0x100000000000, .device⟩] })

/-- A store of TRAPENT waits at the core's port; a load of it sees what was sent before (R79, Table 15-4). -/
theorem test_device :
    went (exec (.sts yes .z64 9 4 0) (devicesAt 5)) (fun t => (t.devOut, (amGet Core.reset t.cores 0).trapent)) =
      some ([⟨0, 0x100000000000, 8, 0x1FF⟩], 0x4000) ∧
    went (exec (.lds yes .z64 10 4 0 5) { devicesAt 4 with devOut := [⟨0, 0x100000000000, 8, 0x1FF⟩] })
      (fun t => t.scalarAt 10 (devices.due 5)) = some 0x1C0 ∧
    went (exec (.lds yes .z64 10 4 0 5) (devicesAt 4)) (fun t => t.scalarAt 10 (devices.due 5)) = some 0x4000 ∧
    went (exec (.sts yes .z64 9 4 0) devices) (fun t => t.ctx.withheld.length) = some 0 := by decide +kernel

theorem test_wit_DeviceAccess :
    devices.guardOn yes = true ∧ devices.soundS [9, 4] ∧ devices.stage = .issue ∧ devices.bundle.ckpt = true ∧
    (let e : Elem := ⟨eaOf devices 4 0 8, 8, 0⟩
     (xlated devices .scalarLoad false false [e]).2.2 = [] ∧ e.va % 8 = 0 ∧
     (physOf (xlated devices .scalarLoad false false [e]).2.1 e.va).isDevice = true ∧
     (xlated devices .scalarStore true false [e]).2.2 = [] ∧
     (physOf (xlated devices .scalarStore true false [e]).2.1 e.va).isDevice = true ∧
     rangeOf (physOf (pagesAt (devicesAt 4) 4) e.va).pa = .device ∧
     pagesAt (devicesAt 4) 4 ≠ [] ∧ pagesAt (devicesAt 5) 5 ≠ [] ∧ rangeOf (physOf (pagesAt (devicesAt 5) 5) e.va).pa = .device ∧
     deviceLoad (devicesAt 4) (some 0) (physOf (pagesAt (devicesAt 4) 4) e.va).pa 8 = 0x4000) := by
  refine ⟨rfl, clean_S rfl _, rfl, rfl, ?_⟩
  decide +kernel

/-- The step after reset, and what it leaves (R70). -/
theorem test_wit_Invariants :
    BootInv State.reset ∧ State.reset.hbmReady = false ∧ MemInv State.reset ∧ MemInv memory ∧
    (∃ t, step State.reset = .next t ∧ t.hbmReady = true ∧ t.work = []) ∧ ∃ t, step placed = .next t := by
  refine ⟨fun _ => Or.inr ⟨0, rfl, rfl⟩, rfl, rfl, ?_, ⟨_, rfl, rfl, rfl⟩, ?_⟩
  · unfold MemInv; decide +kernel
  · have h : (match step placed with | .next _ => true | _ => false) = true := by decide +kernel
    split at h
    · next t ht => exact ⟨t, ht⟩
    · exact absurd h (by decide)

/-- The coder's lanes over a stash window whose tile 0 is mapped. -/
def encoding : State :=
  { stashing with
    ctxs := (coding.setCtx { coding.ctx with swinCount := 2, arch := { coding.ctx.arch with ttb := 0x10000 } }).ctxs
    stash := [(0, { StashTile.empty with state := .ready, pa := 0x200, va := 0x200, present := BitVec.allOnes 64 })]
    tlb := [] }

/-- A flush emits bytes, and its addresses are those of the mapped tile (R233, R234). -/
theorem test_wit_Encodes :
    (let s := encoding
     let out := emitted s 0 1 (fun x => !x.enc || (!x.q.error && !x.fl)) (fun _ x => flushLane (s.ctx.swinCount * 4096) x)
     s.guardOn yes = true ∧ out ≠ [] ∧ (∀ o ∈ out, serves s o.2.1) ∧
     (translatePages (requested s (out.map fun o => o.2.1)) (ctxXlat s s.cur) .vectorStore true false
       (distinctPages (out.map fun o => (offsetVa s o.2.1 / 65536, o.1)) []) [] []).2.2 = [] ∧
     (translatePages (requested s (out.map fun o => o.2.1)) (ctxXlat s s.cur) .vectorStore true false
       (distinctPages (out.map fun o => (offsetVa s o.2.1 / 65536, o.1)) []) [] []).1.roomW
         (.store (out.map fun o => (offsetPa s o.2.1, o.2.2)))) := by
  unfold State.roomW serves
  exact ⟨rfl, by decide +kernel⟩

end Sys2Proof.Tests
end

section
/-! PROOF. Laws of tables, lists and bytes that the scope statements need. -/

namespace Sys2Proof.Machine

/-! ### Tables and lists -/

@[simp] theorem amFind_amSet_same {α : Type} (m : AMap α) (i : Nat) (x : α) : amFind (amSet m i x) i = some x := by
  induction m with
  | nil => simp [amSet, amFind]
  | cons p m ih =>
    obtain ⟨k, y⟩ := p
    by_cases h : k = i
    · simp [amSet, amFind, h]
    · by_cases g : i < k <;> simp [amSet, amFind, h, g, ih]

/-- An address that no cell has reads as zero. -/
theorem memGet_unlisted : ∀ (m : Memory) {a : Nat}, (∀ c ∈ m, c.1 ≠ a) → memGet m a = 0
  | [], _, _ => rfl
  | (k, y) :: m, a, h => by
    rw [memGet, if_neg (h (k, y) (List.mem_cons_self ..))]
    exact memGet_unlisted m fun c hc => h c (List.mem_cons_of_mem _ hc)

/-- A part of the state that every step of a fold keeps is kept by the fold. -/
theorem foldl_keeps {α β γ : Type} (k : α → γ) {f : α → β → α} (h : ∀ a b, k (f a b) = k a) :
    ∀ (l : List β) (a : α), k (l.foldl f a) = k a
  | [], _ => rfl
  | b :: l, a => (foldl_keeps k h l (f a b)).trans (h a b)

/-- The n-th of blocks of one length that lie one after the other. -/
theorem take_drop_flatten {α : Type} {w : Nat} (rest : List α) : ∀ (L : List (List α)), (∀ x ∈ L, x.length = w) →
    ∀ (n : Nat) (hn : n < L.length), ((L.flatten ++ rest).drop (w * n)).take w = L[n]
  | x :: L, h, 0, _ => by
    have hx : x.length = w := h x (List.mem_cons_self ..)
    rw [List.flatten_cons, List.append_assoc, Nat.mul_zero, List.drop_zero, ← hx, List.take_left, List.getElem_cons_zero]
  | x :: L, h, n + 1, hn => by
    have hx : x.length = w := h x (List.mem_cons_self ..)
    have hd : w * (n + 1) = x.length + w * n := by rw [hx, Nat.mul_succ, Nat.add_comm]
    rw [List.flatten_cons, List.append_assoc, hd, List.drop_length_add_append]
    exact take_drop_flatten rest L (fun y hy => h y (List.mem_cons_of_mem _ hy)) n (Nat.lt_of_succ_lt_succ hn)

/-! ### Bytes -/

@[simp] theorem length_leBytes : ∀ n x : Nat, (leBytes n x).length = n
  | 0, _ => rfl
  | n + 1, x => by simp [leBytes, length_leBytes n]

theorem leNat_leBytes : ∀ n x : Nat, leNat (leBytes n x) = x % 256 ^ n
  | 0, x => by simp [leBytes, leNat, Nat.mod_one]
  | n + 1, x => by
    have hlow : (BitVec.ofNat 8 x).toNat = x % 256 := BitVec.toNat_ofNat ..
    rw [leBytes, leNat, leNat_leBytes n, hlow, Nat.pow_succ', Nat.mod_mul]

@[simp] theorem length_digestBytes (d : BitVec 256) : (digestBytes d).length = 32 := by
  simp [digestBytes, bytesOf, upto]

@[simp] theorem length_sha256Bytes (bs : List Byte) : (sha256Bytes bs).length = 32 := by
  simp [sha256Bytes, beBytes]

@[simp] theorem length_slhHash (seed : List Byte) (x : SlhAdrs) (m : List Byte) : (slhHash seed x m).length = 16 := by
  simp [slhHash]

end Sys2Proof.Machine
end

section
/-! PROOF. What the ending of tasks, the wipe, the measured boot, the loader and attestation do (R4, R70, R331 to R337). -/

namespace Sys2Proof.Machine

/-! ### What the ending of tasks leaves -/

/-- What the loader and the boot ROM keep, with the fused ridges. -/
def State.fuses (s : State) : Trust × List Nat := (s.trust, s.fused)

theorem State.modLaunch_fuses (s : State) (id : Nat) (f : Launch → Launch) : (s.modLaunch id f).fuses = s.fuses := rfl

/-- A forwarded entry changes its ring, the counts of management and, by its stores, what any store changes. -/
theorem forwardEntry_frame (s : State) (asid : Nat) (e : List Byte) (resume : Option (Nat × Nat)) :
    let t := (forwardEntry s asid e resume).1
    t = { s with mem := t.mem, ctxs := t.ctxs, stash := t.stash, history := t.history, poison := t.poison,
                 zeroLines := t.zeroLines, rings := t.rings, counted := t.counted } := by
  simp only [forwardEntry]
  split
  · rfl
  · split <;> rfl

theorem forwardEntry_trust (s : State) (asid : Nat) (e : List Byte) (resume : Option (Nat × Nat)) :
    (forwardEntry s asid e resume).1.trust = s.trust :=
  (congrArg State.trust (forwardEntry_frame s asid e resume)).trans rfl

theorem forwardEntry_tlb (s : State) (asid : Nat) (e : List Byte) (resume : Option (Nat × Nat)) :
    (forwardEntry s asid e resume).1.tlb = s.tlb :=
  (congrArg State.tlb (forwardEntry_frame s asid e resume)).trans rfl

theorem forwardEntry_fuses (s : State) (asid : Nat) (e : List Byte) (resume : Option (Nat × Nat)) :
    (forwardEntry s asid e resume).1.fuses = s.fuses :=
  (congrArg State.fuses (forwardEntry_frame s asid e resume)).trans rfl

theorem stopCtx_fuses (s : State) (n : Nat) : (stopCtx s n).fuses = s.fuses := by
  unfold stopCtx
  extract_lets c c1 s0 s1
  split <;> rfl

theorem stopTasks_fuses (s : State) (id : Nat) (p : TaskRec → Bool) (st : TaskState) :
    (stopTasks s id p st).fuses = s.fuses := by
  simp only [stopTasks, State.modLaunch_fuses]
  refine foldl_keeps State.fuses (fun u k => ?_) _ s
  split
  · exact stopCtx_fuses ..
  · exact stopCtx_fuses ..
  · rfl

/-- The tasks of a module end without a change of fuses, loader or measurements. -/
theorem endTasks_fuses (s : State) : (endTasks s).fuses = s.fuses := by
  have htask (u : State) (n : Nat) : (endTask u n).fuses = u.fuses := forwardEntry_fuses ..
  have hlaunch (u : State) (id : Nat) : (leaveQueue (stopTasks u id (fun _ => true) .failed) id).fuses = u.fuses :=
    stopTasks_fuses u id (fun _ => true) .failed
  rw [endTasks, foldl_keeps State.fuses hlaunch, foldl_keeps State.fuses htask]

theorem endTasks_trust (s : State) : (endTasks s).trust = s.trust := congrArg Prod.fst (endTasks_fuses s)

theorem endTasks_fused (s : State) : (endTasks s).fused = s.fused := congrArg Prod.snd (endTasks_fuses s)

/-! ### The wipe and the measured boot -/

/-- The wipe leaves no byte of HBM. -/
theorem memGet_wipe_hbm (s : State) {a : Nat} (h : a < 2 ^ 40) : memGet (wipe s).mem a = 0 := by
  refine memGet_unlisted _ fun c hc e => ?_
  have hbm : rangeOf c.1 = .hbm := by rw [e, rangeOf, if_pos h]
  have hkept : (rangeOf c.1 != .hbm) = true := (List.mem_filter.1 hc).2
  rw [hbm] at hkept
  exact absurd hkept (by decide)

/-- A register after images measured in order holds the extensions by its own images. -/
theorem amGet_measures (n : Nat) : ∀ (xs : List (Nat × List Byte)) (m : AMap (BitVec 256)),
    amGet 0 (xs.foldl (fun m p => measure m p.1 p.2) m) n =
      (xs.filter (·.1 = n)).foldl (fun x p => sha256 (digestBytes x ++ digestBytes (sha256 p.2))) (amGet 0 m n)
  | [], _ => rfl
  | p :: xs, m => by
    rw [List.foldl_cons, amGet_measures n xs]
    by_cases h : p.1 = n
    · rw [List.filter_cons_of_pos (by simpa using h), List.foldl_cons, ← h, measure, amMod, amGet_amSet_same]
    · rw [List.filter_cons_of_neg (by simpa using h), measure, amMod, amGet_amSet_other _ _ _ (Ne.symm h)]

/-- The boot ROM extends MEAS0 to MEAS4 with one image each. -/
theorem amGet_bootMeasures (n : Nat) : amGet 0 bootMeasures n =
    if n < 5 then sha256 (digestBytes 0 ++ digestBytes (sha256 (Config.firmwareImage n))) else 0 := by
  have hpairs : bootMeasures =
      ((upto 5).map fun k => (k, Config.firmwareImage k)).foldl (fun m p => measure m p.1 p.2) [] := by
    rw [List.foldl_map, bootMeasures]
  have hown : ∀ k, k < 5 → (upto 5).filter (fun j => decide (j = k)) = [k] := by decide
  have hnone (h : ¬n < 5) : (upto 5).filter (fun j => decide (j = n)) = [] :=
    List.filter_eq_nil_iff.2 fun j hj e => h (decide_eq_true_eq.mp e ▸ List.mem_range.1 hj)
  rw [hpairs, amGet_measures, List.filter_map, Function.comp_def]
  split
  · next h => rw [hown n h, List.map_singleton, List.foldl_cons, List.foldl_nil, amGet]
  · next h => rw [hnone h, List.map_nil, List.foldl_nil, amGet]

/-- The images that firmware measures extend MEAS5 to MEAS15. -/
theorem amGet_laterMeasures (m : AMap (BitVec 256)) (later : List (Nat × List Byte)) (n : Nat) :
    amGet 0 (laterMeasures m later) n =
      if 5 ≤ n ∧ n ≤ 15 then
        (later.filter (·.1 = n)).foldl (fun x p => sha256 (digestBytes x ++ digestBytes (sha256 p.2))) (amGet 0 m n)
      else amGet 0 m n := by
  rw [laterMeasures, amGet_measures, List.filter_filter]
  split
  · next h =>
    congr 1
    refine List.filter_congr fun p _ => ?_
    by_cases hp : p.1 = n <;> simp [hp, h]
  · next h =>
    rw [List.filter_eq_nil_iff.2, List.foldl_nil]
    intro p _ hp
    simp only [Bool.and_eq_true, decide_eq_true_eq] at hp
    omega

/-! ### Loads -/

/-- The number of the first check that fails, counted from n on, goes through the checks one by one. -/
theorem firstFailed_cons (b : Bool) (bs : List Bool) (n : Nat) :
    ((b :: bs).findIdx? (· == false)).elim 0 (· + n) =
      if b = false then n else (bs.findIdx? (· == false)).elim 0 (· + (n + 1)) := by
  rw [List.findIdx?_cons]
  cases b
  · exact Nat.zero_add n
  · cases bs.findIdx? (· == false) with
    | none => rfl
    | some k => exact Nat.succ_add_eq_add_succ k n

/-- The code of a load is the number of the first of the eight checks that fails, or 0 (Table 17-2). -/
theorem loadCheck_eq (s : State) (o : BmoObject) :
    loadCheck s o = ((loadChecks s o).findIdx? (· == false)).elim 0 (· + 1) := by
  simp only [loadCheck, loadChecks, firstFailed_cons, Bool.and_eq_true, decide_eq_true_eq]
  simp [deviceFeature, deviceArith, deviceLatency]

theorem loadCheck_of_fails {s : State} {o : BmoObject} {k : Nat} (h : (loadChecks s o).findIdx? (· == false) = some k) :
    loadCheck s o = k + 1 := by rw [loadCheck_eq, h]; rfl

theorem loadCheck_of_passes {s : State} {o : BmoObject} (h : (loadChecks s o).all id = true) : loadCheck s o = 0 := by
  have hnone : (loadChecks s o).findIdx? (· == false) = none :=
    List.findIdx?_eq_none_iff.2 fun b hb => by rw [show b = true from List.all_eq_true.1 h b hb]; rfl
  rw [loadCheck_eq, hnone]; rfl

/-- Whether a translation serves depends on the cache and the device key alone (R333). -/
theorem cachedFor_congr {s t : State} (hc : t.trust.cache = s.trust.cache) (hk : t.trust.deviceKey = s.trust.deviceKey)
    (root : BitVec 256) : cachedFor t root = cachedFor s root := by
  simp only [cachedFor, entryOk, hc, hk]

/-- Native text is placed where the loader gives it a place and a cached translation serves. -/
theorem nativeText_isSome (s : State) (o : BmoObject) :
    (nativeText s o).isSome = true ↔ o.native ≠ none ∧ cachedFor s (rootOf o.bytes) ≠ none := by
  unfold nativeText
  cases o.native <;> cases cachedFor s (rootOf o.bytes) <;> simp

theorem nativeCells_eq_nil {s : State} {o : BmoObject} (h : (nativeText s o).isSome = false) : nativeCells s o = [] := by
  rw [nativeCells, Option.not_isSome_iff_eq_none.1 (Bool.eq_false_iff.1 h)]

/-- An accepted object: listed under the next number, its sections stored, its native text placed where it can be. -/
theorem placeObject_spec (s : State) (o : BmoObject) :
    ∃ b, (placeObject s o).trust.loadCode = 0 ∧
      amFind (placeObject s o).trust.objects (nextObject s.trust.objects) =
        some { obj := o, svn := headBits o.bytes 0x10 0 32, resident := [], native := b } ∧
      (b = true ↔ o.native ≠ none ∧ cachedFor (placeObject s o) (rootOf o.bytes) ≠ none) ∧
      (b = false → (placeObject s o).mem = (s.perform none (loadCells s o)).mem) := by
  unfold placeObject
  extract_lets s1 trust1 s2 x trust2 s3
  have hcached (root : BitVec 256) : cachedFor (s3.perform none (nativeCells s3 o)) root = cachedFor s2 root :=
    cachedFor_congr rfl rfl root
  refine ⟨(nativeText s2 o).isSome, rfl, amFind_amSet_same .., ?_, fun hb => ?_⟩
  · rw [hcached]; exact nativeText_isSome s2 o
  · have hnone : (nativeText s3 o).isSome = false := by
      rw [Bool.eq_false_iff] at hb ⊢
      rw [Ne, nativeText_isSome] at hb ⊢
      exact hb
    rw [nativeCells_eq_nil hnone]
    rfl

theorem objectLoad_refused {s : State} {o : BmoObject} {k : Nat} (h : (loadChecks s o).findIdx? (· == false) = some k) :
    execObjectLoad o s = .next { s with trust := { s.trust with loadCode := k + 1 } } := by
  simp only [execObjectLoad, loadCheck_of_fails h]
  rfl

theorem objectLoad_passed {s : State} {o : BmoObject} (h : (loadChecks s o).all id = true) :
    execObjectLoad o s = .next (if tablesOk o && placementOk s o then placeObject s o else s) := by
  simp only [execObjectLoad, loadCheck_of_passes h]
  rfl

/-! ### Security versions -/

/-- The load that an advance of FUSECTR to v drops: below it, without mapped text (R334). -/
theorem refusedLoad_iff (v : Nat) (x : LoadedObject) :
    refusedLoad v x = true ↔ x.svn < v ∧ x.resident = [] ∧ x.native = false := by
  simp [refusedLoad, and_assoc]

theorem refusedLoad_eq_decide (v : Nat) (x : LoadedObject) :
    refusedLoad v x = decide (x.svn < v ∧ x.resident = [] ∧ x.native = false) :=
  Bool.eq_iff_iff.2 ((refusedLoad_iff v x).trans decide_eq_true_iff.symm)

/-- What an advance of FUSECTR to a higher value leaves. -/
theorem fusectrAdvance_raises {v : BitVec 8} {s : State} (h : s.trust.fusectr < v) :
    ∃ t, execFusectrAdvance v s = .next t ∧
      let bad := s.trust.objects.filter fun p => refusedLoad v.toNat p.2
      t.trust.fusectr = v ∧ t.trust.cache = s.trust.cache.filter (fun e => v.toNat ≤ e.svn) ∧
      t.trust.objects = s.trust.objects.filter (fun p => !refusedLoad v.toNat p.2) ∧
      t.trust.loadCode = (if bad.isEmpty then s.trust.loadCode else 7) ∧
      t.mem = (if bad.isEmpty then s else s.perform none (bad.flatMap fun p => unmapCells s p.2.obj)).mem := by
  have hlt : s.trust.fusectr.toNat < v.toNat := h
  simp only [execFusectrAdvance, hlt, if_true]
  refine ⟨_, rfl, ?_⟩
  split
  · exact ⟨rfl, rfl, rfl, rfl, rfl⟩
  · exact ⟨rfl, rfl, rfl, rfl, rfl⟩

/-! ### Paging in text -/

/-- The state with a chunk listed as resident at p, and its page mapped when it is whole. -/
def mapChunk (s : State) (obj : Nat) (o : LoadedObject) (x : Section) (chunk p : Nat) : State :=
  let v := { s with trust := { s.trust with objects := amSet s.trust.objects obj (withChunk o chunk p) } }
  v.perform none (textCells v (withChunk o chunk p) x chunk)

/-- The frame at pa takes a chunk: it is free, and the page's other resident chunks lie in it. -/
def FrameTakes (s : State) (obj : Nat) (o : LoadedObject) (x : Section) (chunk pa : Nat) : Prop :=
  chunkFree s obj x chunk pa = true ∧ ∀ r ∈ o.resident, r.1 ∈ pageChunks x chunk → r.1 ≠ chunk → r.2 / 65536 = pa / 65536

theorem placeChunk_shared {s : State} {obj : Nat} {o : LoadedObject} {x : Section} {i chunk f : Nat} (pa : Nat)
    (h : sharedFrame s o.obj x i chunk = some f) :
    placeChunk s obj o x i chunk pa = mapChunk s obj o x chunk (f + chunkPlace x chunk) := by
  simp only [placeChunk, h, mapChunk]

theorem placeChunk_unshared {s : State} {obj : Nat} {o : LoadedObject} {x : Section} {i chunk : Nat} (pa : Nat)
    (h : sharedFrame s o.obj x i chunk = none) :
    (FrameTakes s obj o x chunk pa → placeChunk s obj o x i chunk pa =
      mapChunk (s.perform none (cellsAt pa (chunkBytes s o.obj x i chunk))) obj o x chunk pa) ∧
    (¬FrameTakes s obj o x chunk pa → placeChunk s obj o x i chunk pa = s) := by
  have htakes : (chunkFree s obj x chunk pa &&
      ((o.resident.filter fun r => r.1 ∈ pageChunks x chunk && r.1 ≠ chunk).map fun r => r.2 / 65536).all
        (· == pa / 65536)) = true ↔ FrameTakes s obj o x chunk pa := by
    rw [Bool.and_eq_true, List.all_eq_true]
    refine and_congr_right fun _ => ⟨fun g r hr hin hne => ?_, fun g q hq => ?_⟩
    · have hsel : (decide (r.1 ∈ pageChunks x chunk) && decide (r.1 ≠ chunk)) = true :=
        Bool.and_eq_true_iff.2 ⟨decide_eq_true hin, decide_eq_true hne⟩
      exact beq_iff_eq.1 (g _ (List.mem_map.2 ⟨r, List.mem_filter.2 ⟨hr, hsel⟩, rfl⟩))
    · obtain ⟨r, hmem, rfl⟩ := List.mem_map.1 hq
      obtain ⟨hr, hsel⟩ := List.mem_filter.1 hmem
      obtain ⟨hin, hne⟩ := Bool.and_eq_true_iff.1 hsel
      exact beq_iff_eq.2 (g r hr (of_decide_eq_true hin) (of_decide_eq_true hne))
  simp only [placeChunk, h]
  exact ⟨fun g => by rw [if_pos (htakes.2 g)]; rfl, fun g => if_neg (mt htakes.1 g)⟩

/-- A chunk of a text section that the loader places in HBM at its place in its page: its leaf decides. -/
theorem textPageIn_placed {obj chunk pa i : Nat} {o : LoadedObject} {x : Section} {s : State} (bs : List Byte)
    (ho : amFind s.trust.objects obj = some o) (hx : textSection o.obj chunk = some (x, i))
    (hc : chunk < nchunk o.obj.bytes) (hp : pa % 65536 = (4096 * chunk - x.off) % 65536) (hpa : pa < 2 ^ 40) :
    execTextPageIn obj chunk pa bs s = .next
      (if chunkLeaf bs ≠ chunkLeaf (chunkOf o.obj.bytes chunk) then leafFailure s o.obj (x.base + (4096 * chunk - x.off))
       else placeChunk s obj o x i chunk pa) := by
  have hhbm : rangeOf pa = .hbm := if_pos hpa
  simp only [execTextPageIn, ho, hx]
  rw [if_neg]
  simp [chunkPlace, hp, hhbm, hc]

/-- A leaf that fails is counted, and its page stays unmapped. -/
theorem leafFailure_frame (s : State) (o : BmoObject) (va : Nat) :
    (leafFailure s o va).trust = { s.trust with leafFailures := s.trust.leafFailures + 1 } ∧
      (leafFailure s o va).tlb = s.tlb := ⟨forwardEntry_trust .., forwardEntry_tlb ..⟩

/-! ### Attestation -/

/-- A public key has 32 bytes: a seed of 16 and a node above the leaves. -/
@[simp] theorem length_devicePublicKey (key : Nat) : (devicePublicKey key).length = 32 := by
  have hseed : (deviceSecret key 2).length = 16 := by simp [deviceSecret, bytesOf, upto]
  have hnode (seed x leaf i) : (slhNode seed x leaf slh128f.hp i).length = 16 := length_slhHash ..
  rw [devicePublicKey, slhPublicKey, List.length_append, hseed, hnode]

/-- The blocks of 32 bytes that follow the first two words of a report: nonce, measurements, key (Table 17-5). -/
def reportBlocks (s : State) (nonce : BitVec 256) : List (List Byte) :=
  digestBytes nonce :: (upto 16).map (fun n => digestBytes (amGet 0 s.trust.meas n)) ++
    [s.trust.deviceKey.elim (List.replicate 32 0) devicePublicKey]

/-- The first two words of a report. -/
def reportHead (s : State) : List Byte :=
  wordsBytes [1 + 2 ^ 16 * lifeIndex s.trust.lc + 2 ^ 24 * s.trust.fusectr.toNat,
              deviceFeature + 2 ^ 8 * deviceArith + 2 ^ 16 * deviceLatency]

theorem reportBody_eq (s : State) (nonce : BitVec 256) :
    reportBody s nonce = reportHead s ++ (reportBlocks s nonce).flatten := by
  unfold reportBody reportHead reportBlocks
  cases s.trust.deviceKey <;> simp [List.flatMap_def]

theorem length_reportHead (s : State) : (reportHead s).length = 16 := by simp [reportHead, wordsBytes]

theorem length_of_mem_reportBlocks {s : State} {nonce : BitVec 256} {b : List Byte} (h : b ∈ reportBlocks s nonce) :
    b.length = 32 := by
  simp only [reportBlocks, List.cons_append, List.mem_cons, List.mem_append, List.mem_map, List.not_mem_nil, or_false] at h
  obtain rfl | ⟨n, -, rfl⟩ | rfl := h
  · exact length_digestBytes _
  · exact length_digestBytes _
  · cases s.trust.deviceKey with
    | none => exact List.length_replicate
    | some k => exact length_devicePublicKey k

theorem length_reportBlocks (s : State) (nonce : BitVec 256) : (reportBlocks s nonce).length = 18 := by
  simp [reportBlocks, upto]

theorem length_reportBody (s : State) (nonce : BitVec 256) : (reportBody s nonce).length = 592 := by
  have hsum : ((reportBlocks s nonce).map List.length) = List.replicate 18 32 :=
    List.eq_replicate_iff.2 ⟨by rw [List.length_map, length_reportBlocks], by
      simpa using fun b hb => length_of_mem_reportBlocks hb⟩
  rw [reportBody_eq, List.length_append, length_reportHead, List.length_flatten, hsum]
  rfl

/-- Block n of a report lies 32·n bytes behind its first two words. -/
theorem report_block (s : State) (nonce : BitVec 256) (sig : List Byte) {n : Nat} (hn : n < 18) :
    ((reportBody s nonce ++ sig).drop (16 + 32 * n)).take 32 =
      (reportBlocks s nonce)[n]'(by rw [length_reportBlocks]; exact hn) := by
  rw [reportBody_eq, List.append_assoc, ← length_reportHead s, List.drop_length_add_append]
  exact take_drop_flatten sig _ (fun _ hb => length_of_mem_reportBlocks hb) n _

/-- The first word of a report: version, life-cycle state and FUSECTR. -/
theorem report_state (s : State) (nonce : BitVec 256) (sig : List Byte) :
    leNat ((reportBody s nonce ++ sig).take 8) = 1 + 2 ^ 16 * lifeIndex s.trust.lc + 2 ^ 24 * s.trust.fusectr.toNat := by
  have hlc : lifeIndex s.trust.lc ≤ 3 := by cases s.trust.lc <;> decide
  have hctr : s.trust.fusectr.toNat < 2 ^ 8 := s.trust.fusectr.isLt
  have hfirst (w : Nat) (rest : List Byte) : (leBytes 8 w ++ rest).take 8 = leBytes 8 w := List.take_left' (length_leBytes 8 w)
  rw [reportBody_eq, reportHead, wordsBytes, List.flatMap_cons, List.append_assoc, List.append_assoc, hfirst, leNat_leBytes]
  exact Nat.mod_eq_of_lt (by omega)

theorem report_signature (s : State) (nonce : BitVec 256) (sig : List Byte) : (reportBody s nonce ++ sig).drop 592 = sig :=
  List.drop_left' (length_reportBody s nonce)

theorem report_body (s : State) (nonce : BitVec 256) (sig : List Byte) :
    (reportBody s nonce ++ sig).take 592 = reportBody s nonce := List.take_left' (length_reportBody s nonce)

theorem reportSignature_signed {s : State} {key : Nat} (body : List Byte) (hk : s.trust.deviceKey = some key)
    (hlc : s.trust.lc = .provisioned ∨ s.trust.lc = .deployed) : reportSignature s body = deviceSign key s.tick body := by
  obtain h | h := hlc <;> rw [reportSignature, h, hk]

theorem reportSignature_zero {s : State} (body : List Byte)
    (h : s.trust.lc = .manufacturing ∨ s.trust.lc = .returned ∨ s.trust.deviceKey = none) :
    reportSignature s body = List.replicate 17088 0 := by
  obtain h | h | h := h
  · rw [reportSignature, h]
  · rw [reportSignature, h]
  · rw [reportSignature, h]; cases s.trust.lc <;> rfl

end Sys2Proof.Machine
end

section
/-! PROOF. The scope statements: levels, reset, and the events of trust (R2, R4, R70, R331 to R337). -/

namespace Sys2Proof

open Sys2Proof.Machine

/-! ### The arms of exec -/

theorem exec_rdsp (g : Guard) (sd : SCode) (r : SpReg) (s : State) : exec (.rdsp g sd r) s = execRdsp g sd r s := rfl
theorem exec_fusectrAdvance (v : BitVec 8) (s : State) : exec (.fusectrAdvance v) s = execFusectrAdvance v s := rfl
theorem exec_objectLoad (o : BmoObject) (s : State) : exec (.objectLoad o) s = execObjectLoad o s := rfl
theorem exec_textPageIn (obj chunk pa : Nat) (bs : List Byte) (s : State) :
    exec (.textPageIn obj chunk pa bs) s = execTextPageIn obj chunk pa bs s := rfl
theorem exec_attestationRequest (nonce : BitVec 256) (s : State) :
    exec (.attestationRequest nonce) s = execAttestationRequest nonce s := rfl

/-! ### Levels and reset -/

/-- A read of a special register writes its value with L = 1 (R184). -/
theorem rdsp_wrote {g : Guard} (sd : SCode) (r : SpReg) {s : State} (hg : s.guardOn g = true) :
    ∃ t, exec (.rdsp g sd r) s = .next t ∧ WroteS s t sd (spValue s r) (s.due 1) := by
  rw [exec_rdsp, execRdsp, guarded_on _ hg]
  exact finishS_wrote s sd (spValue s r) 1

/-- Settles O11: rdsp writes the constants of sr.feature and sr.arith. -/
theorem featureLevels : Obligations.FeatureLevels := by
  intro g sd s hg hsd
  obtain ⟨t, ht, hw⟩ := rdsp_wrote sd (.sys .feature) hg
  obtain ⟨u, hu, hv⟩ := rdsp_wrote sd (.sys .arith) hg
  have hfeature : t.scalarAt sd (s.due 1) = 0x0104 := by rw [hw.value, if_neg hsd]; rfl
  have harith : u.scalarAt sd (s.due 1) = 1 := by rw [hv.value, if_neg hsd]; rfl
  exact ⟨⟨t, ht, by rw [hfeature]; rfl, by rw [hfeature]; rfl⟩, u, hu, harith⟩

/-- No register of a task that has written nothing is set (R69, R122, R214). -/
theorem settled_zero {w : Nat} (n : Nat) : (RegFile.zero : RegFile w).settled n = 0 := rfl

/-- The first turn after reset is that of the units that zero HBM (R70). -/
theorem reset_bootInv : BootInv State.reset := fun _ => Or.inr ⟨0, rfl, rfl⟩

/-- Settles O41: every table of the reset state is empty, and what a table does not list is idle, free, disabled or zero. -/
theorem resetLeaves : Obligations.ResetLeaves := by
  unfold Obligations.ResetLeaves
  intro s
  have hregs (n : Nat) : Ctx.idle.arch.s.settled n = 0 ∧ Ctx.idle.arch.p.settled n = 0 ∧ Ctx.idle.arch.m.settled n = 0 ∧
      Ctx.idle.arch.v.settled n = 0 ∧ Ctx.idle.arch.t.settled n = 0 ∧ Ctx.idle.arch.acc.settled n = 0 :=
    ⟨settled_zero n, settled_zero n, settled_zero n, settled_zero n, settled_zero n, settled_zero n⟩
  exact ⟨fun _ => rfl, rfl, rfl, rfl, hregs, fun _ => rfl, rfl, rfl, fun _ => rfl, fun _ => rfl, fun _ _ => ⟨rfl, rfl⟩,
    fun _ => rfl, fun _ => rfl, fun _ => rfl, fun _ => rfl, fun _ => rfl, fun _ => ⟨rfl, rfl⟩, rfl, rfl, rfl,
    reset_mem_wf, reset_bootInv⟩

/-! ### Cold reset and life cycle -/

/-- What a wiped module is, but for its measurements, life-cycle state and key (R4, R70). -/
def Wiped (s t : State) : Prop :=
  t.ctxs = [] ∧ t.hbmReady = false ∧ t.work = [.hbmZeroComplete] ∧ t.tlb = [] ∧ t.launches = [] ∧ t.stash = [] ∧
    t.trust.objects = [] ∧ t.trust.cache = [] ∧ t.trust.fusectr = s.trust.fusectr ∧ t.fused = s.fused ∧
    (∀ a, a < 2 ^ 40 → memGet t.mem a = 0)

/-- The module after a cold reset. -/
def coldState (s : State) : State :=
  { wipe s with wall := 0, trust := { (wipe s).trust with meas := laterMeasures bootMeasures (Config.laterImages s.tick) } }

/-- The module after a transition to the state goal. -/
def transitioned (goal : LifeCycle) (s : State) : State :=
  let u := wipe (endTasks s)
  { u with trust := { u.trust with lc := goal, deviceKey := keyAfter s goal } }

/-- An engine command of an ended task still runs (R337). -/
def commandsRun (s : State) : Bool := (endTasks s).ctxs.any fun p => p.2.cmds.any (cmdRuns (endTasks s) p.1)

theorem exec_coldReset (s : State) : exec .coldReset s = .next (coldState s) := rfl

theorem lifecycleTransition_skipping {goal : LifeCycle} {s : State} (h : lifeIndex goal ≠ lifeIndex s.trust.lc + 1) :
    exec (.lifecycleTransition goal) s = .next s := congrArg Host.Outcome.next (if_neg h)

theorem lifecycleTransition_waiting {goal : LifeCycle} {s : State} (h : lifeIndex goal = lifeIndex s.trust.lc + 1)
    (hr : commandsRun s = true) : exec (.lifecycleTransition goal) s = .next { endTasks s with issue := .braked } :=
  congrArg Host.Outcome.next ((if_pos h).trans (if_pos hr))

theorem lifecycleTransition_wiping {goal : LifeCycle} {s : State} (h : lifeIndex goal = lifeIndex s.trust.lc + 1)
    (hr : commandsRun s = false) : exec (.lifecycleTransition goal) s = .next (transitioned goal s) :=
  congrArg Host.Outcome.next ((if_pos h).trans (if_neg (Bool.eq_false_iff.1 hr)))

theorem coldState_wiped (s : State) : Wiped s (coldState s) :=
  ⟨rfl, rfl, rfl, rfl, rfl, rfl, rfl, rfl, rfl, rfl, fun _ ha => memGet_wipe_hbm s ha⟩

theorem transitioned_wiped (goal : LifeCycle) (s : State) : Wiped s (transitioned goal s) :=
  ⟨rfl, rfl, rfl, rfl, rfl, rfl, rfl, rfl, show (endTasks s).trust.fusectr = _ by rw [endTasks_trust], endTasks_fused s,
    fun _ ha => memGet_wipe_hbm (endTasks s) ha⟩

/-- A cold reset wipes the module, and so does a transition that does not wait. -/
theorem wiping_events (goal : LifeCycle) (s t : State) (h : exec .coldReset s = .next t ∨
    (lifeIndex goal = lifeIndex s.trust.lc + 1 ∧ exec (.lifecycleTransition goal) s = .next t ∧ t.issue = .ok)) :
    Wiped s t := by
  obtain h | ⟨hgoal, h, hok⟩ := h
  · rw [exec_coldReset] at h
    cases h
    exact coldState_wiped s
  · cases hr : commandsRun s with
    | true =>
      rw [lifecycleTransition_waiting hgoal hr] at h
      cases h
      cases hok
    | false =>
      rw [lifecycleTransition_wiping hgoal hr] at h
      cases h
      exact transitioned_wiped goal s

/-- The measurements after a cold reset: MEAS0 to MEAS4 by the boot ROM, MEAS5 to MEAS15 by firmware (R335). -/
theorem coldReset_measures (s : State) : ∃ t, exec .coldReset s = .next t ∧ t.wall = 0 ∧
    t.trust.lc = s.trust.lc ∧ t.trust.deviceKey = s.trust.deviceKey ∧
    (∀ n, n < 5 → amGet 0 t.trust.meas n = sha256 (digestBytes 0 ++ digestBytes (sha256 (Config.firmwareImage n)))) ∧
    (∀ n, 5 ≤ n → n < 16 → amGet 0 t.trust.meas n =
      ((Config.laterImages s.tick).filter (·.1 = n)).foldl
        (fun x p => sha256 (digestBytes x ++ digestBytes (sha256 p.2))) 0) ∧
    ∀ n, 16 ≤ n → amGet 0 t.trust.meas n = 0 := by
  have hmeas : (coldState s).trust.meas = laterMeasures bootMeasures (Config.laterImages s.tick) := rfl
  refine ⟨coldState s, exec_coldReset s, rfl, rfl, rfl, fun n hn => ?_, fun n h5 h16 => ?_, fun n hn => ?_⟩
  · rw [hmeas, amGet_laterMeasures, if_neg (by omega), amGet_bootMeasures, if_pos hn]
  · rw [hmeas, amGet_laterMeasures, if_pos (by omega), amGet_bootMeasures, if_neg (by omega)]
  · rw [hmeas, amGet_laterMeasures, if_neg (by omega), amGet_bootMeasures, if_neg (by omega)]

/-- A transition leads one place on, waits while commands run, and otherwise changes nothing (R337). -/
theorem lifecycleTransition_outcomes (goal : LifeCycle) (s : State) :
    ∃ t, exec (.lifecycleTransition goal) s = .next t ∧
    (lifeIndex goal = lifeIndex s.trust.lc + 1 → commandsRun s = true → t = { endTasks s with issue := .braked }) ∧
    (lifeIndex goal = lifeIndex s.trust.lc + 1 → commandsRun s = false → t.issue = .ok ∧ t.trust.lc = goal ∧
      (goal = .returned → t.trust.deviceKey = none) ∧ (goal = .provisioned → t.trust.deviceKey.isSome = true)) ∧
    (lifeIndex goal ≠ lifeIndex s.trust.lc + 1 → t = s) := by
  by_cases hgoal : lifeIndex goal = lifeIndex s.trust.lc + 1
  · cases hr : commandsRun s with
    | true =>
      exact ⟨_, lifecycleTransition_waiting hgoal hr, fun _ _ => rfl, fun _ h => absurd h (by decide),
        fun h => absurd hgoal h⟩
    | false =>
      refine ⟨_, lifecycleTransition_wiping hgoal hr, fun _ h => absurd h (by decide), fun _ _ => ⟨rfl, rfl, ?_, ?_⟩,
        fun h => absurd hgoal h⟩
      · rintro rfl; rfl
      · rintro rfl; rfl
  · exact ⟨s, lifecycleTransition_skipping hgoal, fun h => absurd h hgoal, fun h => absurd h hgoal, fun _ => rfl⟩

/-! ### Security versions, loads, text and reports -/

/-- FUSECTR only rises, and drops the loads below it that have mapped no text (R334). -/
theorem fusectrAdvance_outcomes (v : BitVec 8) (s : State) : ∃ t, exec (.fusectrAdvance v) s = .next t ∧
    let bad := fun (p : Nat × LoadedObject) => p.2.svn < v.toNat ∧ p.2.resident = [] ∧ p.2.native = false
    t.trust.fusectr = (if s.trust.fusectr < v then v else s.trust.fusectr) ∧
    (¬s.trust.fusectr < v → t = s) ∧
    (s.trust.fusectr < v →
      (∀ e, e ∈ t.trust.cache ↔ e ∈ s.trust.cache ∧ v.toNat ≤ e.svn) ∧
      (∀ p, p ∈ t.trust.objects ↔ p ∈ s.trust.objects ∧ ¬bad p) ∧
      ((∀ p ∈ s.trust.objects, ¬bad p) → t.mem = s.mem ∧ t.trust.loadCode = s.trust.loadCode) ∧
      ((∃ p ∈ s.trust.objects, bad p) → t.trust.loadCode = 7 ∧
        t.mem = (s.perform none ((s.trust.objects.filter fun p => decide (bad p)).flatMap fun p => unmapCells s p.2.obj)).mem)) := by
  by_cases hlt : s.trust.fusectr < v
  · obtain ⟨t, ht, hctr, hcache, hobjects, hcode, hmem⟩ := fusectrAdvance_raises hlt
    simp only [refusedLoad_eq_decide] at hobjects hcode hmem
    refine ⟨t, (exec_fusectrAdvance v s).trans ht, ?_⟩
    intro bad
    refine ⟨by rw [hctr, if_pos hlt], fun h => absurd hlt h,
      fun _ => ⟨fun e => ?_, fun p => ?_, fun hgood => ?_, fun hbad => ?_⟩⟩
    · rw [hcache, List.mem_filter, decide_eq_true_iff]
    · rw [hobjects, List.mem_filter, Bool.not_eq_true', decide_eq_false_iff_not]
    · have hnone : (s.trust.objects.filter fun p => decide (bad p)).isEmpty = true :=
        List.isEmpty_iff.2 (List.filter_eq_nil_iff.2 fun p hp h => hgood p hp (of_decide_eq_true h))
      exact ⟨hmem.trans (congrArg State.mem (if_pos hnone)), hcode.trans (if_pos hnone)⟩
    · have hsome : ¬(s.trust.objects.filter fun p => decide (bad p)).isEmpty = true := by
        obtain ⟨p, hp, h⟩ := hbad
        exact fun hnil => List.filter_eq_nil_iff.1 (List.isEmpty_iff.1 hnil) p hp (decide_eq_true h)
      exact ⟨hcode.trans (if_neg hsome), hmem.trans (congrArg State.mem (if_neg hsome))⟩
  · have hkeeps : exec (.fusectrAdvance v) s = .next s := congrArg Host.Outcome.next (if_neg hlt)
    exact ⟨s, hkeeps, (if_neg hlt).symm, fun _ => rfl, fun h => absurd h hlt⟩

/-- A load that fails a check gives its number, one whose tables or places are ill changes nothing, and any other is kept
(R331, R362). -/
theorem objectLoad_outcomes (o : BmoObject) (s : State) :
    (∀ k, (loadChecks s o).findIdx? (· == false) = some k →
      exec (.objectLoad o) s = .next { s with trust := { s.trust with loadCode := k + 1 } }) ∧
    ((loadChecks s o).all id = true →
      (tablesOk o = false ∨ placementOk s o = false → exec (.objectLoad o) s = .next s) ∧
      (tablesOk o = true → placementOk s o = true → ∃ t b, exec (.objectLoad o) s = .next t ∧ t.trust.loadCode = 0 ∧
        amFind t.trust.objects (nextObject s.trust.objects) =
          some { obj := o, svn := headBits o.bytes 0x10 0 32, resident := [], native := b } ∧
        (b = true ↔ o.native ≠ none ∧ cachedFor t (rootOf o.bytes) ≠ none) ∧
        (b = false → t.mem = (s.perform none (loadCells s o)).mem))) := by
  rw [exec_objectLoad]
  refine ⟨fun k hk => objectLoad_refused hk, fun hall => ?_⟩
  rw [objectLoad_passed hall]
  refine ⟨fun hill => ?_, fun htables hplaces => ?_⟩
  · have hno : (tablesOk o && placementOk s o) = false := Bool.and_eq_false_iff.2 hill
    rw [hno]; rfl
  · obtain ⟨b, hspec⟩ := placeObject_spec s o
    rw [htables, hplaces]
    exact ⟨placeObject s o, b, rfl, hspec⟩

/-- The step makes the chunk resident at p over the memory m, its page mapped when it is whole (R332). -/
def ChunkPlaced (out : Host.Outcome State Fault Refusal) (obj : Nat) (o : LoadedObject) (x : Section) (chunk : Nat) (m : Memory)
    (p : Nat) : Prop :=
  ∃ (t v : State) (y : LoadedObject), out = .next t ∧ v.mem = m ∧
    amFind t.trust.objects obj = some y ∧ y = withChunk o chunk p ∧ t.mem = (v.perform none (textCells v y x chunk)).mem

theorem mapChunk_placed (s : State) (obj : Nat) (o : LoadedObject) (x : Section) (chunk p : Nat) :
    ChunkPlaced (.next (mapChunk s obj o x chunk p)) obj o x chunk s.mem p :=
  ⟨_, _, _, rfl, rfl, amFind_amSet_same .., rfl, rfl⟩

/-- A chunk whose leaf fails is counted; one whose leaf is the verified one shares the frame of an equal page, or enters memory
where the loader's frame takes it (R332). -/
theorem textPageIn_outcomes (obj chunk pa i : Nat) (bs : List Byte) (o : LoadedObject) (x : Section) (s : State)
    (ho : amFind s.trust.objects obj = some o) (hx : textSection o.obj chunk = some (x, i))
    (hc : chunk < nchunk o.obj.bytes) (hp : pa % 65536 = (4096 * chunk - x.off) % 65536) (hpa : pa < 2 ^ 40) :
    (chunkLeaf bs ≠ chunkLeaf (chunkOf o.obj.bytes chunk) → ∃ t, exec (.textPageIn obj chunk pa bs) s = .next t ∧
      t.trust = { s.trust with leafFailures := s.trust.leafFailures + 1 } ∧ t.tlb = s.tlb) ∧
    (chunkLeaf bs = chunkLeaf (chunkOf o.obj.bytes chunk) →
      (sharedFrame s o.obj x i chunk = none →
        (FrameTakes s obj o x chunk pa → ChunkPlaced (exec (.textPageIn obj chunk pa bs) s) obj o x chunk
          (s.perform none (cellsAt pa (chunkBytes s o.obj x i chunk))).mem pa) ∧
        (¬FrameTakes s obj o x chunk pa → exec (.textPageIn obj chunk pa bs) s = .next s)) ∧
      ∀ f, sharedFrame s o.obj x i chunk = some f →
        ChunkPlaced (exec (.textPageIn obj chunk pa bs) s) obj o x chunk s.mem (f + chunkPlace x chunk)) := by
  rw [exec_textPageIn, textPageIn_placed bs ho hx hc hp hpa]
  refine ⟨fun hleaf => ?_, fun hleaf => ?_⟩
  · rw [if_pos hleaf]
    exact ⟨_, rfl, leafFailure_frame ..⟩
  · rw [if_neg (not_not_intro hleaf)]
    refine ⟨fun hown => ⟨fun htakes => ?_, fun htaken => ?_⟩, fun f hshared => ?_⟩
    · rw [(placeChunk_unshared pa hown).1 htakes]
      exact mapChunk_placed ..
    · rw [(placeChunk_unshared pa hown).2 htaken]
    · rw [placeChunk_shared pa hshared]
      exact mapChunk_placed ..

/-- The fields of a report (R336, Table 17-5). -/
theorem attestationRequest_report (nonce : BitVec 256) (s : State) :
    ∃ t r, exec (.attestationRequest nonce) s = .next t ∧
    t = { s with trust := { s.trust with reports := s.trust.reports ++ [r] } } ∧
    leNat (r.take 8) = 1 + 2 ^ 16 * lifeIndex s.trust.lc + 2 ^ 24 * s.trust.fusectr.toNat ∧
    (r.drop 16).take 32 = digestBytes nonce ∧
    (∀ n, n < 16 → (r.drop (48 + 32 * n)).take 32 = digestBytes (amGet 0 s.trust.meas n)) ∧
    (∀ key, s.trust.deviceKey = some key → (r.drop 560).take 32 = devicePublicKey key ∧
      (s.trust.lc = .provisioned ∨ s.trust.lc = .deployed → r.drop 592 = deviceSign key s.tick (r.take 592))) ∧
    (s.trust.lc = .manufacturing ∨ s.trust.lc = .returned ∨ s.trust.deviceKey = none →
      r.drop 592 = List.replicate 17088 0) := by
  let sig := reportSignature s (reportBody s nonce)
  refine ⟨_, reportBody s nonce ++ sig, exec_attestationRequest nonce s, rfl, report_state s nonce sig,
    report_block s nonce sig (n := 0) (by decide), fun n hn => ?_, fun key hkey => ⟨?_, fun hlc => ?_⟩, fun hzero => ?_⟩
  · have hplace : 48 + 32 * n = 16 + 32 * (n + 1) := by omega
    rw [hplace, report_block s nonce sig (by omega)]
    simp [reportBlocks, upto, hn]
  · have hblock := report_block s nonce sig (n := 17) (by decide)
    simpa [reportBlocks, upto, hkey] using hblock
  · rw [report_signature, report_body]
    exact reportSignature_signed _ hkey hlc
  · rw [report_signature]
    exact reportSignature_zero _ hzero

/-- Settles O58, clause by clause: the wipe and the measured boot, the life cycle, FUSECTR, the loader, text and reports. -/
theorem trustEvents : Obligations.TrustEvents := by
  unfold Obligations.TrustEvents
  exact ⟨fun _ => rfl, wiping_events, coldReset_measures, lifecycleTransition_outcomes, fusectrAdvance_outcomes,
    objectLoad_outcomes, textPageIn_outcomes, attestationRequest_report⟩

end Sys2Proof
end
